-- ==== Sys2Proof/Word.lean ====
section
/-! DEFINITION. The words of the device and the status codes. Registers are 64-bit words (00_scope.md R9), memory
holds bytes (01_organization.md R37); unit IDs, device IDs, cleat indices and counts are numbers. -/

namespace Sys2Proof

/-- A register or descriptor word (00_scope.md R9). -/
abbrev Word := BitVec 64

/-- A byte of memory. -/
abbrev Byte := BitVec 8

/-- A lane of a sheave or jib register, and a 32-bit element (02_number_formats.md). -/
abbrev Lane := BitVec 32

/-- The status codes of 19_faults_and_dump.md R480, in code order 0x00 to 0x13. -/
inductive Status where
  | done | timeout | full | abandoned | staleEpoch | windowClosed | shapeOverflow | outOfBounds
  | poisoned | peerLost | checksumMismatch | aborted | denied | badDescriptor | tickOverrun
  | scaleRange | fabricStall | uncorrectable | busy | unsupported
  deriving DecidableEq, Repr

end Sys2Proof
end

