-- ==== Sys2Proof/Syntax.lean ====
section
/-! DEFINITION. The commands of the block: one constructor per row of spec/opcode_table.json, with its operands. Indices
of units are bounded numbers; words, addresses and payloads are bit vectors and byte strings. -/

namespace Sys2Proof

/-- An error that SECDED finds in a flit on a link of the mesh (01_organization.md R28): the stop, its link N, S, W, E, and
whether it is uncorrectable. -/
structure MeshErr where
  col : Fin 16
  row : Fin 6
  link : Fin 4
  ue : Bool
  deriving DecidableEq, Repr

/-- The address of a unit's access; `glob`: the device that it names, where it is a global one (R40). -/
structure MemAddr where
  glob : Option (BitVec 17) := none
  a : BitVec 47
  deriving DecidableEq, Repr

/-- What a read meets on its way: the ECC outcome of each line that it touches (R197: none, corrected, uncorrectable) and
the link errors of its flits (R28). -/
structure ReadErr where
  ecc : List (Fin 3) := []
  mesh : List MeshErr := []
  deriving DecidableEq, Repr

/-- What a write carries besides its bytes: whether its unit sends them poisoned (R197), and the link errors of its flits (R28). -/
structure WriteErr where
  poison : Bool := false
  mesh : List MeshErr := []
  deriving DecidableEq, Repr

/-- The step from one row to the next of a strided or transposed read (R181, R182), the ECC outcome of each line that it
touches (R197), and the link errors of its flits (R28). -/
structure MemRows where
  step : BitVec 32
  ecc : List (Fin 3) := []
  mesh : List MeshErr := []
  deriving DecidableEq, Repr

/-- The header of a cleat operation that reaches a cleat unit (11_cleats_and_step_tick.md R297): the issuer's global
unit ID, the cleat index, and the epoch check; with the link errors of its flits (R28). -/
structure CltHdr where
  issuer : BitVec 33
  index : BitVec 16
  chk : Bool
  epoch : BitVec 4
  mesh : List MeshErr := []
  deriving DecidableEq, Repr

/-- How a Ghenko PDU was encapsulated (13_ghenko_ethernet.md R347, R349, R350): destination MAC address, VID of its C-tag,
encapsulation (0 RAW, 1 UDP6, 2 UDP4) with its EtherType or its UDP destination port, what its UDP checksum says (0 right, 1
wrong, 2 zero), and the number of the MACsec association that protects it. -/
structure Wire where
  dst : BitVec 48 := 0
  vid : Option (BitVec 12) := none
  encap : Fin 3 := 0
  port : BitVec 16 := 0x88B5
  sum : Fin 3 := 0
  an : Option (Fin 4) := none
  deriving DecidableEq, Repr

/-- A received Ghenko frame as it leaves the MAC: the base header of 13_ghenko_ethernet.md R352, the subheader and
payload bytes after decryption, and what the receive checks of R366 need of the lower layers. -/
structure Frame where
  port : Fin 18
  sub : Fin 4
  /-- FCS, MACsec ICV and replay check passed -/
  good : Bool
  wire : Wire := {}
  /-- the link errors of the flits that carry it into the mesh (R28) -/
  mesh : List MeshErr := []
  /-- FEC codewords of the sub-port corrected and uncorrected since its last frame (R346, R374) -/
  fec : Nat × Nat := (0, 0)
  /-- marked CE by the network (R369) -/
  ce : Bool
  verFlags : Byte
  typeCls : Byte
  conn : BitVec 16
  seq : BitVec 32
  ackSeq : BitVec 32
  srcDev : BitVec 32
  dstDev : BitVec 32
  srcUnit : BitVec 16
  length : BitVec 16
  tsVal : BitVec 32
  tsEcr : BitVec 32
  /-- transmit counter and tag of PROT GCM (R351) -/
  txCnt : Word
  tag : BitVec 128
  /-- source address, for the host channel -/
  src : BitVec 128
  subhdr : List Byte
  pay : List Byte
  deriving DecidableEq, Repr

/-- Where a halyard message comes from: send slot `slot` of owner `o` of this device, with the link errors of its flits (R28),
or a HALYARD or DOWNHAUL frame (10_halyards.md R273). -/
inductive HalSrc where
  | job (o : Fin 9) (slot : Fin 64) (mesh : List MeshErr := [])
  | frame (f : Frame)
  deriving DecidableEq, Repr


/-- A JTAG instruction or TAP access (17_security.md R460): IDCODE, BYPASS, the boundary-scan instructions, crowsnest core
debug, and an access of register space. -/
inductive JtagOp where
  | idcode | bypass | extest | sample | ac1149
  | core
  | regRead (addr : Word)
  | regWrite (addr value : Word)
  deriving DecidableEq, Repr

/-- The commands: one constructor per row of the command table, in its order. -/
inductive Instr where
  /-- NOP, R409 -/
  | nop (i : Fin 64)
  /-- IDENTIFY, R409 -/
  | identify (i : Fin 64)
  /-- GET_INFO, R531 -/
  | getInfo (i : Fin 64)
  /-- SET_DEVICE_ID, R41 -/
  | setDeviceId (i : Fin 64)
  /-- GET_CERTS, R448 -/
  | getCerts (i : Fin 64)
  /-- ATTEST, R450 -/
  | attest (i : Fin 64)
  /-- SESSION_OPEN, R456 -/
  | sessionOpen (i : Fin 64)
  /-- KEY_IMPORT, R453 -/
  | keyImport (i : Fin 64)
  /-- DEBUG_UNLOCK, R460 -/
  | debugUnlock (i : Fin 64)
  /-- FW_STAGE, R468 -/
  | fwStage (i : Fin 64)
  /-- FW_ACTIVATE, R468 -/
  | fwActivate (i : Fin 64)
  /-- IMAGE_STAGE, R405 -/
  | imageStage (i : Fin 64)
  /-- SECTION_LOAD, R429 -/
  | sectionLoad (i : Fin 64)
  /-- SECTION_START, R434 -/
  | sectionStart (i : Fin 64)
  /-- SECTION_SUSPEND, R438 -/
  | sectionSuspend (i : Fin 64)
  /-- SECTION_RESUME, R441 -/
  | sectionResume (i : Fin 64)
  /-- SECTION_UNLOAD, R435 -/
  | sectionUnload (i : Fin 64)
  /-- SECTION_SWITCH, R436 -/
  | sectionSwitch (i : Fin 64)
  /-- TIME_GET, R409 -/
  | timeGet (i : Fin 64)
  /-- TIME_ADJUST, R311 -/
  | timeAdjust (i : Fin 64)
  /-- TICK_CONFIG, R314 -/
  | tickConfig (i : Fin 64)
  /-- TICK_RUN, R314 -/
  | tickRun (i : Fin 64)
  /-- PTP_CONFIG, R409 -/
  | ptpConfig (i : Fin 64)
  /-- WINDOW_OPEN, R454 -/
  | windowOpen (i : Fin 64)
  /-- WINDOW_CLOSE, R355 -/
  | windowClose (i : Fin 64)
  /-- REG_READ, R537 -/
  | regRead (i : Fin 64)
  /-- REG_WRITE, R538 -/
  | regWrite (i : Fin 64)
  /-- TELEMETRY, R531 -/
  | telemetry (i : Fin 64)
  /-- POWER_STATE, R472 -/
  | powerState (i : Fin 64)
  /-- POWER_CAP, R475 -/
  | powerCap (i : Fin 64)
  /-- CAL_READ, R469 -/
  | calRead (i : Fin 64)
  /-- CAL_APPLY, R471 -/
  | calApply (i : Fin 64)
  /-- CLEAT_DUMP, R305 -/
  | cleatDump (i : Fin 64)
  /-- QUEUE_DUMP, R409 -/
  | queueDump (i : Fin 64)
  /-- CRASH_FETCH, R500 -/
  | crashFetch (i : Fin 64)
  /-- CRASH_CLEAR, R500 -/
  | crashClear (i : Fin 64)
  /-- RESET, R462 -/
  | reset (i : Fin 64)
  /-- ABORT, R418 -/
  | abort (i : Fin 64)
  /-- CMD, R400 -/
  | cmd (f : Frame)
  /-- DATA_IN, R405 -/
  | dataIn (f : Frame)
  /-- COMMAND_RESOURCE_TIMEOUT, R407 -/
  | commandResourceTimeout (i : Fin 64)
  /-- COMMAND_DATA_TIMEOUT, R408 -/
  | commandDataTimeout (i : Fin 64)
  /-- MMA_NOP, R80 -/
  | mmaNop (m : Fin 8) (w : List Word) (poisoned : Bool)
  /-- MMA, R83 -/
  | mma (m : Fin 8) (w : List Word) (poisoned : Bool)
  /-- MMA_LIST, R89 -/
  | mmaList (m : Fin 8) (w : List Word) (poisoned : Bool)
  /-- B_TAP_DELIVER, R87 -/
  | bTapDeliver (m : Fin 8) (slot : Fin 4) (sail : Fin 16)
  /-- JIB_NOP, R152 -/
  | jibNop (j : Fin 32) (w : List Word) (poisoned : Bool)
  /-- JIB_MOV, R152 -/
  | jibMov (j : Fin 32) (w : List Word) (poisoned : Bool)
  /-- JIB_ADD, R152 -/
  | jibAdd (j : Fin 32) (w : List Word) (poisoned : Bool)
  /-- JIB_SUB, R152 -/
  | jibSub (j : Fin 32) (w : List Word) (poisoned : Bool)
  /-- JIB_MUL, R152 -/
  | jibMul (j : Fin 32) (w : List Word) (poisoned : Bool)
  /-- JIB_FMA, R152 -/
  | jibFma (j : Fin 32) (w : List Word) (poisoned : Bool)
  /-- JIB_MAX, R152 -/
  | jibMax (j : Fin 32) (w : List Word) (poisoned : Bool)
  /-- JIB_MIN, R152 -/
  | jibMin (j : Fin 32) (w : List Word) (poisoned : Bool)
  /-- JIB_ABS, R152 -/
  | jibAbs (j : Fin 32) (w : List Word) (poisoned : Bool)
  /-- JIB_NEG, R152 -/
  | jibNeg (j : Fin 32) (w : List Word) (poisoned : Bool)
  /-- JIB_AND, R152 -/
  | jibAnd (j : Fin 32) (w : List Word) (poisoned : Bool)
  /-- JIB_OR, R152 -/
  | jibOr (j : Fin 32) (w : List Word) (poisoned : Bool)
  /-- JIB_XOR, R152 -/
  | jibXor (j : Fin 32) (w : List Word) (poisoned : Bool)
  /-- JIB_SHL, R152 -/
  | jibShl (j : Fin 32) (w : List Word) (poisoned : Bool)
  /-- JIB_SHR, R152 -/
  | jibShr (j : Fin 32) (w : List Word) (poisoned : Bool)
  /-- JIB_ASR, R152 -/
  | jibAsr (j : Fin 32) (w : List Word) (poisoned : Bool)
  /-- JIB_CMPEQ, R152 -/
  | jibCmpeq (j : Fin 32) (w : List Word) (poisoned : Bool)
  /-- JIB_CMPLT, R152 -/
  | jibCmplt (j : Fin 32) (w : List Word) (poisoned : Bool)
  /-- JIB_CMPLE, R152 -/
  | jibCmple (j : Fin 32) (w : List Word) (poisoned : Bool)
  /-- JIB_SEL, R152 -/
  | jibSel (j : Fin 32) (w : List Word) (poisoned : Bool)
  /-- JIB_CVT, R152 -/
  | jibCvt (j : Fin 32) (w : List Word) (poisoned : Bool)
  /-- JIB_RCP, R152 -/
  | jibRcp (j : Fin 32) (w : List Word) (poisoned : Bool)
  /-- JIB_DIV, R152 -/
  | jibDiv (j : Fin 32) (w : List Word) (poisoned : Bool)
  /-- JIB_SQRT, R152 -/
  | jibSqrt (j : Fin 32) (w : List Word) (poisoned : Bool)
  /-- JIB_RSQRT, R152 -/
  | jibRsqrt (j : Fin 32) (w : List Word) (poisoned : Bool)
  /-- JIB_EXP, R152 -/
  | jibExp (j : Fin 32) (w : List Word) (poisoned : Bool)
  /-- JIB_EXP2, R152 -/
  | jibExp2 (j : Fin 32) (w : List Word) (poisoned : Bool)
  /-- JIB_LOG, R152 -/
  | jibLog (j : Fin 32) (w : List Word) (poisoned : Bool)
  /-- JIB_LOG2, R152 -/
  | jibLog2 (j : Fin 32) (w : List Word) (poisoned : Bool)
  /-- JIB_TANH, R152 -/
  | jibTanh (j : Fin 32) (w : List Word) (poisoned : Bool)
  /-- JIB_SIGMOID, R152 -/
  | jibSigmoid (j : Fin 32) (w : List Word) (poisoned : Bool)
  /-- JIB_SILU, R152 -/
  | jibSilu (j : Fin 32) (w : List Word) (poisoned : Bool)
  /-- JIB_GELU, R152 -/
  | jibGelu (j : Fin 32) (w : List Word) (poisoned : Bool)
  /-- JIB_SIN, R152 -/
  | jibSin (j : Fin 32) (w : List Word) (poisoned : Bool)
  /-- JIB_COS, R152 -/
  | jibCos (j : Fin 32) (w : List Word) (poisoned : Bool)
  /-- SILUMUL, R152 -/
  | silumul (j : Fin 32) (w : List Word) (poisoned : Bool)
  /-- JIB_RSUM, R152 -/
  | jibRsum (j : Fin 32) (w : List Word) (poisoned : Bool)
  /-- JIB_RMAX, R152 -/
  | jibRmax (j : Fin 32) (w : List Word) (poisoned : Bool)
  /-- RMIN, R152 -/
  | rmin (j : Fin 32) (w : List Word) (poisoned : Bool)
  /-- ARGMAX, R152 -/
  | argmax (j : Fin 32) (w : List Word) (poisoned : Bool)
  /-- RMAXREC, R156 -/
  | rmaxrec (j : Fin 32) (w : List Word) (poisoned : Bool)
  /-- COMPRESS, R157 -/
  | compress (j : Fin 32) (w : List Word) (poisoned : Bool)
  /-- EXPAND, R157 -/
  | expand (j : Fin 32) (w : List Word) (poisoned : Bool)
  /-- TOPK, R158 -/
  | topk (j : Fin 32) (w : List Word) (poisoned : Bool)
  /-- SAMPLE, R159 -/
  | sample (j : Fin 32) (w : List Word) (poisoned : Bool)
  /-- TREEMASK, R161 -/
  | treemask (j : Fin 32) (w : List Word) (poisoned : Bool)
  /-- SMXUPD, R162 -/
  | smxupd (j : Fin 32) (w : List Word) (poisoned : Bool)
  /-- QUANT, R163 -/
  | quant (j : Fin 32) (w : List Word) (poisoned : Bool)
  /-- RMSNORM, R163 -/
  | rmsnorm (j : Fin 32) (w : List Word) (poisoned : Bool)
  /-- TMMA, R164 -/
  | tmma (j : Fin 32) (w : List Word) (poisoned : Bool)
  /-- TTRANS, R164 -/
  | ttrans (j : Fin 32) (w : List Word) (poisoned : Bool)
  /-- HRECV, R165 -/
  | hrecv (j : Fin 32) (w : List Word) (poisoned : Bool)
  /-- FIRE_COMPUTE, R128 -/
  | fireCompute (m : Fin 8) (n : Fin 256)
  /-- SWITCH, R130 -/
  | switch (m : Fin 8) (n : Fin 256)
  /-- SELECT, R130 -/
  | select (m : Fin 8) (n : Fin 256)
  /-- MERGE, R130 -/
  | merge (m : Fin 8) (n : Fin 256)
  /-- SHV_NOP, R124 -/
  | shvNop (m : Fin 8) (n : Fin 256)
  /-- SHV_MOV, R124 -/
  | shvMov (m : Fin 8) (n : Fin 256)
  /-- SHV_ADD, R124 -/
  | shvAdd (m : Fin 8) (n : Fin 256)
  /-- SHV_SUB, R124 -/
  | shvSub (m : Fin 8) (n : Fin 256)
  /-- SHV_MUL, R124 -/
  | shvMul (m : Fin 8) (n : Fin 256)
  /-- SHV_FMA, R124 -/
  | shvFma (m : Fin 8) (n : Fin 256)
  /-- SHV_MAX, R124 -/
  | shvMax (m : Fin 8) (n : Fin 256)
  /-- SHV_MIN, R124 -/
  | shvMin (m : Fin 8) (n : Fin 256)
  /-- SHV_ABS, R124 -/
  | shvAbs (m : Fin 8) (n : Fin 256)
  /-- SHV_NEG, R124 -/
  | shvNeg (m : Fin 8) (n : Fin 256)
  /-- SHV_AND, R124 -/
  | shvAnd (m : Fin 8) (n : Fin 256)
  /-- SHV_OR, R124 -/
  | shvOr (m : Fin 8) (n : Fin 256)
  /-- SHV_XOR, R124 -/
  | shvXor (m : Fin 8) (n : Fin 256)
  /-- SHV_SHL, R124 -/
  | shvShl (m : Fin 8) (n : Fin 256)
  /-- SHV_SHR, R124 -/
  | shvShr (m : Fin 8) (n : Fin 256)
  /-- SHV_ASR, R124 -/
  | shvAsr (m : Fin 8) (n : Fin 256)
  /-- SHV_CMPEQ, R124 -/
  | shvCmpeq (m : Fin 8) (n : Fin 256)
  /-- SHV_CMPLT, R124 -/
  | shvCmplt (m : Fin 8) (n : Fin 256)
  /-- SHV_CMPLE, R124 -/
  | shvCmple (m : Fin 8) (n : Fin 256)
  /-- SHV_SEL, R124 -/
  | shvSel (m : Fin 8) (n : Fin 256)
  /-- SHV_CVT, R124 -/
  | shvCvt (m : Fin 8) (n : Fin 256)
  /-- SHV_RSUM, R126 -/
  | shvRsum (m : Fin 8) (n : Fin 256)
  /-- SHV_RMAX, R124 -/
  | shvRmax (m : Fin 8) (n : Fin 256)
  /-- LANE, R124 -/
  | lane (m : Fin 8) (n : Fin 256)
  /-- INS, R124 -/
  | ins (m : Fin 8) (n : Fin 256)
  /-- TAG, R124 -/
  | tag (m : Fin 8) (n : Fin 256)
  /-- SRC_COIL, R116 -/
  | srcCoil (m : Fin 8) (p : Fin 64)
  /-- SRC_TICK, R116 -/
  | srcTick (m : Fin 8) (p : Fin 64)
  /-- SRC_HALYARD, R115 -/
  | srcHalyard (m : Fin 8) (p : Fin 64)
  /-- SNK_COIL, R114 -/
  | snkCoil (m : Fin 8) (p : Fin 64)
  /-- SNK_CLEAT, R114 -/
  | snkCleat (m : Fin 8) (p : Fin 64)
  /-- SNK_STEP, R117 -/
  | snkStep (m : Fin 8) (p : Fin 64)
  /-- SPILL_ARRIVAL, R132 -/
  | spillArrival (m : Fin 8) (e : Fin 64)
  /-- SPILL_REFILL, R132 -/
  | spillRefill (m : Fin 8) (e : Fin 64)
  /-- STOP_SRC, R138 -/
  | stopSrc (m : Fin 8)
  /-- DRAIN, R138 -/
  | drain (m : Fin 8)
  /-- DRAIN_DONE, R138 -/
  | drainDone (m : Fin 8)
  /-- STALL_WATCHDOG, R136 -/
  | stallWatchdog (m : Fin 8)
  /-- COIL_RESERVE, R184 -/
  | coilReserve (m : Fin 8) (k : Byte) (unit : BitVec 16)
  /-- COIL_COMMIT, R184 -/
  | coilCommit (m : Fin 8) (k : Byte) (n : BitVec 32)
  /-- COIL_CLAIM, R184 -/
  | coilClaim (m : Fin 8) (k : Byte) (unit : BitVec 16)
  /-- COIL_RELEASE, R184 -/
  | coilRelease (m : Fin 8) (k : Byte) (n : BitVec 32)
  /-- MEM_READ, R190 -/
  | memRead (unit : BitVec 16) (ad : MemAddr) (n : BitVec 13) (met : ReadErr)
  /-- MEM_WRITE, R192 -/
  | memWrite (dev : BitVec 17) (unit : BitVec 16) (ad : MemAddr) (d : List Byte) (met : WriteErr)
  /-- STRIDED_READ, R181 -/
  | stridedRead (unit : BitVec 16) (a : BitVec 47) (e : BitVec 7) (n : BitVec 9) (rows : MemRows)
  /-- TRANSPOSED_READ, R182 -/
  | transposedRead (unit : BitVec 16) (a : BitVec 47) (rows : MemRows)
  /-- SCOREBOARD_RELEASE, R190 -/
  | scoreboardRelease (unit : BitVec 16)
  /-- SCRUB_LINE, R198 -/
  | scrubLine (m : Fin 8) (ecc : Fin 3)
  /-- FL_STEP_ENTRY, R208 -/
  | flStepEntry (f : Fin 16)
  /-- FL_DESC_INSTALL, R221 -/
  | flDescInstall (f : Fin 16)
  /-- FL_DESC_DELIVER, R209 -/
  | flDescDeliver (f : Fin 16) (k : Fin 64)
  /-- FL_PREFETCH, R216 -/
  | flPrefetch (f : Fin 16) (k : Fin 64)
  /-- FL_LINE_REQUEST, R201 -/
  | flLineRequest (f : Fin 16)
  /-- FL_DESC_COMPLETE, R223 -/
  | flDescComplete (f : Fin 16) (k : Fin 64)
  /-- SC_LINE_REQUEST, R212 -/
  | scLineRequest (h : Fin 16) (line : BitVec 29) (kind pol : Fin 3) (k : Fin 4) (ecc : Fin 3)
  /-- SC_FILL, R214 -/
  | scFill (h : Fin 16)
  /-- CLEAN, R215 -/
  | clean (h : Fin 16) (all : Bool)
  /-- CLEAN_INV, R215 -/
  | cleanInv (h : Fin 16) (all : Bool)
  /-- HBM_REQUEST, R382 -/
  | hbmRequest (h : Fin 16) (i : Fin 256) (sector : Fin 8) (ecc : Fin 3) (ondie : Bool)
  /-- HBM_CE_REWRITE, R386 -/
  | hbmCeRewrite (h : Fin 16)
  /-- HBM_REFRESH, R384 -/
  | hbmRefresh (h : Fin 16) (bank : Fin 2048) (ns : Fin 161)
  /-- HBM_TEMP_READ, R384 -/
  | hbmTempRead (h : Fin 16) (temp : Byte)
  /-- HBM_PATROL_SCRUB, R387 -/
  | hbmPatrolScrub (h : Fin 16) (ecc : Fin 3)
  /-- HBM_MAP, R380 -/
  | hbmMap (v : Word)
  /-- HBM_MAP_APPLY, R380 -/
  | hbmMapApply
  /-- HBM_KR, R389 -/
  | hbmKr (k : Fin 64) (w0 w1 : Word)
  /-- HBM_KR_APPLY, R389 -/
  | hbmKrApply (k : Fin 64)
  /-- TK_NOP, R230 -/
  | tkNop (m : Fin 8) (w : List Word) (poisoned : Bool)
  /-- COPY, R235 -/
  | copy (m : Fin 8) (w : List Word) (poisoned : Bool)
  /-- GATHER, R236 -/
  | gather (m : Fin 8) (w : List Word) (poisoned : Bool)
  /-- SCATTER, R236 -/
  | scatter (m : Fin 8) (w : List Word) (poisoned : Bool)
  /-- BGATHER, R237 -/
  | bgather (m : Fin 8) (w : List Word) (poisoned : Bool)
  /-- BSCATTER, R237 -/
  | bscatter (m : Fin 8) (w : List Word) (poisoned : Bool)
  /-- CLEAT_READ, R295 -/
  | cleatRead (h : CltHdr)
  /-- CLEAT_WAIT_GE, R295 -/
  | cleatWaitGe (h : CltHdr) (n : BitVec 31) (consume : Bool) (tmo : BitVec 20)
  /-- CLEAT_ADD, R295 -/
  | cleatAdd (h : CltHdr) (n : BitVec 31) (st : Byte)
  /-- CLEAT_SUB, R295 -/
  | cleatSub (h : CltHdr) (n : BitVec 31) (st : Byte)
  /-- CLEAT_TAKE, R295 -/
  | cleatTake (h : CltHdr) (n : BitVec 31) (st : Byte)
  /-- CLEAT_SET, R295 -/
  | cleatSet (h : CltHdr) (v : BitVec 31) (renew : Bool)
  /-- CLEAT_WAIT_ENTER, R301 -/
  | cleatWaitEnter (seg : Fin 9)
  /-- CLEAT_WAIT_TIMEOUT, R298 -/
  | cleatWaitTimeout (issuer : BitVec 33) (index : BitVec 16)
  /-- PROXY_CLEAT_OP, R357 -/
  | proxyCleatOp (i : Fin 1024)
  /-- SHROUD_ARRIVE, R308 -/
  | shroudArrive (f : Frame)
  /-- SHROUD_RELEASE, R307 -/
  | shroudRelease (f : Frame)
  /-- TICK_EDGE, R314 -/
  | tickEdge
  /-- SECTION_EDGE, R315 -/
  | sectionEdge (sec : Byte)
  /-- END_OF_STEP, R316 -/
  | endOfStep (unit : BitVec 16)
  /-- STEP_DEADLINE, R318 -/
  | stepDeadline (sec : Byte)
  /-- STEP_GRACE_EXPIRY, R319 -/
  | stepGraceExpiry (sec : Byte)
  /-- TICK_IN_EDGE, R312 -/
  | tickInEdge (sub : Fin 64)
  /-- TICK_IN_MISS, R312 -/
  | tickInMiss
  /-- PPS_IN_EDGE, R519 -/
  | ppsInEdge (sub : Fin 64)
  /-- TB_STEP, R311 -/
  | tbStep (v : Word)
  /-- RADD_ELEMENT, R331 -/
  | raddElement (f : Frame)
  /-- RADD_TRAILER, R331 -/
  | raddTrailer (f : Frame)
  /-- RADD_RETRY, R332 -/
  | raddRetry
  /-- BUCKET_ARM, R330 -/
  | bucketArm (e : Fin 4104)
  /-- BUCKET_ARM_DONE, R330 -/
  | bucketArmDone (e : Fin 4104)
  /-- ROUND_COMPLETE, R334 -/
  | roundComplete (e : Fin 4104)
  /-- ROUND_TIMEOUT, R335 -/
  | roundTimeout (e : Fin 4104)
  /-- ORD_APPLY, R340 -/
  | ordApply (o : Fin 8)
  /-- HAL_SEND_TRIGGER, R282 -/
  | halSendTrigger (o : Fin 9) (slot : Fin 64)
  /-- HAL_RESERVE, R284 -/
  | halReserve (o : Fin 9) (slot : Fin 64)
  /-- HAL_MESSAGE_LAND, R273 -/
  | halMessageLand (src : HalSrc)
  /-- NOTIFICATION_ENTER, R275 -/
  | notificationEnter (e : Fin 1152)
  /-- HAL_RESEND, R287 -/
  | halResend (o : Fin 9) (slot : Fin 64)
  /-- HAL_SEND_TIMEOUT, R287 -/
  | halSendTimeout (o : Fin 9) (slot : Fin 64)
  /-- HAL_RLIMIT_TIMEOUT, R289 -/
  | halRlimitTimeout (o : Fin 9) (c : Fin 64) (slot : Fin 64)
  /-- HAL_NOTE, R277 -/
  | halNote (c : Fin 128)
  /-- HAL_REL, R280 -/
  | halRel (o : Fin 9) (c : Fin 128) (n : BitVec 7)
  /-- HAL_SEND, R282 -/
  | halSend (o : Fin 9) (slot : Fin 64) (w0 w1 : Word)
  /-- WRITE, R355 -/
  | write (f : Frame)
  /-- READ_REQ, R355 -/
  | readReq (f : Frame)
  /-- READ_RESP, R362 -/
  | readResp (f : Frame)
  /-- CLEAT_OP, R366 -/
  | cleatOp (f : Frame)
  /-- ACK, R362 -/
  | ack (f : Frame)
  /-- NAK, R362 -/
  | nak (f : Frame)
  /-- HEARTBEAT, R370 -/
  | heartbeat (f : Frame)
  /-- ABORT_FRAME, R415 -/
  | abortFrame (f : Frame)
  /-- OPEN, R359 -/
  | openConn (f : Frame)
  /-- OPEN_ACK, R359 -/
  | openAck (f : Frame)
  /-- CLOSE, R359 -/
  | closeConn (f : Frame)
  /-- CLOSE_ACK, R359 -/
  | closeAck (f : Frame)
  /-- ETHERNET_FRAME_RX, R347 -/
  | ethernetFrameRx (port : Fin 18) (sub : Fin 4) (good prot : Bool) (bytes : List Byte)
  /-- RETRANSMIT_TIMEOUT, R364 -/
  | retransmitTimeout (c : Fin 4096)
  /-- OPEN_RETRY, R359 -/
  | openRetry (c : Fin 4096)
  /-- CLOSE_RETRY, R359 -/
  | closeRetry (c : Fin 4096)
  /-- ACK_DELAY, R363 -/
  | ackDelay (c : Fin 4096)
  /-- HEARTBEAT_SEND, R370 -/
  | heartbeatSend (c : Fin 4096)
  /-- HEARTBEAT_LOSS, R370 -/
  | heartbeatLoss (c : Fin 4096)
  /-- LINK_DOWN, R370 -/
  | linkDown (port : Fin 18) (sub : Fin 4)
  /-- LINK_UP, R368 -/
  | linkUp (port : Fin 18) (sub : Fin 4) (verify : Bool)
  /-- CONN_OPEN, R359 -/
  | connOpen (c : Fin 4096)
  /-- CONN_CLOSE, R359 -/
  | connClose (c : Fin 4096)
  /-- CONN_RESET, R359 -/
  | connReset (c : Fin 4096)
  /-- WIN_OPEN, R355 -/
  | winOpen (w : Fin 1024)
  /-- WIN_CLOSE, R355 -/
  | winClose (w : Fin 1024)
  /-- WINDOW_CLOSE_DONE, R355 -/
  | windowCloseDone (w : Fin 1024)
  /-- PORT_TXTS, R374 -/
  | portTxts (port : Fin 18) (sub : Fin 4)
  /-- TRIGGER, R416 -/
  | trigger
  /-- ABORT_QUIET, R416 -/
  | abortQuiet
  /-- ABORT_FORCE, R416 -/
  | abortForce
  /-- KICK, R395 -/
  | kick
  /-- CN_WD_STAGE1, R395 -/
  | cnWdStage1
  /-- CN_RESTART, R395 -/
  | cnRestart (sram : Bool)
  /-- SECTION_START_EDGE, R434 -/
  | sectionStartEdge (sec : Byte)
  /-- SECTION_RESUME_EDGE, R441 -/
  | sectionResumeEdge (sec : Byte)
  /-- SWITCH_CUTOFF, R436 -/
  | switchCutoff (sec : Byte)
  /-- SWITCH_WRITE, R436 -/
  | switchWrite (sec : Byte)
  /-- SUSPEND_SAVE, R438 -/
  | suspendSave (sec : Byte)
  /-- SUSPEND_TIMEOUT, R440 -/
  | suspendTimeout (sec : Byte)
  /-- COLD_RESET, R462 -/
  | coldReset
  /-- MODULE_RESET, R517 -/
  | moduleReset
  /-- WARM_RESET, R462 -/
  | warmReset
  /-- MAST_RESET, R464 -/
  | mastReset (m : Fin 8)
  /-- PORT_RESET, R464 -/
  | portReset (port : Fin 18)
  /-- BOOT_PHASE_ADVANCE, R465 -/
  | bootPhaseAdvance (cached : Bool) (fails : BitVec 16)
  /-- MAST_SLEEP_ENTRY, R473 -/
  | mastSleepEntry (m : Fin 8)
  /-- MAST_SLEEP_RETURN, R472 -/
  | mastSleepReturn (m : Fin 8)
  /-- MAST_IDLE_TRANSITION, R472 -/
  | mastIdleTransition (m : Fin 8)
  /-- POWER_SAMPLE, R475 -/
  | powerSample (mv : BitVec 16) (da : BitVec 16)
  /-- GEAR_CHANGE, R475 -/
  | gearChange
  /-- THERMAL_TRIP, R476 -/
  | thermalTrip (temps : List (Fin 8 × Byte))
  /-- THERMAL_RESUME, R476 -/
  | thermalResume (temps : List (Fin 8 × Byte))
  /-- THERMAL_SHUTDOWN, R476 -/
  | thermalShutdown (temps : List (Fin 8 × Byte))
  /-- ENABLE_MATE, R506 -/
  | enableMate (mv : BitVec 16)
  /-- POWER_UP_DONE, R506 -/
  | powerUpDone
  /-- ENABLE_BREAK, R507 -/
  | enableBreak
  /-- VIN_OVERVOLTAGE, R505 -/
  | vinOvervoltage (mv : BitVec 16)
  /-- VIN_UNDERVOLTAGE, R505 -/
  | vinUndervoltage (mv : BitVec 16)
  /-- CRASH_DUMP_WRITE, R495 -/
  | crashDumpWrite (found : Option (Fin 5 × Fin 8 × BitVec 16))
  /-- FATAL_MAST_RESET, R487 -/
  | fatalMastReset (m : Fin 8)
  /-- CE_SUMMARY, R482 -/
  | ceSummary
  /-- DEV_ID, R530 -/
  | devId (v : Word)
  /-- REGISTER_WRITE, R10 -/
  | registerWrite (addr : Word) (value : Word)
  /-- SETDASA, R520 -/
  | setdasa (addr : Byte)
  /-- ENTDAA, R520 -/
  | entdaa (addr : Byte)
  /-- SET_ENDPOINT_ID, R520 -/
  | setEndpointId (eid : Byte)
  /-- GET_ENDPOINT_ID, R520 -/
  | getEndpointId
  /-- GET_MCTP_VERSION_SUPPORT, R520 -/
  | getMctpVersionSupport (typ : Byte)
  /-- GET_MESSAGE_TYPE_SUPPORT, R520 -/
  | getMessageTypeSupport
  /-- GET_TID, R520 -/
  | getTid
  /-- GET_PLDM_VERSION, R520 -/
  | getPldmVersion (typ : Byte)
  /-- GET_PLDM_TYPES, R520 -/
  | getPldmTypes
  /-- GET_PLDM_COMMANDS, R520 -/
  | getPldmCommands (typ : Byte)
  /-- GET_SENSOR_READING, R520 -/
  | getSensorReading (id : BitVec 16)
  /-- GET_NUMERIC_EFFECTER_VALUE, R520 -/
  | getNumericEffecterValue (id : BitVec 16)
  /-- SET_NUMERIC_EFFECTER_VALUE, R520 -/
  | setNumericEffecterValue (id : BitVec 16) (value : Word)
  /-- GET_PDR, R520 -/
  | getPdr (handle : BitVec 32)
  /-- REGISTER_READ, R10 -/
  | registerRead (addr : Word)
  /-- MOD_RESET_N_RELEASE, R517 -/
  | modResetNRelease
  /-- PWR_GOOD_FALL, R516 -/
  | pwrGoodFall
  /-- VIN_RISING, R505 -/
  | vinRising (mv : BitVec 16)
  /-- VIN_OVERVOLTAGE_END, R505 -/
  | vinOvervoltageEnd (mv : BitVec 16)
  /-- JTAG, R460 -/
  | jtag (op : JtagOp)
  /-- PFC_FRAME, R346 -/
  | pfcFrame (port : Fin 18) (sub : Fin 4) (enable : Byte) (quanta : List (BitVec 16))
  /-- CONTROL, R548 -/
  | control (f : Frame)
  deriving DecidableEq, Repr

end Sys2Proof
end

