-- ==== Sys2Proof/Decode.lean ====
section
/-! DEFINITION. The words of commands. The rows of spec/opcode_table.json give no bits: a command is an event at the block, no
word of a processor. So no word spells one (log entry 49). -/

namespace Sys2Proof

/-- The command a word spells by the table's bits: no row of the table has bits. -/
def decodeTableWord (_nbits _w : Nat) : Option Instr := none

end Sys2Proof
end

