-- ==== Sys2Proof/Config.lean ====
section
/-! DEFINITION. What the spec leaves open, as opaque constants without a body: free values (a function of the
model's counter `free`, or of the operands), and the primitives whose inside the spec does not give
(cryptography and the transcendental functions). No proof can see a value of any of them. -/

namespace Sys2Proof.Config

/-- A free value: a natural number nothing constrains, one for each value of the counter (log entry 4). -/
opaque freeNat : Nat → Nat

/-- A free byte (log entry 4). -/
opaque freeByte : Nat → BitVec 8

/-- A free bit (log entry 4). -/
opaque freeBit : Nat → Bool

/-- The value a jib computes for an operation of R70, before its rounding, as a numerator and a binary exponent: operation
number, operand codes. The spec states error bounds only; the same operands give the same result (R70, R166, log entry 9). -/
opaque transNum : Nat → Nat → Int
/-- The binary exponent that goes with `transNum`. -/
opaque transExp : Nat → Nat → Int

/-- Which of the results within its bound of R70 RMSNORM gives: operation number and operand codes (log entry 9). -/
opaque ulpPick : Nat → Nat → Nat

/-- g(u) of SAMPLE as a jib computes it, numerator and binary exponent: the 32-bit draw (R159, log entry 9). -/
opaque gumbelNum : Nat → Int
/-- The binary exponent that goes with `gumbelNum`. -/
opaque gumbelExp : Nat → Int

/-- The 16 B tag of AES-256-GCM: key, nonce, authenticated data, plaintext (R351, R414, R446). -/
opaque gcmTag : List (BitVec 8) → List (BitVec 8) → List (BitVec 8) → List (BitVec 8) → List (BitVec 8)

/-- AES-256-GCM under a key and nonce: plaintext to ciphertext (R446). -/
opaque gcmEnc : List (BitVec 8) → List (BitVec 8) → List (BitVec 8) → List (BitVec 8)

/-- AES-256-GCM under a key and nonce: ciphertext to plaintext (R446). -/
opaque gcmDec : List (BitVec 8) → List (BitVec 8) → List (BitVec 8) → List (BitVec 8)

/-- AES-256-XTS decryption: key pair, tweak (of a weight reference its index), data (R388, R426, R446). -/
opaque xtsDec : List (BitVec 8) → Nat → List (BitVec 8) → List (BitVec 8)

/-- AES-256-XTS encryption: key pair, tweak, data (R388, R446). -/
opaque xtsEnc : List (BitVec 8) → Nat → List (BitVec 8) → List (BitVec 8)

/-- SHA-512 (R446). -/
opaque sha512 : List (BitVec 8) → List (BitVec 8)

/-- SHA-512/256 (R426). -/
opaque sha512t : List (BitVec 8) → List (BitVec 8)

/-- Derive(k, salt, info, L): HKDF-SHA-512 (R446). -/
opaque hkdf : List (BitVec 8) → List (BitVec 8) → List (BitVec 8) → Nat → List (BitVec 8)

/-- The 133 B public point of a P-521 private key (R446). -/
opaque p521Pub : List (BitVec 8) → List (BitVec 8)

/-- ECDH on P-521: own private key, peer's public point (R446). -/
opaque ecdh : List (BitVec 8) → List (BitVec 8) → List (BitVec 8)

/-- The bytes are a valid P-521 point (R409 SESSION_OPEN). -/
opaque p521Ok : List (BitVec 8) → Bool

/-- ECDSA P-521 with SHA-512: private key, message; 132 B (R446). -/
opaque ecdsaSign : List (BitVec 8) → List (BitVec 8) → List (BitVec 8)

/-- ECDSA P-521 verification: public key, message, signature (R446). -/
opaque ecdsaOk : List (BitVec 8) → List (BitVec 8) → List (BitVec 8) → Bool

/-- The physical TRNG: the seed of each reseeding (R446). -/
opaque trng : Nat → List (BitVec 8)

/-- CTR_DRBG with AES-256: its seed, the request since that seed, how many bytes (R446). -/
opaque ctrDrbg : List (BitVec 8) → Nat → Nat → List (BitVec 8)

/-- Bytes of the device's DRBG for a request, by the counter of free values, reseeded every 2^20 requests (R446). -/
def drbg (r n : Nat) : List (BitVec 8) := ctrDrbg (trng (r / 2 ^ 20)) (r % 2 ^ 20) n

/-- The activations of a bank at which the controller of a stack issues RFM: the threshold the stack reports (R384). -/
opaque rfmThreshold : Nat → Nat

/-- Lane repairs that a full training of a stack finds: stack, counter of free values (R390). -/
opaque laneRepairs : Nat → Nat → List Nat

/-- The pauses that a sub-port asks its peer for by PFC, in quanta by priority: reference period, port, sub-port; none: it sends no
PFC frame (R346, log entry 87). -/
opaque pfcAsk : Nat → Nat → Nat → Option (List Nat)

/-- The hash h of a connection index (R350). -/
opaque connHash : Nat → Nat

/-- The first bytes of a firmware slot carry a valid Damlek signature (R467). -/
opaque fwOk : List (BitVec 8) → Bool

/-- FwVer of a firmware slot (R467). -/
opaque fwVer : List (BitVec 8) → Nat

/-- The security-engine firmware of a slot's bytes (R447, R467). -/
opaque fwSec : List (BitVec 8) → List (BitVec 8)

/-- The crowsnest firmware of a slot's bytes (R447, R467). -/
opaque fwCn : List (BitVec 8) → List (BitVec 8)

/-- The recovery firmware (R467). -/
opaque fwRecovery : List (BitVec 8)

/-- A DER certificate of R448: 0 root, 1 product CA, 3 Alias, and what it holds. -/
opaque cert : Nat → List (List (BitVec 8)) → List (BitVec 8)

/-- A chain of Alias certificates verifies to the Damlek root (R448, R458). -/
opaque chainOk : List (BitVec 8) → Bool

/-- The public key that the first certificate of a chain certifies (R448). -/
opaque chainKey : List (BitVec 8) → List (BitVec 8)

/-- The factory calibration table as bytes (R469). -/
opaque factoryTable : List (BitVec 8)

/-- The table carries a valid Damlek signature (R465, R469). -/
opaque tableOk : List (BitVec 8) → Bool

/-- The DeviceID certificate that manufacture has put into boot flash (R448). -/
opaque devIdCert : List (BitVec 8)

/-- Base, low and high limit of a transmit tap: Id and lane (R470). -/
opaque tapBase : Nat → Nat → Int
/-- Its low limit. -/
opaque tapLow : Nat → Nat → Int
/-- Its high limit. -/
opaque tapHigh : Nat → Nat → Int

/-- The effective calibration values as CAL_READ returns them: Id, Index and value of every item (R469). -/
opaque effTable : List (Nat × Nat × Int) → List (BitVec 8)

/-- The JTAG IDCODE (R460). -/
opaque idcode : BitVec 64

/-- Bytes of an MCTP or PLDM answer that R520 does not give: command, and which of its parts. -/
opaque busBytes : Nat → Nat → List (BitVec 8)

end Sys2Proof.Config
end

