-- ==== Sys2Proof/Machine/Regs.lean ====
section
/-! DEFINITION. The register map: every register of register space under its own name, its fields with their
access codes and reset values (21_register_map.md R524 to R529 and the register tables of each chapter), its address
and the decode of an address. A multi-word register carries its word number as its last index.

A reset value the tables do not state (a 64-bit counter, a copied record, an address register) is 0: DESIGN CHOICE,
assumption log entry 2. A field whose reset is fused is 0 here; Machine/State.lean puts the fuses in. -/

namespace Sys2Proof.Machine

/-- Access codes of 00_scope.md R10. -/
inductive Acc where
  | ro | rw | wo | w1c | w1s | rc | rwl
  deriving DecidableEq, Repr

/-- A register field: its word, its highest and lowest bit, its access code and its reset value. -/
structure Field where
  w : Nat
  hi : Nat
  lo : Nat
  acc : Acc
  reset : Nat
  deriving DecidableEq, Repr

/-- Every register of register space. Owner index 8 of a `hal` register is the device level (10_halyards.md R292). -/
inductive Reg where
  | devIdent
  | devId
  | devSerial0
  | devSerial1
  | devVersion
  | devRepair
  | cltCmd (k w : Nat)
  | cltDbgsel
  | cltDbg (w : Nat)
  | cltStat
  | cltErr
  | cltStale
  | shrGrp (g : Nat)
  | shrStat (g : Nat)
  | shrChild (g c : Nat)
  | shrMast (g m : Nat)
  | shrStale
  | tbNow
  | tbFrac
  | tbRate
  | tbStep
  | tbPps
  | tbTickin
  | stkCtrl
  | stkT0
  | stkPeriod
  | stkGuard
  | stkGrace
  | stkCable
  | stkNum
  | stkStat
  | stkCnt
  | stkOvr0
  | stkOvr1
  | stkErr
  | stkMast (m : Nat)
  | redCtrl
  | redStat
  | redErr
  | redDrop
  | ord (o w : Nat)
  | bkt (t w : Nat)
  | cnWd
  | cnStat
  | mbxDrop
  | slStat
  | slErr
  | slSec (i w : Nat)
  | fltStat
  | fltLog
  | fltLogsel
  | fltLogdata (w : Nat)
  | fltFirst (w : Nat)
  | fltDumplen
  | slot (m n s w : Nat)
  | sailStat (m s : Nat)
  | sailBlocks (m s : Nat)
  | sailSkips (m s : Nat)
  | seqStat (m : Nat)
  | seqProg (m : Nat)
  | seqLast (m : Nat)
  | seqErr (m : Nat)
  | fabCtrl (m : Nat)
  | fabStat (m : Nat)
  | fabGen (m : Nat)
  | fabWd (m : Nat)
  | fabSnap (m : Nat)
  | fabRepair (m : Nat)
  | fabSpill (m e : Nat)
  | fabEdge (m p w : Nat)
  | shvFlags (m n : Nat)
  | memStat (m : Nat)
  | memCe (m : Nat)
  | memUe (m : Nat)
  | memUeAddr (m : Nat)
  | memMerged (m : Nat)
  | memSbStall (m : Nat)
  | memScrub (m : Nat)
  | coil (m k w : Nat)
  | sbEntry (m e w : Nat)
  | jibCtrl (m j : Nat)
  | jibStat (m j : Nat)
  | jibProg (m j : Nat)
  | jibRec (m j : Nat)
  | jibLast (m j : Nat)
  | jibErr (m j : Nat)
  | jibRsctr (m j : Nat)
  | tkProg (m : Nat)
  | tkRec (m : Nat)
  | tkStat (m : Nat)
  | tkLast (m : Nat)
  | tkErr (m : Nat)
  | tkDropped (m : Nat)
  | tkRsctr (m : Nat)
  | halCfg (o c : Nat)
  | halRing (o c w : Nat)
  | halPtr (o c : Nat)
  | halQstat (o c : Nat)
  | halRel (o c : Nat)
  | halSend (o s w : Nat)
  | halSstat (o s : Nat)
  | halTmo (o : Nat)
  | halErr (o : Nat)
  | halDrop (o : Nat)
  | halNote (c w : Nat)
  | hbmStat (h : Nat)
  | hbmTemp (h : Nat)
  | hbmCe (h : Nat)
  | hbmUe (h : Nat)
  | hbmUeAddr (h : Nat)
  | hbmErr (h : Nat)
  | hbmScrub (h : Nat)
  | hbmLines (h : Nat)
  | hbmMap
  | hbmKr (k w : Nat)
  | portCfg (p : Nat)
  | portStat (p s : Nat)
  | portFec (p s : Nat)
  | portMac (p s : Nat)
  | portIp6 (p s w : Nat)
  | portIp4 (p s : Nat)
  | portDrop (p s : Nat)
  | portTxts (p s w : Nat)
  | flStep (f : Nat)
  | flRec (f : Nat)
  | flStat (f : Nat)
  | flErr (f : Nat)
  | scOp (f : Nat)
  | scRange (f : Nat)
  | scLen (f : Nat)
  | scHits (f : Nat)
  | scMisses (f : Nat)
  | scErr (f : Nat)
  | tpEncap
  | tpTimer
  | tpStat
  | tpErr
  | tpDrop
  | tpLost
  | cn (c w : Nat)
  | win (i w : Nat)
  | rem (r w : Nat)
  | ipt (i w : Nat)
  | pxy (i : Nat)
  | secStat
  | secSlots
  | secErr
  | secReject
  | secOwner (w : Nat)
  | abtCtrl
  | abtStat
  | abtLast
  | abtErr
  | abtCtr (k : Nat)
  | abtDrop
  | rstCause
  | rstStat
  | bootStat
  | pwrCtrl
  | pwrStat
  | pwrInput
  | therm
  | pwrErr
  | pwrGearcnt
  deriving DecidableEq, Repr

namespace DEV_IDENT
def ORDER : Field := ⟨0, 0, 0, .ro, 0⟩
def STACKS : Field := ⟨0, 12, 8, .ro, 0⟩
def FITTED : Field := ⟨0, 31, 16, .ro, 0⟩
def GEAR : Field := ⟨0, 33, 32, .ro, 0⟩
end DEV_IDENT

namespace DEV_ID
def DEVICE : Field := ⟨0, 16, 0, .rwl, 0⟩
def ASSIGNED : Field := ⟨0, 31, 31, .ro, 0⟩
end DEV_ID

namespace DEV_SERIAL0
def ALL : Field := ⟨0, 63, 0, .ro, 0⟩
end DEV_SERIAL0

namespace DEV_SERIAL1
def ALL : Field := ⟨0, 63, 0, .ro, 0⟩
end DEV_SERIAL1

namespace DEV_VERSION
def STEPPING : Field := ⟨0, 7, 0, .ro, 0⟩
def MAPVER : Field := ⟨0, 15, 8, .ro, 1⟩
def PART : Field := ⟨0, 31, 16, .ro, 0xB3C⟩
end DEV_VERSION

namespace DEV_REPAIR
def MASTS : Field := ⟨0, 7, 0, .ro, 0⟩
end DEV_REPAIR

namespace CLT_CMD
def PEND : Field := ⟨3, 62, 62, .ro, 0⟩
def VALID : Field := ⟨3, 63, 63, .ro, 0⟩
def REC0L : Field := ⟨0, 9, 0, .rw, 0⟩
def REC0H : Field := ⟨0, 39, 16, .rw, 0⟩
def REC1L : Field := ⟨1, 30, 0, .rw, 0⟩
def REC1H : Field := ⟨1, 51, 32, .rw, 0⟩
def RES0 : Field := ⟨2, 63, 0, .ro, 0⟩
def RES1 : Field := ⟨3, 31, 0, .ro, 0⟩
end CLT_CMD

namespace CLT_DBGSEL
def SEL : Field := ⟨0, 15, 0, .rw, 0⟩
end CLT_DBGSEL

namespace CLT_DBG
def ALL : Field := ⟨0, 63, 0, .ro, 0⟩
end CLT_DBG

namespace CLT_STAT
def FULL : Field := ⟨0, 8, 0, .ro, 0⟩
end CLT_STAT

namespace CLT_ERR
def SAT : Field := ⟨0, 0, 0, .w1c, 0⟩
def FLOOR : Field := ⟨0, 1, 1, .w1c, 0⟩
def STALE : Field := ⟨0, 2, 2, .w1c, 0⟩
def DENIED : Field := ⟨0, 3, 3, .w1c, 0⟩
def POISONED : Field := ⟨0, 4, 4, .w1c, 0⟩
def ABANDONED : Field := ⟨0, 5, 5, .w1c, 0⟩
end CLT_ERR

namespace CLT_STALE
def CNT : Field := ⟨0, 31, 0, .rc, 0⟩
end CLT_STALE

namespace SHR_GRP
def VALID : Field := ⟨0, 0, 0, .rwl, 0⟩
def ROOT : Field := ⟨0, 1, 1, .rwl, 0⟩
def NCHILD : Field := ⟨0, 5, 2, .rwl, 0⟩
def MASTS : Field := ⟨0, 13, 6, .rwl, 0⟩
def PSLOT : Field := ⟨0, 17, 14, .rwl, 0⟩
def PARENT : Field := ⟨0, 34, 18, .rwl, 0⟩
end SHR_GRP

namespace SHR_STAT
def GEN : Field := ⟨0, 15, 0, .ro, 0⟩
def ARRIVED : Field := ⟨0, 31, 16, .ro, 0⟩
def LOST : Field := ⟨0, 32, 32, .ro, 0⟩
def LAST_STATUS : Field := ⟨0, 47, 40, .ro, 0⟩
end SHR_STAT

namespace SHR_CHILD
def DEV : Field := ⟨0, 16, 0, .rwl, 0⟩
def VALID : Field := ⟨0, 17, 17, .rwl, 0⟩
end SHR_CHILD

namespace SHR_MAST
def ACLEAT : Field := ⟨0, 15, 0, .rwl, 0xFFFF⟩
def ACOUNT : Field := ⟨0, 20, 16, .rwl, 1⟩
def RCLEAT : Field := ⟨0, 36, 21, .rwl, 0xFFFF⟩
def RADD : Field := ⟨0, 41, 37, .rwl, 1⟩
end SHR_MAST

namespace SHR_STALE
def CNT : Field := ⟨0, 31, 0, .rc, 0⟩
end SHR_STALE

namespace TB_NOW
def ALL : Field := ⟨0, 63, 0, .ro, 0⟩
end TB_NOW

namespace TB_FRAC
def FRAC : Field := ⟨0, 15, 0, .ro, 0⟩
end TB_FRAC

namespace TB_RATE
def RATE : Field := ⟨0, 31, 0, .rw, 0⟩
end TB_RATE

namespace TB_STEP
def ALL : Field := ⟨0, 63, 0, .wo, 0⟩
end TB_STEP

namespace TB_PPS
def ALL : Field := ⟨0, 63, 0, .ro, 0⟩
end TB_PPS

namespace TB_TICKIN
def ALL : Field := ⟨0, 63, 0, .ro, 0⟩
end TB_TICKIN

namespace STK_CTRL
def RUN : Field := ⟨0, 0, 0, .rw, 0⟩
def POLICY : Field := ⟨0, 1, 1, .rw, 0⟩
def PINMODE : Field := ⟨0, 3, 2, .rw, 0⟩
end STK_CTRL

namespace STK_T0
def ALL : Field := ⟨0, 63, 0, .rw, 0⟩
end STK_T0

namespace STK_PERIOD
def P : Field := ⟨0, 23, 0, .rw, 0xF4240⟩
end STK_PERIOD

namespace STK_GUARD
def G : Field := ⟨0, 19, 0, .rw, 0xFA⟩
end STK_GUARD

namespace STK_GRACE
def GR : Field := ⟨0, 21, 0, .rw, 0⟩
end STK_GRACE

namespace STK_CABLE
def NS : Field := ⟨0, 31, 16, .rw, 0⟩
def FRAC : Field := ⟨0, 15, 0, .rw, 0⟩
end STK_CABLE

namespace STK_NUM
def NUM : Field := ⟨0, 31, 0, .ro, 0⟩
end STK_NUM

namespace STK_STAT
def LOCKED : Field := ⟨0, 0, 0, .ro, 0⟩
def RUNNING : Field := ⟨0, 1, 1, .ro, 0⟩
def PHASE_ERR : Field := ⟨0, 31, 16, .ro, 0⟩
end STK_STAT

namespace STK_CNT
def LATE : Field := ⟨0, 15, 0, .rc, 0⟩
def OVERRUN : Field := ⟨0, 31, 16, .rc, 0⟩
def SKIPPED : Field := ⟨0, 47, 32, .rc, 0⟩
def BUDGET : Field := ⟨0, 63, 48, .rc, 0⟩
end STK_CNT

namespace STK_OVR0
def ALL : Field := ⟨0, 63, 0, .ro, 0⟩
end STK_OVR0

namespace STK_OVR1
def ALL : Field := ⟨0, 63, 0, .ro, 0⟩
end STK_OVR1

namespace STK_ERR
def OVERRUN : Field := ⟨0, 0, 0, .w1c, 0⟩
def THERMAL : Field := ⟨0, 1, 1, .w1c, 0⟩
def WINDOW : Field := ⟨0, 2, 2, .w1c, 0⟩
def WR_IGNORED : Field := ⟨0, 3, 3, .w1c, 0⟩
def UNLOCK : Field := ⟨0, 4, 4, .w1c, 0⟩
end STK_ERR

namespace STK_MAST
def PHASE : Field := ⟨0, 23, 0, .rwl, 0⟩
def BUDGET : Field := ⟨0, 47, 24, .rwl, 0⟩
def SECTION : Field := ⟨0, 55, 48, .rwl, 0⟩
def VALID : Field := ⟨0, 56, 56, .rwl, 0⟩
end STK_MAST

namespace RED_CTRL
def SENDF : Field := ⟨0, 5, 0, .rwl, 0⟩
end RED_CTRL

namespace RED_STAT
def OPEN : Field := ⟨0, 12, 0, .ro, 0⟩
def ARMING : Field := ⟨0, 25, 13, .ro, 0⟩
end RED_STAT

namespace RED_ERR
def MISMATCH : Field := ⟨0, 0, 0, .w1c, 0⟩
def TOLFAIL : Field := ⟨0, 1, 1, .w1c, 0⟩
def TIMEOUT : Field := ⟨0, 2, 2, .w1c, 0⟩
def EXTRA : Field := ⟨0, 3, 3, .w1c, 0⟩
def POISON : Field := ⟨0, 4, 4, .w1c, 0⟩
end RED_ERR

namespace RED_DROP
def STALE : Field := ⟨0, 31, 0, .rc, 0⟩
def REFUSED : Field := ⟨0, 63, 32, .rc, 0⟩
end RED_DROP

namespace ORD
def BASE : Field := ⟨0, 46, 0, .rwl, 0⟩
def TYPE : Field := ⟨0, 47, 47, .rwl, 0⟩
def INIT : Field := ⟨0, 48, 48, .rwl, 0⟩
def CHK : Field := ⟨0, 49, 49, .rwl, 0⟩
def F : Field := ⟨0, 55, 50, .rwl, 0⟩
def STATE : Field := ⟨0, 57, 56, .ro, 0⟩
def LENGTH : Field := ⟨1, 12, 0, .rwl, 0⟩
def RANKS : Field := ⟨1, 19, 13, .rwl, 0⟩
def RANKBASE : Field := ⟨1, 36, 20, .rwl, 0⟩
def RANKSTRIDE : Field := ⟨1, 44, 37, .rwl, 1⟩
def DONECLEAT : Field := ⟨1, 60, 45, .rwl, 0xFFFF⟩
def ARMCLEAT : Field := ⟨2, 15, 0, .rwl, 0xFFFF⟩
def TMO : Field := ⟨2, 19, 16, .rwl, 2⟩
def SECTION : Field := ⟨2, 27, 20, .rwl, 0⟩
def RECEIVED : Field := ⟨3, 63, 0, .ro, 0⟩
def ROUND : Field := ⟨4, 31, 0, .ro, 0⟩
def LAST_STATUS : Field := ⟨4, 39, 32, .ro, 0⟩
def FLAGS : Field := ⟨4, 47, 40, .ro, 0⟩
def APPLIED : Field := ⟨4, 54, 48, .ro, 0⟩
def EXTRA : Field := ⟨4, 55, 55, .ro, 0⟩
end ORD

namespace BKT
def BASE : Field := ⟨0, 46, 0, .rwl, 0⟩
def EPOCH : Field := ⟨0, 50, 47, .rwl, 0⟩
def TYPE : Field := ⟨0, 51, 51, .rwl, 0⟩
def INIT : Field := ⟨0, 52, 52, .rwl, 0⟩
def CHK : Field := ⟨0, 54, 53, .rwl, 0⟩
def F : Field := ⟨0, 60, 55, .rwl, 0⟩
def STATE : Field := ⟨0, 62, 61, .ro, 0⟩
def LENGTH : Field := ⟨1, 23, 0, .rwl, 0⟩
def DONECLEAT : Field := ⟨1, 39, 24, .rwl, 0xFFFF⟩
def ARMCLEAT : Field := ⟨1, 55, 40, .rwl, 0xFFFF⟩
def TMO : Field := ⟨1, 59, 56, .rwl, 2⟩
def EXPECTED : Field := ⟨2, 15, 0, .rwl, 0⟩
def ARRIVED : Field := ⟨2, 31, 16, .ro, 0⟩
def ROUND : Field := ⟨2, 63, 32, .ro, 0⟩
def LAST_STATUS : Field := ⟨3, 7, 0, .ro, 0⟩
def FLAGS : Field := ⟨3, 15, 8, .ro, 0⟩
def EXTRA : Field := ⟨3, 16, 16, .ro, 0⟩
def TOLFAIL : Field := ⟨3, 17, 17, .ro, 0⟩
def SECTION : Field := ⟨3, 31, 24, .rwl, 0⟩
def SHADOW : Field := ⟨4, 63, 0, .ro, 0⟩
def CLAIMED : Field := ⟨5, 63, 0, .ro, 0⟩
def RESULT : Field := ⟨6, 63, 0, .ro, 0⟩
def APPLIED : Field := ⟨7, 31, 0, .ro, 0⟩
def CLAIMED_N : Field := ⟨7, 63, 32, .ro, 0⟩
end BKT

namespace CN_WD
def PERIOD : Field := ⟨0, 13, 0, .rw, 0x64⟩
def KICK : Field := ⟨0, 14, 14, .wo, 0⟩
def STAGE1 : Field := ⟨0, 15, 15, .w1c, 0⟩
end CN_WD

namespace CN_STAT
def CORES_UP : Field := ⟨0, 3, 0, .ro, 0⟩
def RECOVERY : Field := ⟨0, 4, 4, .ro, 0⟩
def RESTARTS : Field := ⟨0, 31, 16, .ro, 0⟩
def FWIF : Field := ⟨0, 47, 32, .ro, 1⟩
end CN_STAT

namespace MBX_DROP
def CNT : Field := ⟨0, 31, 0, .rc, 0⟩
end MBX_DROP

namespace SL_STAT
def BUSY : Field := ⟨0, 0, 0, .ro, 0⟩
def PHASE : Field := ⟨0, 3, 1, .ro, 0⟩
def MEASURES : Field := ⟨0, 63, 32, .ro, 0⟩
end SL_STAT

namespace SL_ERR
def VERIFY : Field := ⟨0, 0, 0, .w1c, 0⟩
def CONFIG : Field := ⟨0, 1, 1, .w1c, 0⟩
def SWITCH : Field := ⟨0, 2, 2, .w1c, 0⟩
def DRAIN : Field := ⟨0, 3, 3, .w1c, 0⟩
end SL_ERR

namespace SL_SEC
def VALID : Field := ⟨0, 0, 0, .ro, 0⟩
def STATE : Field := ⟨0, 3, 1, .ro, 0⟩
def SECTION : Field := ⟨0, 11, 4, .ro, 0⟩
def MASTS : Field := ⟨0, 19, 12, .ro, 0⟩
def MEASURE : Field := ⟨0, 51, 20, .ro, 0⟩
def IMAGE : Field := ⟨1, 46, 0, .ro, 0⟩
end SL_SEC

namespace FLT_STAT
def FATAL : Field := ⟨0, 0, 0, .ro, 0⟩
def DEVICE_FATAL : Field := ⟨0, 1, 1, .ro, 0⟩
def DUMP : Field := ⟨0, 3, 2, .ro, 0⟩
def ALERT : Field := ⟨0, 4, 4, .w1c, 0⟩
def FATAL_MASTS : Field := ⟨0, 15, 8, .ro, 0⟩
end FLT_STAT

namespace FLT_LOG
def NEXT : Field := ⟨0, 31, 0, .ro, 0⟩
def LOST : Field := ⟨0, 63, 32, .ro, 0⟩
end FLT_LOG

namespace FLT_LOGSEL
def SEQ : Field := ⟨0, 31, 0, .rw, 0⟩
end FLT_LOGSEL

namespace FLT_LOGDATA
def ALL : Field := ⟨0, 63, 0, .ro, 0⟩
end FLT_LOGDATA

namespace FLT_FIRST
def ALL : Field := ⟨0, 63, 0, .ro, 0⟩
end FLT_FIRST

namespace FLT_DUMPLEN
def ALL : Field := ⟨0, 63, 0, .ro, 0⟩
end FLT_DUMPLEN

namespace SLOT
def VALID : Field := ⟨0, 0, 0, .rwl, 0⟩
def KIND : Field := ⟨0, 2, 1, .rwl, 0⟩
def LENGTH : Field := ⟨0, 7, 3, .rwl, 0⟩
def INBIND : Field := ⟨0, 19, 8, .rwl, 0⟩
def OUTBIND : Field := ⟨0, 24, 20, .rwl, 0⟩
def RND : Field := ⟨0, 26, 25, .rwl, 0⟩
def GEN : Field := ⟨0, 63, 48, .rwl, 0⟩
def RV : Field := ⟨1, 59, 0, .rwl, 0⟩
def RSC : Field := ⟨2, 47, 0, .rwl, 0⟩
def RC : Field := ⟨3, 29, 0, .rwl, 0⟩
def PROG0 : Field := ⟨4, 63, 0, .rwl, 0⟩
def PROG1 : Field := ⟨5, 63, 0, .rwl, 0⟩
def PROG2 : Field := ⟨6, 63, 0, .rwl, 0⟩
def PROG3 : Field := ⟨7, 63, 0, .rwl, 0⟩
def PROG4 : Field := ⟨8, 63, 0, .rwl, 0⟩
def PROG5 : Field := ⟨9, 63, 0, .rwl, 0⟩
def PROG6 : Field := ⟨10, 63, 0, .rwl, 0⟩
def PROG7 : Field := ⟨11, 63, 0, .rwl, 0⟩
def PROG8 : Field := ⟨12, 63, 0, .rwl, 0⟩
def PROG9 : Field := ⟨13, 63, 0, .rwl, 0⟩
def PROG10 : Field := ⟨14, 63, 0, .rwl, 0⟩
def PROG11 : Field := ⟨15, 63, 0, .rwl, 0⟩
end SLOT

namespace SAIL_STAT
def BUSY : Field := ⟨0, 0, 0, .ro, 0⟩
def RESIDENT : Field := ⟨0, 5, 1, .ro, 0⟩
def MODE : Field := ⟨0, 7, 6, .ro, 0⟩
end SAIL_STAT

namespace SAIL_BLOCKS
def ALL : Field := ⟨0, 63, 0, .ro, 0⟩
end SAIL_BLOCKS

namespace SAIL_SKIPS
def ALL : Field := ⟨0, 63, 0, .ro, 0⟩
end SAIL_SKIPS

namespace SEQ_STAT
def BUSY : Field := ⟨0, 0, 0, .ro, 0⟩
def WAITING : Field := ⟨0, 1, 1, .ro, 0⟩
def STEP_DONE : Field := ⟨0, 2, 2, .ro, 0⟩
def PC : Field := ⟨0, 31, 16, .ro, 0⟩
def LAST_STATUS : Field := ⟨0, 39, 32, .ro, 0⟩
end SEQ_STAT

namespace SEQ_PROG
def BASE : Field := ⟨0, 25, 0, .rwl, 0⟩
def LENGTH : Field := ⟨0, 41, 26, .rwl, 0⟩
end SEQ_PROG

namespace SEQ_LAST
def ALL : Field := ⟨0, 63, 0, .ro, 0⟩
end SEQ_LAST

namespace SEQ_ERR
def BAD_DESC : Field := ⟨0, 0, 0, .w1c, 0⟩
def OOB : Field := ⟨0, 1, 1, .w1c, 0⟩
def SHAPE_OVF : Field := ⟨0, 2, 2, .w1c, 0⟩
def POISON : Field := ⟨0, 3, 3, .w1c, 0⟩
def SCALE_RANGE : Field := ⟨0, 4, 4, .w1c, 0⟩
def UNSUPPORTED : Field := ⟨0, 5, 5, .w1c, 0⟩
end SEQ_ERR

namespace FAB_CTRL
def ENABLE : Field := ⟨0, 0, 0, .rwl, 0⟩
def STOP_SRC : Field := ⟨0, 1, 1, .w1s, 0⟩
def DRAIN : Field := ⟨0, 2, 2, .w1s, 0⟩
end FAB_CTRL

namespace FAB_STAT
def RUNNING : Field := ⟨0, 0, 0, .ro, 0⟩
def SRC_STOPPED : Field := ⟨0, 1, 1, .ro, 0⟩
def DRAIN_DONE : Field := ⟨0, 2, 2, .ro, 0⟩
def RESIDUE : Field := ⟨0, 3, 3, .ro, 0⟩
def STALL : Field := ⟨0, 4, 4, .ro, 0⟩
def STEP_DONE : Field := ⟨0, 5, 5, .ro, 0⟩
def TICK_LAG : Field := ⟨0, 6, 6, .ro, 0⟩
def FLAGS : Field := ⟨0, 15, 8, .ro, 0⟩
def FIRINGS : Field := ⟨0, 63, 32, .ro, 0⟩
end FAB_STAT

namespace FAB_GEN
def GEN : Field := ⟨0, 15, 0, .ro, 0⟩
end FAB_GEN

namespace FAB_WD
def EXP : Field := ⟨0, 4, 0, .rwl, 0x10⟩
def DISABLE : Field := ⟨0, 5, 5, .rwl, 0⟩
end FAB_WD

namespace FAB_SNAP
def OFFSET : Field := ⟨0, 25, 0, .rwl, 0⟩
end FAB_SNAP

namespace FAB_REPAIR
def REPAIRED : Field := ⟨0, 0, 0, .ro, 0⟩
end FAB_REPAIR

namespace FAB_SPILL
def VALID : Field := ⟨0, 0, 0, .rwl, 0⟩
def SHEAVE : Field := ⟨0, 8, 1, .rwl, 0⟩
def QUEUE : Field := ⟨0, 12, 9, .rwl, 0⟩
def COIL : Field := ⟨0, 20, 13, .rwl, 0⟩
end FAB_SPILL

namespace FAB_EDGE
def VALID : Field := ⟨0, 0, 0, .rwl, 0⟩
def KIND : Field := ⟨0, 3, 1, .rwl, 0⟩
def SIDE : Field := ⟨0, 5, 4, .rwl, 0⟩
def POS : Field := ⟨0, 9, 6, .rwl, 0⟩
def NET : Field := ⟨0, 11, 10, .rwl, 0⟩
def LANE : Field := ⟨0, 14, 12, .rwl, 0⟩
def COIL : Field := ⟨0, 22, 15, .rwl, 0⟩
def CLEAT : Field := ⟨0, 38, 23, .rwl, 0xFFFF⟩
def EVERY : Field := ⟨0, 54, 39, .rwl, 0⟩
def CHAN : Field := ⟨0, 60, 55, .rwl, 0⟩
def STEP_COUNT : Field := ⟨1, 31, 0, .rwl, 0⟩
end FAB_EDGE

namespace SHV_FLAGS
def ALL : Field := ⟨0, 63, 0, .ro, 0⟩
end SHV_FLAGS

namespace MEM_STAT
def SB_USED : Field := ⟨0, 6, 0, .ro, 0⟩
def SB_FULL : Field := ⟨0, 7, 7, .ro, 0⟩
def COIL_WAITS : Field := ⟨0, 15, 8, .ro, 0⟩
end MEM_STAT

namespace MEM_CE
def WEIGHT : Field := ⟨0, 15, 0, .rc, 0⟩
def ACT : Field := ⟨0, 31, 16, .rc, 0⟩
def PSUM : Field := ⟨0, 47, 32, .rc, 0⟩
end MEM_CE

namespace MEM_UE
def WEIGHT : Field := ⟨0, 15, 0, .rc, 0⟩
def ACT : Field := ⟨0, 31, 16, .rc, 0⟩
def PSUM : Field := ⟨0, 47, 32, .rc, 0⟩
end MEM_UE

namespace MEM_UE_ADDR
def ADDR : Field := ⟨0, 46, 0, .ro, 0⟩
def VALID : Field := ⟨0, 63, 63, .ro, 0⟩
end MEM_UE_ADDR

namespace MEM_MERGED
def ALL : Field := ⟨0, 63, 0, .ro, 0⟩
end MEM_MERGED

namespace MEM_SB_STALL
def ALL : Field := ⟨0, 63, 0, .ro, 0⟩
end MEM_SB_STALL

namespace MEM_SCRUB
def ENABLE : Field := ⟨0, 0, 0, .rwl, 1⟩
end MEM_SCRUB

namespace COIL
def VALID : Field := ⟨0, 0, 0, .rwl, 0⟩
def MEM : Field := ⟨0, 1, 1, .rwl, 0⟩
def SAIL : Field := ⟨0, 5, 2, .rwl, 0⟩
def RECSZ : Field := ⟨0, 9, 6, .rwl, 0⟩
def BASE : Field := ⟨0, 35, 10, .rwl, 0⟩
def CAP : Field := ⟨0, 59, 36, .rwl, 0⟩
def HEAD : Field := ⟨1, 31, 0, .rwl, 0⟩
def TAIL : Field := ⟨1, 63, 32, .rwl, 0⟩
def CLAIM : Field := ⟨2, 31, 0, .rwl, 0⟩
def RESV : Field := ⟨2, 63, 32, .rwl, 0⟩
def CLEAT : Field := ⟨3, 15, 0, .rwl, 0xFFFF⟩
def EVERY : Field := ⟨3, 31, 16, .rwl, 0⟩
end COIL

namespace SB_ENTRY
def BASE : Field := ⟨0, 46, 0, .ro, 0⟩
def VALID : Field := ⟨0, 63, 63, .ro, 0⟩
def LINES : Field := ⟨1, 6, 0, .ro, 0⟩
def WRITER : Field := ⟨1, 31, 16, .ro, 0⟩
def DEVICE : Field := ⟨1, 48, 32, .ro, 0⟩
end SB_ENTRY

namespace JIB_CTRL
def MODE : Field := ⟨0, 0, 0, .rwl, 0⟩
end JIB_CTRL

namespace JIB_STAT
def BUSY : Field := ⟨0, 0, 0, .ro, 0⟩
def WAITING : Field := ⟨0, 1, 1, .ro, 0⟩
def STEP_DONE : Field := ⟨0, 2, 2, .ro, 0⟩
def PC : Field := ⟨0, 31, 16, .ro, 0⟩
def LAST_STATUS : Field := ⟨0, 39, 32, .ro, 0⟩
end JIB_STAT

namespace JIB_PROG
def BASE : Field := ⟨0, 25, 0, .rwl, 0⟩
def LENGTH : Field := ⟨0, 41, 26, .rwl, 0⟩
end JIB_PROG

namespace JIB_REC
def OFFSET : Field := ⟨0, 25, 0, .rwl, 0⟩
end JIB_REC

namespace JIB_LAST
def ALL : Field := ⟨0, 63, 0, .ro, 0⟩
end JIB_LAST

namespace JIB_ERR
def BAD_DESC : Field := ⟨0, 0, 0, .w1c, 0⟩
def OOB : Field := ⟨0, 1, 1, .w1c, 0⟩
def SHAPE_OVF : Field := ⟨0, 2, 2, .w1c, 0⟩
def POISON : Field := ⟨0, 3, 3, .w1c, 0⟩
def BUSY : Field := ⟨0, 4, 4, .w1c, 0⟩
end JIB_ERR

namespace JIB_RSCTR
def CTR : Field := ⟨0, 47, 0, .ro, 0⟩
end JIB_RSCTR

namespace TK_PROG
def BASE : Field := ⟨0, 25, 0, .rwl, 0⟩
def LENGTH : Field := ⟨0, 41, 26, .rwl, 0⟩
end TK_PROG

namespace TK_REC
def OFFSET : Field := ⟨0, 25, 0, .rwl, 0⟩
end TK_REC

namespace TK_STAT
def BUSY : Field := ⟨0, 0, 0, .ro, 0⟩
def WAITING : Field := ⟨0, 1, 1, .ro, 0⟩
def STEP_DONE : Field := ⟨0, 2, 2, .ro, 0⟩
def INFLIGHT : Field := ⟨0, 5, 3, .ro, 0⟩
def PC : Field := ⟨0, 31, 16, .ro, 0⟩
def LAST_STATUS : Field := ⟨0, 39, 32, .ro, 0⟩
end TK_STAT

namespace TK_LAST
def ALL : Field := ⟨0, 63, 0, .ro, 0⟩
end TK_LAST

namespace TK_ERR
def BAD_DESC : Field := ⟨0, 0, 0, .w1c, 0⟩
def OOB : Field := ⟨0, 1, 1, .w1c, 0⟩
def SHAPE_OVF : Field := ⟨0, 2, 2, .w1c, 0⟩
def POISON : Field := ⟨0, 3, 3, .w1c, 0⟩
def DENIED : Field := ⟨0, 4, 4, .w1c, 0⟩
end TK_ERR

namespace TK_DROPPED
def ALL : Field := ⟨0, 63, 0, .rc, 0⟩
end TK_DROPPED

namespace TK_RSCTR
def CTR : Field := ⟨0, 47, 0, .ro, 0⟩
end TK_RSCTR

namespace HAL_CFG
def VALID : Field := ⟨0, 0, 0, .rwl, 0⟩
def RING : Field := ⟨0, 1, 1, .rwl, 0⟩
def AUTOACK : Field := ⟨0, 2, 2, .rwl, 0⟩
def RELMODE : Field := ⟨0, 3, 3, .rwl, 0⟩
def IRQ : Field := ⟨0, 4, 4, .rwl, 0⟩
def MAXLEN : Field := ⟨0, 13, 5, .rwl, 0x100⟩
def RLIMIT : Field := ⟨0, 31, 16, .rwl, 0⟩
end HAL_CFG

namespace HAL_RING
def BASE : Field := ⟨0, 46, 0, .rwl, 0⟩
def SIZE : Field := ⟨1, 16, 0, .rwl, 0⟩
def WINDOW : Field := ⟨1, 32, 17, .rwl, 0⟩
end HAL_RING

namespace HAL_PTR
def HEAD : Field := ⟨0, 31, 0, .ro, 0⟩
def TAIL : Field := ⟨0, 63, 32, .ro, 0⟩
end HAL_PTR

namespace HAL_QSTAT
def COUNT : Field := ⟨0, 6, 0, .ro, 0⟩
def RESV : Field := ⟨0, 13, 7, .ro, 0⟩
end HAL_QSTAT

namespace HAL_REL
def N : Field := ⟨0, 6, 0, .wo, 0⟩
end HAL_REL

namespace HAL_SEND
def VALID : Field := ⟨0, 0, 0, .rwl, 0⟩
def TRIG : Field := ⟨0, 16, 1, .rwl, 0xFFFF⟩
def DESC : Field := ⟨1, 46, 0, .rwl, 0⟩
end HAL_SEND

namespace HAL_SSTAT
def LAST_STATUS : Field := ⟨0, 7, 0, .ro, 0⟩
def BUSY : Field := ⟨0, 8, 8, .ro, 0⟩
def RETRYING : Field := ⟨0, 9, 9, .ro, 0⟩
def PARKED : Field := ⟨0, 10, 10, .ro, 0⟩
def SENDS : Field := ⟨0, 63, 32, .ro, 0⟩
end HAL_SSTAT

namespace HAL_TMO
def US : Field := ⟨0, 19, 0, .rwl, 0⟩
end HAL_TMO

namespace HAL_ERR
def FULL : Field := ⟨0, 0, 0, .w1c, 0⟩
def REFUSED : Field := ⟨0, 1, 1, .w1c, 0⟩
def BAD_DESC : Field := ⟨0, 2, 2, .w1c, 0⟩
def PEER_LOST : Field := ⟨0, 3, 3, .w1c, 0⟩
def POISON : Field := ⟨0, 4, 4, .w1c, 0⟩
end HAL_ERR

namespace HAL_DROP
def STALE : Field := ⟨0, 31, 0, .rc, 0⟩
def REFUSED : Field := ⟨0, 63, 32, .rc, 0⟩
end HAL_DROP

namespace HAL_NOTE
def W0 : Field := ⟨0, 63, 0, .ro, 0⟩
def W1 : Field := ⟨1, 63, 0, .rc, 0⟩
end HAL_NOTE

namespace HBM_STAT
def FITTED : Field := ⟨0, 0, 0, .ro, 0⟩
def TRAINED : Field := ⟨0, 1, 1, .ro, 0⟩
def TRAIN_SRC : Field := ⟨0, 3, 2, .ro, 0⟩
def REFRATE : Field := ⟨0, 5, 4, .ro, 0⟩
def SELFREF : Field := ⟨0, 6, 6, .ro, 0⟩
end HBM_STAT

namespace HBM_TEMP
def TEMP : Field := ⟨0, 7, 0, .ro, 0⟩
def PEAK : Field := ⟨0, 15, 8, .rc, 0⟩
end HBM_TEMP

namespace HBM_CE
def CTRL : Field := ⟨0, 31, 0, .rc, 0⟩
def ONDIE : Field := ⟨0, 63, 32, .rc, 0⟩
end HBM_CE

namespace HBM_UE
def CNT : Field := ⟨0, 31, 0, .rc, 0⟩
end HBM_UE

namespace HBM_UE_ADDR
def SADDR : Field := ⟨0, 36, 0, .ro, 0⟩
def VALID : Field := ⟨0, 63, 63, .ro, 0⟩
end HBM_UE_ADDR

namespace HBM_ERR
def UE : Field := ⟨0, 0, 0, .w1c, 0⟩
def THERM_WARN : Field := ⟨0, 1, 1, .w1c, 0⟩
def THERM_TRIP : Field := ⟨0, 2, 2, .w1c, 0⟩
def TRAIN_FAIL : Field := ⟨0, 3, 3, .w1c, 0⟩
def KR_REJECT : Field := ⟨0, 4, 4, .w1c, 0⟩
end HBM_ERR

namespace HBM_SCRUB
def ENABLE : Field := ⟨0, 0, 0, .rwl, 1⟩
def PERIOD : Field := ⟨0, 15, 8, .rwl, 0x18⟩
end HBM_SCRUB

namespace HBM_LINES
def ALL : Field := ⟨0, 63, 0, .ro, 0⟩
end HBM_LINES

namespace HBM_MAP
def GRAN : Field := ⟨0, 1, 0, .rwl, 2⟩
def SPLITG : Field := ⟨0, 8, 2, .rwl, 0x30⟩
def MAP_BUSY : Field := ⟨0, 9, 9, .ro, 0⟩
end HBM_MAP

namespace HBM_KR
def BASE : Field := ⟨0, 46, 0, .rwl, 0⟩
def BUSY : Field := ⟨0, 53, 53, .ro, 0⟩
def VALID : Field := ⟨0, 63, 63, .rwl, 0⟩
def LENGTH : Field := ⟨1, 40, 0, .rwl, 0⟩
end HBM_KR

namespace PORT_CFG
def MODE : Field := ⟨0, 1, 0, .rwl, 0⟩
def PMD : Field := ⟨0, 3, 2, .rwl, 0⟩
def AN : Field := ⟨0, 4, 4, .rwl, 1⟩
def PFC : Field := ⟨0, 12, 5, .rwl, 0⟩
def PREEMPT : Field := ⟨0, 13, 13, .rwl, 1⟩
def ADDFRAG : Field := ⟨0, 15, 14, .rwl, 0⟩
def HOSTCH : Field := ⟨0, 16, 16, .rwl, 0⟩
def MACSEC : Field := ⟨0, 17, 17, .rwl, 0⟩
def RESET : Field := ⟨0, 18, 18, .w1s, 0⟩
end PORT_CFG

namespace PORT_STAT
def LINK : Field := ⟨0, 0, 0, .ro, 0⟩
def AN_DONE : Field := ⟨0, 1, 1, .ro, 0⟩
def PREEMPT_ACTIVE : Field := ⟨0, 2, 2, .ro, 0⟩
def MACSEC_ACTIVE : Field := ⟨0, 3, 3, .ro, 0⟩
def AN_CUR : Field := ⟨0, 5, 4, .ro, 0⟩
end PORT_STAT

namespace PORT_FEC
def CORR : Field := ⟨0, 31, 0, .rc, 0⟩
def UNCORR : Field := ⟨0, 63, 32, .rc, 0⟩
end PORT_FEC

namespace PORT_MAC
def MAC : Field := ⟨0, 47, 0, .rwl, 0⟩
def VID : Field := ⟨0, 59, 48, .rwl, 0⟩
end PORT_MAC

namespace PORT_IP6
def LO : Field := ⟨0, 63, 0, .rwl, 0⟩
def HI : Field := ⟨1, 63, 0, .rwl, 0⟩
end PORT_IP6

namespace PORT_IP4
def ADDR : Field := ⟨0, 31, 0, .rwl, 0⟩
end PORT_IP4

namespace PORT_DROP
def BAD : Field := ⟨0, 31, 0, .rc, 0⟩
def FILT : Field := ⟨0, 63, 32, .rc, 0⟩
end PORT_DROP

namespace PORT_TXTS
def NS : Field := ⟨0, 63, 0, .ro, 0⟩
def FRAC : Field := ⟨1, 15, 0, .ro, 0⟩
def SEQ : Field := ⟨1, 31, 16, .ro, 0⟩
def VALID : Field := ⟨1, 63, 63, .ro, 0⟩
end PORT_TXTS

namespace FL_STEP
def OFFSET : Field := ⟨0, 25, 0, .rwl, 0⟩
def MAST : Field := ⟨0, 28, 26, .rwl, 0⟩
def LENGTH : Field := ⟨0, 44, 29, .rwl, 0⟩
end FL_STEP

namespace FL_REC
def OFFSET : Field := ⟨0, 25, 0, .rwl, 0⟩
def MAST : Field := ⟨0, 28, 26, .rwl, 0⟩
end FL_REC

namespace FL_STAT
def BUSY : Field := ⟨0, 0, 0, .ro, 0⟩
def STEP_DONE : Field := ⟨0, 1, 1, .ro, 0⟩
def ACTIVE : Field := ⟨0, 8, 2, .ro, 0⟩
def WAITING : Field := ⟨0, 15, 9, .ro, 0⟩
def ENTRY : Field := ⟨0, 31, 16, .ro, 0⟩
def MISSQ : Field := ⟨0, 40, 32, .ro, 0⟩
end FL_STAT

namespace FL_ERR
def BAD_DESC : Field := ⟨0, 0, 0, .w1c, 0⟩
def OOB : Field := ⟨0, 1, 1, .w1c, 0⟩
def SHAPE_OVF : Field := ⟨0, 2, 2, .w1c, 0⟩
def POISON : Field := ⟨0, 3, 3, .w1c, 0⟩
def DENIED : Field := ⟨0, 4, 4, .w1c, 0⟩
def TRANSPORT : Field := ⟨0, 5, 5, .w1c, 0⟩
end FL_ERR

namespace SC_OP
def OP : Field := ⟨0, 1, 0, .wo, 0⟩
def ALL : Field := ⟨0, 2, 2, .wo, 0⟩
def BUSY : Field := ⟨0, 3, 3, .ro, 0⟩
end SC_OP

namespace SC_RANGE
def BASE : Field := ⟨0, 46, 0, .rw, 0⟩
end SC_RANGE

namespace SC_LEN
def LEN : Field := ⟨0, 39, 0, .rw, 0⟩
end SC_LEN

namespace SC_HITS
def ALL : Field := ⟨0, 63, 0, .ro, 0⟩
end SC_HITS

namespace SC_MISSES
def ALL : Field := ⟨0, 63, 0, .ro, 0⟩
end SC_MISSES

namespace SC_ERR
def CE : Field := ⟨0, 15, 0, .rc, 0⟩
def UE : Field := ⟨0, 31, 16, .rc, 0⟩
end SC_ERR

namespace TP_ENCAP
def ETYPE : Field := ⟨0, 15, 0, .rwl, 0x88B5⟩
def UDPPORT : Field := ⟨0, 31, 16, .rwl, 0xC487⟩
def EXPCP : Field := ⟨0, 34, 32, .rwl, 7⟩
def BULKPCP : Field := ⟨0, 37, 35, .rwl, 3⟩
def EXDSCP : Field := ⟨0, 43, 38, .rwl, 0x2E⟩
def BULKDSCP : Field := ⟨0, 49, 44, .rwl, 0x1A⟩
end TP_ENCAP

namespace TP_TIMER
def HBINT : Field := ⟨0, 9, 0, .rwl, 8⟩
def HBMISS : Field := ⟨0, 13, 10, .rwl, 4⟩
def RTOMAX : Field := ⟨0, 29, 14, .rwl, 0x100⟩
def ACKDLY : Field := ⟨0, 39, 30, .rwl, 0x32⟩
def ACKN : Field := ⟨0, 43, 40, .rwl, 8⟩
end TP_TIMER

namespace TP_STAT
def OPEN : Field := ⟨0, 12, 0, .ro, 0⟩
def LOST : Field := ⟨0, 25, 13, .ro, 0⟩
end TP_STAT

namespace TP_ERR
def PEER_LOST : Field := ⟨0, 0, 0, .w1c, 0⟩
def AUTH : Field := ⟨0, 1, 1, .w1c, 0⟩
def PROXY : Field := ⟨0, 2, 2, .w1c, 0⟩
def OPEN_FAILED : Field := ⟨0, 3, 3, .w1c, 0⟩
def PREEMPT_OFF : Field := ⟨0, 4, 4, .w1c, 0⟩
end TP_ERR

namespace TP_DROP
def STALE : Field := ⟨0, 15, 0, .rc, 0⟩
def CLOSED : Field := ⟨0, 31, 16, .rc, 0⟩
def UNKNOWN : Field := ⟨0, 47, 32, .rc, 0⟩
def AUTH : Field := ⟨0, 63, 48, .rc, 0⟩
end TP_DROP

namespace TP_LOST
def DEV : Field := ⟨0, 16, 0, .rc, 0⟩
def VALID : Field := ⟨0, 63, 63, .rc, 0⟩
end TP_LOST

namespace CN
def VALID : Field := ⟨0, 0, 0, .rw, 0⟩
def STATE : Field := ⟨0, 3, 1, .ro, 0⟩
def EPOCH : Field := ⟨0, 7, 4, .ro, 0⟩
def HOST : Field := ⟨0, 8, 8, .rw, 0⟩
def ENCAP : Field := ⟨0, 10, 9, .rw, 0⟩
def PROT : Field := ⟨0, 11, 11, .rw, 0⟩
def ECN : Field := ⟨0, 12, 12, .rw, 0⟩
def MAXPAY : Field := ⟨0, 14, 13, .rw, 2⟩
def PORT : Field := ⟨0, 19, 15, .rw, 0⟩
def SUB : Field := ⟨0, 21, 20, .rw, 0⟩
def PEER : Field := ⟨0, 38, 22, .rw, 0⟩
def PEERCONN : Field := ⟨0, 54, 39, .ro, 0⟩
def PEERMAC : Field := ⟨1, 47, 0, .rw, 0⟩
def VID : Field := ⟨1, 59, 48, .rw, 0⟩
def IPIDX : Field := ⟨2, 7, 0, .rw, 0⟩
def WIN : Field := ⟨2, 20, 8, .rw, 0x400⟩
def SNDNXT : Field := ⟨3, 31, 0, .ro, 0⟩
def SNDUNA : Field := ⟨3, 63, 32, .ro, 0⟩
def RCVNXT : Field := ⟨4, 31, 0, .ro, 0⟩
def CWND : Field := ⟨4, 44, 32, .ro, 0⟩
def RETRIES : Field := ⟨4, 49, 45, .ro, 0⟩
def SRTT : Field := ⟨5, 31, 0, .ro, 0⟩
def RTO : Field := ⟨5, 63, 32, .ro, 0xFA0⟩
def OP : Field := ⟨6, 1, 0, .wo, 0⟩
def CAUSE : Field := ⟨7, 7, 0, .ro, 0⟩
end CN

namespace WIN
def BASE : Field := ⟨0, 46, 0, .rw, 0⟩
def OPEN : Field := ⟨0, 47, 47, .ro, 0⟩
def EPOCH : Field := ⟨0, 53, 48, .ro, 0⟩
def PW : Field := ⟨0, 54, 54, .rw, 0⟩
def PR : Field := ⟨0, 55, 55, .rw, 0⟩
def PH : Field := ⟨0, 56, 56, .rw, 0⟩
def ANYPEER : Field := ⟨0, 57, 57, .rw, 0⟩
def LENGTH : Field := ⟨1, 39, 0, .rw, 0⟩
def PEER : Field := ⟨1, 56, 40, .rw, 0⟩
def OP : Field := ⟨2, 1, 0, .wo, 0⟩
def BUSY : Field := ⟨2, 2, 2, .ro, 0⟩
def ACCEPTED : Field := ⟨3, 63, 0, .ro, 0⟩
end WIN

namespace REM
def BASE : Field := ⟨0, 46, 0, .rwl, 0⟩
def DEV : Field := ⟨0, 63, 47, .rwl, 0⟩
def LENGTH : Field := ⟨1, 39, 0, .rwl, 0⟩
def HANDLE : Field := ⟨1, 55, 40, .rwl, 0⟩
def VALID : Field := ⟨1, 56, 56, .rwl, 0⟩
end REM

namespace IPT
def ADDR0 : Field := ⟨0, 63, 0, .rwl, 0⟩
def ADDR1 : Field := ⟨1, 63, 0, .rwl, 0⟩
def NEXTHOP : Field := ⟨2, 47, 0, .rwl, 0⟩
def VALID : Field := ⟨2, 63, 63, .rwl, 0⟩
end IPT

namespace PXY
def VALID : Field := ⟨0, 0, 0, .rwl, 0⟩
def DEV : Field := ⟨0, 17, 1, .rwl, 0⟩
def INDEX : Field := ⟨0, 33, 18, .rwl, 0⟩
def CHK : Field := ⟨0, 34, 34, .rwl, 0⟩
def EPOCH : Field := ⟨0, 38, 35, .rwl, 0⟩
end PXY

namespace SEC_STAT
def DEBUG : Field := ⟨0, 1, 0, .ro, 0⟩
def OWNER_BOUND : Field := ⟨0, 2, 2, .ro, 0⟩
def IMAGE : Field := ⟨0, 7, 4, .ro, 0⟩
def ABORT : Field := ⟨0, 11, 8, .ro, 0⟩
def SYSLINK : Field := ⟨0, 12, 12, .ro, 0⟩
def SESSIONS : Field := ⟨0, 20, 16, .ro, 0⟩
def IMPORTS : Field := ⟨0, 63, 32, .ro, 0⟩
end SEC_STAT

namespace SEC_SLOTS
def KEYS : Field := ⟨0, 63, 0, .ro, 0⟩
end SEC_SLOTS

namespace SEC_ERR
def UNWRAP : Field := ⟨0, 0, 0, .w1c, 0⟩
def SIGNATURE : Field := ⟨0, 1, 1, .w1c, 0⟩
def OWNER : Field := ⟨0, 2, 2, .w1c, 0⟩
def HANDSHAKE : Field := ⟨0, 3, 3, .w1c, 0⟩
end SEC_ERR

namespace SEC_REJECT
def CNT : Field := ⟨0, 31, 0, .rc, 0⟩
end SEC_REJECT

namespace SEC_OWNER
def ALL : Field := ⟨0, 63, 0, .ro, 0⟩
end SEC_OWNER

namespace ABT_CTRL
def SCOPE : Field := ⟨0, 0, 0, .rw, 0⟩
def SECTION : Field := ⟨0, 15, 8, .rw, 0⟩
def TRIGGER : Field := ⟨0, 16, 16, .w1s, 0⟩
end ABT_CTRL

namespace ABT_STAT
def ACTIVE : Field := ⟨0, 0, 0, .ro, 0⟩
def PHASE : Field := ⟨0, 3, 1, .ro, 0⟩
def COUNT : Field := ⟨0, 63, 32, .ro, 0⟩
end ABT_STAT

namespace ABT_LAST
def ELAPSED : Field := ⟨0, 31, 0, .ro, 0⟩
def FORCED : Field := ⟨0, 32, 32, .ro, 0⟩
def SOURCE : Field := ⟨0, 33, 33, .ro, 0⟩
def MASTS : Field := ⟨0, 47, 40, .ro, 0⟩
end ABT_LAST

namespace ABT_ERR
def BADTAG : Field := ⟨0, 0, 0, .w1c, 0⟩
def REPLAY : Field := ⟨0, 1, 1, .w1c, 0⟩
def NOKEY : Field := ⟨0, 2, 2, .w1c, 0⟩
def FORCED : Field := ⟨0, 3, 3, .w1c, 0⟩
end ABT_ERR

namespace ABT_CTR
def ALL : Field := ⟨0, 63, 0, .ro, 0⟩
end ABT_CTR

namespace ABT_DROP
def CNT : Field := ⟨0, 31, 0, .rc, 0⟩
end ABT_DROP

namespace RST_CAUSE
def KIND : Field := ⟨0, 2, 0, .ro, 0⟩
def RECOVERY_ACT : Field := ⟨0, 3, 3, .ro, 0⟩
def PREV_FATAL : Field := ⟨0, 4, 4, .ro, 0⟩
def COUNT : Field := ⟨0, 63, 32, .ro, 0⟩
end RST_CAUSE

namespace RST_STAT
def MAST : Field := ⟨0, 7, 0, .ro, 0⟩
def PORT : Field := ⟨0, 25, 8, .ro, 0⟩
end RST_STAT

namespace BOOT_STAT
def PHASE : Field := ⟨0, 2, 0, .ro, 1⟩
def SLOT : Field := ⟨0, 4, 3, .ro, 0⟩
def TRAIN : Field := ⟨0, 6, 5, .ro, 0⟩
def READY : Field := ⟨0, 7, 7, .ro, 0⟩
def READY_MS : Field := ⟨0, 31, 16, .ro, 0⟩
end BOOT_STAT

namespace PWR_CTRL
def CAP : Field := ⟨0, 11, 0, .rw, 0xA28⟩
end PWR_CTRL

namespace PWR_STAT
def FUSED : Field := ⟨0, 1, 0, .ro, 0⟩
def GEAR : Field := ⟨0, 3, 2, .ro, 0⟩
def MASTS : Field := ⟨0, 19, 4, .ro, 0⟩
def STOPPED : Field := ⟨0, 20, 20, .ro, 0⟩
end PWR_STAT

namespace PWR_INPUT
def AVG_W : Field := ⟨0, 15, 0, .ro, 0⟩
def INST_W : Field := ⟨0, 31, 16, .ro, 0⟩
def VIN_MV : Field := ⟨0, 47, 32, .ro, 0⟩
def IIN_DA : Field := ⟨0, 63, 48, .ro, 0⟩
end PWR_INPUT

namespace THERM
def HOTTEST : Field := ⟨0, 7, 0, .ro, 0⟩
def SOURCE : Field := ⟨0, 12, 8, .ro, 0⟩
def TJ_TRIP : Field := ⟨0, 23, 16, .ro, 0x69⟩
end THERM

namespace PWR_ERR
def THERMAL_TRIP : Field := ⟨0, 0, 0, .w1c, 0⟩
def THERMAL_SHUTDOWN : Field := ⟨0, 1, 1, .w1c, 0⟩
def CAP_MISS : Field := ⟨0, 2, 2, .w1c, 0⟩
def VIN_RANGE : Field := ⟨0, 3, 3, .w1c, 0⟩
def OVERLAY : Field := ⟨0, 4, 4, .w1c, 0⟩
end PWR_ERR

namespace PWR_GEARCNT
def CNT : Field := ⟨0, 31, 0, .rc, 0⟩
end PWR_GEARCNT

/-- The fields of each register (all its words). -/
def Reg.fields : Reg → List Field
  | .devIdent => [DEV_IDENT.ORDER, DEV_IDENT.STACKS, DEV_IDENT.FITTED, DEV_IDENT.GEAR]
  | .devId => [DEV_ID.DEVICE, DEV_ID.ASSIGNED]
  | .devSerial0 => [DEV_SERIAL0.ALL]
  | .devSerial1 => [DEV_SERIAL1.ALL]
  | .devVersion => [DEV_VERSION.STEPPING, DEV_VERSION.MAPVER, DEV_VERSION.PART]
  | .devRepair => [DEV_REPAIR.MASTS]
  | .cltCmd _ _ => [CLT_CMD.PEND, CLT_CMD.VALID, CLT_CMD.REC0L, CLT_CMD.REC0H, CLT_CMD.REC1L, CLT_CMD.REC1H, 
      CLT_CMD.RES0, CLT_CMD.RES1]
  | .cltDbgsel => [CLT_DBGSEL.SEL]
  | .cltDbg _ => [CLT_DBG.ALL]
  | .cltStat => [CLT_STAT.FULL]
  | .cltErr => [CLT_ERR.SAT, CLT_ERR.FLOOR, CLT_ERR.STALE, CLT_ERR.DENIED, CLT_ERR.POISONED, CLT_ERR.ABANDONED]
  | .cltStale => [CLT_STALE.CNT]
  | .shrGrp _ => [SHR_GRP.VALID, SHR_GRP.ROOT, SHR_GRP.NCHILD, SHR_GRP.MASTS, SHR_GRP.PSLOT, SHR_GRP.PARENT]
  | .shrStat _ => [SHR_STAT.GEN, SHR_STAT.ARRIVED, SHR_STAT.LOST, SHR_STAT.LAST_STATUS]
  | .shrChild _ _ => [SHR_CHILD.DEV, SHR_CHILD.VALID]
  | .shrMast _ _ => [SHR_MAST.ACLEAT, SHR_MAST.ACOUNT, SHR_MAST.RCLEAT, SHR_MAST.RADD]
  | .shrStale => [SHR_STALE.CNT]
  | .tbNow => [TB_NOW.ALL]
  | .tbFrac => [TB_FRAC.FRAC]
  | .tbRate => [TB_RATE.RATE]
  | .tbStep => [TB_STEP.ALL]
  | .tbPps => [TB_PPS.ALL]
  | .tbTickin => [TB_TICKIN.ALL]
  | .stkCtrl => [STK_CTRL.RUN, STK_CTRL.POLICY, STK_CTRL.PINMODE]
  | .stkT0 => [STK_T0.ALL]
  | .stkPeriod => [STK_PERIOD.P]
  | .stkGuard => [STK_GUARD.G]
  | .stkGrace => [STK_GRACE.GR]
  | .stkCable => [STK_CABLE.NS, STK_CABLE.FRAC]
  | .stkNum => [STK_NUM.NUM]
  | .stkStat => [STK_STAT.LOCKED, STK_STAT.RUNNING, STK_STAT.PHASE_ERR]
  | .stkCnt => [STK_CNT.LATE, STK_CNT.OVERRUN, STK_CNT.SKIPPED, STK_CNT.BUDGET]
  | .stkOvr0 => [STK_OVR0.ALL]
  | .stkOvr1 => [STK_OVR1.ALL]
  | .stkErr => [STK_ERR.OVERRUN, STK_ERR.THERMAL, STK_ERR.WINDOW, STK_ERR.WR_IGNORED, STK_ERR.UNLOCK]
  | .stkMast _ => [STK_MAST.PHASE, STK_MAST.BUDGET, STK_MAST.SECTION, STK_MAST.VALID]
  | .redCtrl => [RED_CTRL.SENDF]
  | .redStat => [RED_STAT.OPEN, RED_STAT.ARMING]
  | .redErr => [RED_ERR.MISMATCH, RED_ERR.TOLFAIL, RED_ERR.TIMEOUT, RED_ERR.EXTRA, RED_ERR.POISON]
  | .redDrop => [RED_DROP.STALE, RED_DROP.REFUSED]
  | .ord _ _ => [ORD.BASE, ORD.TYPE, ORD.INIT, ORD.CHK, ORD.F, ORD.STATE, ORD.LENGTH, ORD.RANKS, ORD.RANKBASE, 
      ORD.RANKSTRIDE, ORD.DONECLEAT, ORD.ARMCLEAT, ORD.TMO, ORD.SECTION, ORD.RECEIVED, ORD.ROUND, 
      ORD.LAST_STATUS, ORD.FLAGS, ORD.APPLIED, ORD.EXTRA]
  | .bkt _ _ => [BKT.BASE, BKT.EPOCH, BKT.TYPE, BKT.INIT, BKT.CHK, BKT.F, BKT.STATE, BKT.LENGTH, BKT.DONECLEAT, 
      BKT.ARMCLEAT, BKT.TMO, BKT.EXPECTED, BKT.ARRIVED, BKT.ROUND, BKT.LAST_STATUS, BKT.FLAGS, BKT.EXTRA, 
      BKT.TOLFAIL, BKT.SECTION, BKT.SHADOW, BKT.CLAIMED, BKT.RESULT, BKT.APPLIED, BKT.CLAIMED_N]
  | .cnWd => [CN_WD.PERIOD, CN_WD.KICK, CN_WD.STAGE1]
  | .cnStat => [CN_STAT.CORES_UP, CN_STAT.RECOVERY, CN_STAT.RESTARTS, CN_STAT.FWIF]
  | .mbxDrop => [MBX_DROP.CNT]
  | .slStat => [SL_STAT.BUSY, SL_STAT.PHASE, SL_STAT.MEASURES]
  | .slErr => [SL_ERR.VERIFY, SL_ERR.CONFIG, SL_ERR.SWITCH, SL_ERR.DRAIN]
  | .slSec _ _ => [SL_SEC.VALID, SL_SEC.STATE, SL_SEC.SECTION, SL_SEC.MASTS, SL_SEC.MEASURE, SL_SEC.IMAGE]
  | .fltStat => [FLT_STAT.FATAL, FLT_STAT.DEVICE_FATAL, FLT_STAT.DUMP, FLT_STAT.ALERT, FLT_STAT.FATAL_MASTS]
  | .fltLog => [FLT_LOG.NEXT, FLT_LOG.LOST]
  | .fltLogsel => [FLT_LOGSEL.SEQ]
  | .fltLogdata _ => [FLT_LOGDATA.ALL]
  | .fltFirst _ => [FLT_FIRST.ALL]
  | .fltDumplen => [FLT_DUMPLEN.ALL]
  | .slot _ _ _ _ => [SLOT.VALID, SLOT.KIND, SLOT.LENGTH, SLOT.INBIND, SLOT.OUTBIND, SLOT.RND, SLOT.GEN, SLOT.RV, SLOT.RSC, 
      SLOT.RC, SLOT.PROG0, SLOT.PROG1, SLOT.PROG2, SLOT.PROG3, SLOT.PROG4, SLOT.PROG5, SLOT.PROG6, 
      SLOT.PROG7, SLOT.PROG8, SLOT.PROG9, SLOT.PROG10, SLOT.PROG11]
  | .sailStat _ _ => [SAIL_STAT.BUSY, SAIL_STAT.RESIDENT, SAIL_STAT.MODE]
  | .sailBlocks _ _ => [SAIL_BLOCKS.ALL]
  | .sailSkips _ _ => [SAIL_SKIPS.ALL]
  | .seqStat _ => [SEQ_STAT.BUSY, SEQ_STAT.WAITING, SEQ_STAT.STEP_DONE, SEQ_STAT.PC, SEQ_STAT.LAST_STATUS]
  | .seqProg _ => [SEQ_PROG.BASE, SEQ_PROG.LENGTH]
  | .seqLast _ => [SEQ_LAST.ALL]
  | .seqErr _ => [SEQ_ERR.BAD_DESC, SEQ_ERR.OOB, SEQ_ERR.SHAPE_OVF, SEQ_ERR.POISON, SEQ_ERR.SCALE_RANGE, 
      SEQ_ERR.UNSUPPORTED]
  | .fabCtrl _ => [FAB_CTRL.ENABLE, FAB_CTRL.STOP_SRC, FAB_CTRL.DRAIN]
  | .fabStat _ => [FAB_STAT.RUNNING, FAB_STAT.SRC_STOPPED, FAB_STAT.DRAIN_DONE, FAB_STAT.RESIDUE, FAB_STAT.STALL, 
      FAB_STAT.STEP_DONE, FAB_STAT.TICK_LAG, FAB_STAT.FLAGS, FAB_STAT.FIRINGS]
  | .fabGen _ => [FAB_GEN.GEN]
  | .fabWd _ => [FAB_WD.EXP, FAB_WD.DISABLE]
  | .fabSnap _ => [FAB_SNAP.OFFSET]
  | .fabRepair _ => [FAB_REPAIR.REPAIRED]
  | .fabSpill _ _ => [FAB_SPILL.VALID, FAB_SPILL.SHEAVE, FAB_SPILL.QUEUE, FAB_SPILL.COIL]
  | .fabEdge _ _ _ => [FAB_EDGE.VALID, FAB_EDGE.KIND, FAB_EDGE.SIDE, FAB_EDGE.POS, FAB_EDGE.NET, FAB_EDGE.LANE, 
      FAB_EDGE.COIL, FAB_EDGE.CLEAT, FAB_EDGE.EVERY, FAB_EDGE.CHAN, FAB_EDGE.STEP_COUNT]
  | .shvFlags _ _ => [SHV_FLAGS.ALL]
  | .memStat _ => [MEM_STAT.SB_USED, MEM_STAT.SB_FULL, MEM_STAT.COIL_WAITS]
  | .memCe _ => [MEM_CE.WEIGHT, MEM_CE.ACT, MEM_CE.PSUM]
  | .memUe _ => [MEM_UE.WEIGHT, MEM_UE.ACT, MEM_UE.PSUM]
  | .memUeAddr _ => [MEM_UE_ADDR.ADDR, MEM_UE_ADDR.VALID]
  | .memMerged _ => [MEM_MERGED.ALL]
  | .memSbStall _ => [MEM_SB_STALL.ALL]
  | .memScrub _ => [MEM_SCRUB.ENABLE]
  | .coil _ _ _ => [COIL.VALID, COIL.MEM, COIL.SAIL, COIL.RECSZ, COIL.BASE, COIL.CAP, COIL.HEAD, COIL.TAIL, COIL.CLAIM, 
      COIL.RESV, COIL.CLEAT, COIL.EVERY]
  | .sbEntry _ _ _ => [SB_ENTRY.BASE, SB_ENTRY.VALID, SB_ENTRY.LINES, SB_ENTRY.WRITER, SB_ENTRY.DEVICE]
  | .jibCtrl _ _ => [JIB_CTRL.MODE]
  | .jibStat _ _ => [JIB_STAT.BUSY, JIB_STAT.WAITING, JIB_STAT.STEP_DONE, JIB_STAT.PC, JIB_STAT.LAST_STATUS]
  | .jibProg _ _ => [JIB_PROG.BASE, JIB_PROG.LENGTH]
  | .jibRec _ _ => [JIB_REC.OFFSET]
  | .jibLast _ _ => [JIB_LAST.ALL]
  | .jibErr _ _ => [JIB_ERR.BAD_DESC, JIB_ERR.OOB, JIB_ERR.SHAPE_OVF, JIB_ERR.POISON, JIB_ERR.BUSY]
  | .jibRsctr _ _ => [JIB_RSCTR.CTR]
  | .tkProg _ => [TK_PROG.BASE, TK_PROG.LENGTH]
  | .tkRec _ => [TK_REC.OFFSET]
  | .tkStat _ => [TK_STAT.BUSY, TK_STAT.WAITING, TK_STAT.STEP_DONE, TK_STAT.INFLIGHT, TK_STAT.PC, TK_STAT.LAST_STATUS]
  | .tkLast _ => [TK_LAST.ALL]
  | .tkErr _ => [TK_ERR.BAD_DESC, TK_ERR.OOB, TK_ERR.SHAPE_OVF, TK_ERR.POISON, TK_ERR.DENIED]
  | .tkDropped _ => [TK_DROPPED.ALL]
  | .tkRsctr _ => [TK_RSCTR.CTR]
  | .halCfg _ _ => [HAL_CFG.VALID, HAL_CFG.RING, HAL_CFG.AUTOACK, HAL_CFG.RELMODE, HAL_CFG.IRQ, HAL_CFG.MAXLEN, 
      HAL_CFG.RLIMIT]
  | .halRing _ _ _ => [HAL_RING.BASE, HAL_RING.SIZE, HAL_RING.WINDOW]
  | .halPtr _ _ => [HAL_PTR.HEAD, HAL_PTR.TAIL]
  | .halQstat _ _ => [HAL_QSTAT.COUNT, HAL_QSTAT.RESV]
  | .halRel _ _ => [HAL_REL.N]
  | .halSend _ _ _ => [HAL_SEND.VALID, HAL_SEND.TRIG, HAL_SEND.DESC]
  | .halSstat _ _ => [HAL_SSTAT.LAST_STATUS, HAL_SSTAT.BUSY, HAL_SSTAT.RETRYING, HAL_SSTAT.PARKED, HAL_SSTAT.SENDS]
  | .halTmo _ => [HAL_TMO.US]
  | .halErr _ => [HAL_ERR.FULL, HAL_ERR.REFUSED, HAL_ERR.BAD_DESC, HAL_ERR.PEER_LOST, HAL_ERR.POISON]
  | .halDrop _ => [HAL_DROP.STALE, HAL_DROP.REFUSED]
  | .halNote _ _ => [HAL_NOTE.W0, HAL_NOTE.W1]
  | .hbmStat _ => [HBM_STAT.FITTED, HBM_STAT.TRAINED, HBM_STAT.TRAIN_SRC, HBM_STAT.REFRATE, HBM_STAT.SELFREF]
  | .hbmTemp _ => [HBM_TEMP.TEMP, HBM_TEMP.PEAK]
  | .hbmCe _ => [HBM_CE.CTRL, HBM_CE.ONDIE]
  | .hbmUe _ => [HBM_UE.CNT]
  | .hbmUeAddr _ => [HBM_UE_ADDR.SADDR, HBM_UE_ADDR.VALID]
  | .hbmErr _ => [HBM_ERR.UE, HBM_ERR.THERM_WARN, HBM_ERR.THERM_TRIP, HBM_ERR.TRAIN_FAIL, HBM_ERR.KR_REJECT]
  | .hbmScrub _ => [HBM_SCRUB.ENABLE, HBM_SCRUB.PERIOD]
  | .hbmLines _ => [HBM_LINES.ALL]
  | .hbmMap => [HBM_MAP.GRAN, HBM_MAP.SPLITG, HBM_MAP.MAP_BUSY]
  | .hbmKr _ _ => [HBM_KR.BASE, HBM_KR.BUSY, HBM_KR.VALID, HBM_KR.LENGTH]
  | .portCfg _ => [PORT_CFG.MODE, PORT_CFG.PMD, PORT_CFG.AN, PORT_CFG.PFC, PORT_CFG.PREEMPT, PORT_CFG.ADDFRAG, 
      PORT_CFG.HOSTCH, PORT_CFG.MACSEC, PORT_CFG.RESET]
  | .portStat _ _ => [PORT_STAT.LINK, PORT_STAT.AN_DONE, PORT_STAT.PREEMPT_ACTIVE, PORT_STAT.MACSEC_ACTIVE, 
      PORT_STAT.AN_CUR]
  | .portFec _ _ => [PORT_FEC.CORR, PORT_FEC.UNCORR]
  | .portMac _ _ => [PORT_MAC.MAC, PORT_MAC.VID]
  | .portIp6 _ _ _ => [PORT_IP6.LO, PORT_IP6.HI]
  | .portIp4 _ _ => [PORT_IP4.ADDR]
  | .portDrop _ _ => [PORT_DROP.BAD, PORT_DROP.FILT]
  | .portTxts _ _ _ => [PORT_TXTS.NS, PORT_TXTS.FRAC, PORT_TXTS.SEQ, PORT_TXTS.VALID]
  | .flStep _ => [FL_STEP.OFFSET, FL_STEP.MAST, FL_STEP.LENGTH]
  | .flRec _ => [FL_REC.OFFSET, FL_REC.MAST]
  | .flStat _ => [FL_STAT.BUSY, FL_STAT.STEP_DONE, FL_STAT.ACTIVE, FL_STAT.WAITING, FL_STAT.ENTRY, FL_STAT.MISSQ]
  | .flErr _ => [FL_ERR.BAD_DESC, FL_ERR.OOB, FL_ERR.SHAPE_OVF, FL_ERR.POISON, FL_ERR.DENIED, FL_ERR.TRANSPORT]
  | .scOp _ => [SC_OP.OP, SC_OP.ALL, SC_OP.BUSY]
  | .scRange _ => [SC_RANGE.BASE]
  | .scLen _ => [SC_LEN.LEN]
  | .scHits _ => [SC_HITS.ALL]
  | .scMisses _ => [SC_MISSES.ALL]
  | .scErr _ => [SC_ERR.CE, SC_ERR.UE]
  | .tpEncap => [TP_ENCAP.ETYPE, TP_ENCAP.UDPPORT, TP_ENCAP.EXPCP, TP_ENCAP.BULKPCP, TP_ENCAP.EXDSCP, 
      TP_ENCAP.BULKDSCP]
  | .tpTimer => [TP_TIMER.HBINT, TP_TIMER.HBMISS, TP_TIMER.RTOMAX, TP_TIMER.ACKDLY, TP_TIMER.ACKN]
  | .tpStat => [TP_STAT.OPEN, TP_STAT.LOST]
  | .tpErr => [TP_ERR.PEER_LOST, TP_ERR.AUTH, TP_ERR.PROXY, TP_ERR.OPEN_FAILED, TP_ERR.PREEMPT_OFF]
  | .tpDrop => [TP_DROP.STALE, TP_DROP.CLOSED, TP_DROP.UNKNOWN, TP_DROP.AUTH]
  | .tpLost => [TP_LOST.DEV, TP_LOST.VALID]
  | .cn _ _ => [CN.VALID, CN.STATE, CN.EPOCH, CN.HOST, CN.ENCAP, CN.PROT, CN.ECN, CN.MAXPAY, CN.PORT, CN.SUB, 
      CN.PEER, CN.PEERCONN, CN.PEERMAC, CN.VID, CN.IPIDX, CN.WIN, CN.SNDNXT, CN.SNDUNA, CN.RCVNXT, CN.CWND, 
      CN.RETRIES, CN.SRTT, CN.RTO, CN.OP, CN.CAUSE]
  | .win _ _ => [WIN.BASE, WIN.OPEN, WIN.EPOCH, WIN.PW, WIN.PR, WIN.PH, WIN.ANYPEER, WIN.LENGTH, WIN.PEER, WIN.OP, 
      WIN.BUSY, WIN.ACCEPTED]
  | .rem _ _ => [REM.BASE, REM.DEV, REM.LENGTH, REM.HANDLE, REM.VALID]
  | .ipt _ _ => [IPT.ADDR0, IPT.ADDR1, IPT.NEXTHOP, IPT.VALID]
  | .pxy _ => [PXY.VALID, PXY.DEV, PXY.INDEX, PXY.CHK, PXY.EPOCH]
  | .secStat => [SEC_STAT.DEBUG, SEC_STAT.OWNER_BOUND, SEC_STAT.IMAGE, SEC_STAT.ABORT, SEC_STAT.SYSLINK, 
      SEC_STAT.SESSIONS, SEC_STAT.IMPORTS]
  | .secSlots => [SEC_SLOTS.KEYS]
  | .secErr => [SEC_ERR.UNWRAP, SEC_ERR.SIGNATURE, SEC_ERR.OWNER, SEC_ERR.HANDSHAKE]
  | .secReject => [SEC_REJECT.CNT]
  | .secOwner _ => [SEC_OWNER.ALL]
  | .abtCtrl => [ABT_CTRL.SCOPE, ABT_CTRL.SECTION, ABT_CTRL.TRIGGER]
  | .abtStat => [ABT_STAT.ACTIVE, ABT_STAT.PHASE, ABT_STAT.COUNT]
  | .abtLast => [ABT_LAST.ELAPSED, ABT_LAST.FORCED, ABT_LAST.SOURCE, ABT_LAST.MASTS]
  | .abtErr => [ABT_ERR.BADTAG, ABT_ERR.REPLAY, ABT_ERR.NOKEY, ABT_ERR.FORCED]
  | .abtCtr _ => [ABT_CTR.ALL]
  | .abtDrop => [ABT_DROP.CNT]
  | .rstCause => [RST_CAUSE.KIND, RST_CAUSE.RECOVERY_ACT, RST_CAUSE.PREV_FATAL, RST_CAUSE.COUNT]
  | .rstStat => [RST_STAT.MAST, RST_STAT.PORT]
  | .bootStat => [BOOT_STAT.PHASE, BOOT_STAT.SLOT, BOOT_STAT.TRAIN, BOOT_STAT.READY, BOOT_STAT.READY_MS]
  | .pwrCtrl => [PWR_CTRL.CAP]
  | .pwrStat => [PWR_STAT.FUSED, PWR_STAT.GEAR, PWR_STAT.MASTS, PWR_STAT.STOPPED]
  | .pwrInput => [PWR_INPUT.AVG_W, PWR_INPUT.INST_W, PWR_INPUT.VIN_MV, PWR_INPUT.IIN_DA]
  | .therm => [THERM.HOTTEST, THERM.SOURCE, THERM.TJ_TRIP]
  | .pwrErr => [PWR_ERR.THERMAL_TRIP, PWR_ERR.THERMAL_SHUTDOWN, PWR_ERR.CAP_MISS, PWR_ERR.VIN_RANGE, PWR_ERR.OVERLAY]
  | .pwrGearcnt => [PWR_GEARCNT.CNT]

/-- The word number of a register (0 for a register of one word). -/
def Reg.word : Reg → Nat
  | .cltCmd _ w => w
  | .ord _ w => w
  | .bkt _ w => w
  | .slSec _ w => w
  | .slot _ _ _ w => w
  | .fabEdge _ _ w => w
  | .coil _ _ w => w
  | .sbEntry _ _ w => w
  | .halRing _ _ w => w
  | .halSend _ _ w => w
  | .halNote _ w => w
  | .hbmKr _ w => w
  | .portIp6 _ _ w => w
  | .portTxts _ _ w => w
  | .cn _ w => w
  | .win _ w => w
  | .rem _ w => w
  | .ipt _ w => w
  | _ => 0

/-- The device-local address of a register (01_organization.md R37, 21_register_map.md R525 to R527). -/
def Reg.addr : Reg → Nat
  | .devIdent => 0xF0000000000
  | .devId => 0xF0000000008
  | .devSerial0 => 0xF0000000010
  | .devSerial1 => 0xF0000000018
  | .devVersion => 0xF0000000020
  | .devRepair => 0xF0000000028
  | .cltCmd k w => 0xF0000010000 + 0x20 * k + 0x8 * w
  | .cltDbgsel => 0xF0000010080
  | .cltDbg w => 0xF0000010088 + 0x8 * w
  | .cltStat => 0xF00000100C0
  | .cltErr => 0xF00000100C8
  | .cltStale => 0xF00000100D0
  | .shrGrp g => 0xF0000014000 + 0x8 * g
  | .shrStat g => 0xF0000014080 + 0x8 * g
  | .shrChild g c => 0xF0000014100 + 0x80 * g + 0x8 * c
  | .shrMast g m => 0xF0000014900 + 0x40 * g + 0x8 * m
  | .shrStale => 0xF0000014D00
  | .tbNow => 0xF0000020000
  | .tbFrac => 0xF0000020008
  | .tbRate => 0xF0000020010
  | .tbStep => 0xF0000020018
  | .tbPps => 0xF0000020020
  | .tbTickin => 0xF0000020028
  | .stkCtrl => 0xF0000020040
  | .stkT0 => 0xF0000020048
  | .stkPeriod => 0xF0000020050
  | .stkGuard => 0xF0000020058
  | .stkGrace => 0xF0000020060
  | .stkCable => 0xF0000020068
  | .stkNum => 0xF0000020070
  | .stkStat => 0xF0000020078
  | .stkCnt => 0xF0000020080
  | .stkOvr0 => 0xF0000020088
  | .stkOvr1 => 0xF0000020090
  | .stkErr => 0xF0000020098
  | .stkMast m => 0xF0000020100 + 0x8 * m
  | .redCtrl => 0xF0000030000
  | .redStat => 0xF0000030008
  | .redErr => 0xF0000030010
  | .redDrop => 0xF0000030018
  | .ord o w => 0xF0000031000 + 0x40 * o + 0x8 * w
  | .bkt t w => 0xF0000040000 + 0x40 * t + 0x8 * w
  | .cnWd => 0xF0000080000
  | .cnStat => 0xF0000080008
  | .mbxDrop => 0xF0000080010
  | .slStat => 0xF0000090000
  | .slErr => 0xF0000090008
  | .slSec i w => 0xF0000090040 + 0x10 * i + 0x8 * w
  | .fltStat => 0xF00000A0000
  | .fltLog => 0xF00000A0008
  | .fltLogsel => 0xF00000A0010
  | .fltLogdata w => 0xF00000A0018 + 0x8 * w
  | .fltFirst w => 0xF00000A0040 + 0x8 * w
  | .fltDumplen => 0xF00000A0060
  | .slot m n s w => 0xF0001040000 + 0x100000 * m + 0x400 * n + 0x80 * s + 0x8 * w
  | .sailStat m s => 0xF0001080000 + 0x100000 * m + 0x1000 * s
  | .sailBlocks m s => 0xF0001080008 + 0x100000 * m + 0x1000 * s
  | .sailSkips m s => 0xF0001080010 + 0x100000 * m + 0x1000 * s
  | .seqStat m => 0xF0001090000 + 0x100000 * m
  | .seqProg m => 0xF0001090008 + 0x100000 * m
  | .seqLast m => 0xF0001090010 + 0x100000 * m
  | .seqErr m => 0xF0001090018 + 0x100000 * m
  | .fabCtrl m => 0xF00010A0000 + 0x100000 * m
  | .fabStat m => 0xF00010A0008 + 0x100000 * m
  | .fabGen m => 0xF00010A0010 + 0x100000 * m
  | .fabWd m => 0xF00010A0018 + 0x100000 * m
  | .fabSnap m => 0xF00010A0020 + 0x100000 * m
  | .fabRepair m => 0xF00010A0028 + 0x100000 * m
  | .fabSpill m e => 0xF00010A0200 + 0x100000 * m + 0x8 * e
  | .fabEdge m p w => 0xF00010A0800 + 0x100000 * m + 0x10 * p + 0x8 * w
  | .shvFlags m n => 0xF00010A1000 + 0x100000 * m + 0x8 * n
  | .memStat m => 0xF00010B0000 + 0x100000 * m
  | .memCe m => 0xF00010B0008 + 0x100000 * m
  | .memUe m => 0xF00010B0010 + 0x100000 * m
  | .memUeAddr m => 0xF00010B0018 + 0x100000 * m
  | .memMerged m => 0xF00010B0020 + 0x100000 * m
  | .memSbStall m => 0xF00010B0028 + 0x100000 * m
  | .memScrub m => 0xF00010B0030 + 0x100000 * m
  | .coil m k w => 0xF00010B1000 + 0x100000 * m + 0x20 * k + 0x8 * w
  | .sbEntry m e w => 0xF00010B4000 + 0x100000 * m + 0x10 * e + 0x8 * w
  | .jibCtrl m j => 0xF00010C0000 + 0x100000 * m + 0x4000 * j
  | .jibStat m j => 0xF00010C0008 + 0x100000 * m + 0x4000 * j
  | .jibProg m j => 0xF00010C0010 + 0x100000 * m + 0x4000 * j
  | .jibRec m j => 0xF00010C0018 + 0x100000 * m + 0x4000 * j
  | .jibLast m j => 0xF00010C0020 + 0x100000 * m + 0x4000 * j
  | .jibErr m j => 0xF00010C0028 + 0x100000 * m + 0x4000 * j
  | .jibRsctr m j => 0xF00010C0030 + 0x100000 * m + 0x4000 * j
  | .tkProg m => 0xF00010D0000 + 0x100000 * m
  | .tkRec m => 0xF00010D0008 + 0x100000 * m
  | .tkStat m => 0xF00010D0010 + 0x100000 * m
  | .tkLast m => 0xF00010D0018 + 0x100000 * m
  | .tkErr m => 0xF00010D0020 + 0x100000 * m
  | .tkDropped m => 0xF00010D0028 + 0x100000 * m
  | .tkRsctr m => 0xF00010D0030 + 0x100000 * m
  | .halCfg o c => (if o = 8 then 0xF00050E0000 else 0xF00010E0000 + 0x100000 * o) + 0x8 * c
  | .halRing o c w => (if o = 8 then 0xF00050E0400 else 0xF00010E0400 + 0x100000 * o) + 0x10 * c + 0x8 * w
  | .halPtr o c => (if o = 8 then 0xF00050E0C00 else 0xF00010E0C00 + 0x100000 * o) + 0x8 * c
  | .halQstat o c => (if o = 8 then 0xF00050E1000 else 0xF00010E1000 + 0x100000 * o) + 0x8 * c
  | .halRel o c => (if o = 8 then 0xF00050E1400 else 0xF00010E1400 + 0x100000 * o) + 0x8 * c
  | .halSend o s w => (if o = 8 then 0xF00050E1800 else 0xF00010E1800 + 0x100000 * o) + 0x10 * s + 0x8 * w
  | .halSstat o s => (if o = 8 then 0xF00050E1C00 else 0xF00010E1C00 + 0x100000 * o) + 0x8 * s
  | .halTmo o => (if o = 8 then 0xF00050E2000 else 0xF00010E2000 + 0x100000 * o)
  | .halErr o => (if o = 8 then 0xF00050E2008 else 0xF00010E2008 + 0x100000 * o)
  | .halDrop o => (if o = 8 then 0xF00050E2010 else 0xF00010E2010 + 0x100000 * o)
  | .halNote c w => 0xF00050E3000 + 0x10 * c + 0x8 * w
  | .hbmStat h => 0xF0002000000 + 0x10000 * h
  | .hbmTemp h => 0xF0002000008 + 0x10000 * h
  | .hbmCe h => 0xF0002000010 + 0x10000 * h
  | .hbmUe h => 0xF0002000018 + 0x10000 * h
  | .hbmUeAddr h => 0xF0002000020 + 0x10000 * h
  | .hbmErr h => 0xF0002000028 + 0x10000 * h
  | .hbmScrub h => 0xF0002000030 + 0x10000 * h
  | .hbmLines h => 0xF0002000038 + 0x10000 * h
  | .hbmMap => 0xF0002000100
  | .hbmKr k w => 0xF0002008000 + 0x10 * k + 0x8 * w
  | .portCfg p => 0xF0003000000 + 0x10000 * p
  | .portStat p s => 0xF0003000040 + 0x10000 * p + 0x8 * s
  | .portFec p s => 0xF0003000080 + 0x10000 * p + 0x8 * s
  | .portMac p s => 0xF00030000C0 + 0x10000 * p + 0x8 * s
  | .portIp6 p s w => 0xF0003000100 + 0x10000 * p + 0x10 * s + 0x8 * w
  | .portIp4 p s => 0xF0003000140 + 0x10000 * p + 0x8 * s
  | .portDrop p s => 0xF0003000180 + 0x10000 * p + 0x8 * s
  | .portTxts p s w => 0xF0003000200 + 0x10000 * p + 0x10 * s + 0x8 * w
  | .flStep f => 0xF0004000000 + 0x10000 * f
  | .flRec f => 0xF0004000008 + 0x10000 * f
  | .flStat f => 0xF0004000010 + 0x10000 * f
  | .flErr f => 0xF0004000018 + 0x10000 * f
  | .scOp f => 0xF0004000020 + 0x10000 * f
  | .scRange f => 0xF0004000028 + 0x10000 * f
  | .scLen f => 0xF0004000030 + 0x10000 * f
  | .scHits f => 0xF0004000038 + 0x10000 * f
  | .scMisses f => 0xF0004000040 + 0x10000 * f
  | .scErr f => 0xF0004000048 + 0x10000 * f
  | .tpEncap => 0xF0005000000
  | .tpTimer => 0xF0005000008
  | .tpStat => 0xF0005000010
  | .tpErr => 0xF0005000018
  | .tpDrop => 0xF0005000020
  | .tpLost => 0xF0005000028
  | .cn c w => 0xF0005010000 + 0x40 * c + 0x8 * w
  | .win i w => 0xF0005080000 + 0x20 * i + 0x8 * w
  | .rem r w => 0xF0005090000 + 0x10 * r + 0x8 * w
  | .ipt i w => 0xF00050A0000 + 0x20 * i + 0x8 * w
  | .pxy i => 0xF00050C0000 + 0x8 * i
  | .secStat => 0xF0006000000
  | .secSlots => 0xF0006000008
  | .secErr => 0xF0006000010
  | .secReject => 0xF0006000018
  | .secOwner w => 0xF0006000040 + 0x8 * w
  | .abtCtrl => 0xF0007000000
  | .abtStat => 0xF0007000008
  | .abtLast => 0xF0007000010
  | .abtErr => 0xF0007000018
  | .abtCtr k => 0xF0007000020 + 0x8 * k
  | .abtDrop => 0xF0007000040
  | .rstCause => 0xF0007000100
  | .rstStat => 0xF0007000108
  | .bootStat => 0xF0007000110
  | .pwrCtrl => 0xF0008000000
  | .pwrStat => 0xF0008000008
  | .pwrInput => 0xF0008000010
  | .therm => 0xF0008000018
  | .pwrErr => 0xF0008000020
  | .pwrGearcnt => 0xF0008000028

/-- One row of the address decode: a base and up to four strides with their counts. -/
structure RegRow where
  base : Nat
  dims : List (Nat × Nat)
  build : List Nat → Reg

/-- The indices an offset spells over strides, outermost first; `none` where it names no register (R524). -/
def RegRow.split : List (Nat × Nat) → Nat → Option (List Nat)
  | [], o => if o = 0 then some [] else none
  | (st, n) :: ds, o =>
    let i := o / st
    if i < n then (RegRow.split ds (o % st)).map (fun l => i :: l) else none

/-- The register a row gives for an address. -/
def RegRow.find (r : RegRow) (a : Nat) : Option Reg :=
  if a < r.base then none else (RegRow.split r.dims (a - r.base)).map r.build

/-- Element `i` of an index list. -/
def ix (l : List Nat) (i : Nat) : Nat := l.getD i 0

/-- The rows of the device blocks of register space (21_register_map.md R525 to R527). -/
def regRowsDevice : List RegRow := [
  ⟨0xF0000000000, [], fun _ => .devIdent⟩,
  ⟨0xF0000000008, [], fun _ => .devId⟩,
  ⟨0xF0000000010, [], fun _ => .devSerial0⟩,
  ⟨0xF0000000018, [], fun _ => .devSerial1⟩,
  ⟨0xF0000000020, [], fun _ => .devVersion⟩,
  ⟨0xF0000000028, [], fun _ => .devRepair⟩,
  ⟨0xF0000010000, [(0x20, 4), (0x8, 4)], fun l => .cltCmd (ix l 0) (ix l 1)⟩,
  ⟨0xF0000010080, [], fun _ => .cltDbgsel⟩,
  ⟨0xF0000010088, [(0x8, 6)], fun l => .cltDbg (ix l 0)⟩,
  ⟨0xF00000100C0, [], fun _ => .cltStat⟩,
  ⟨0xF00000100C8, [], fun _ => .cltErr⟩,
  ⟨0xF00000100D0, [], fun _ => .cltStale⟩,
  ⟨0xF0000014000, [(0x8, 16)], fun l => .shrGrp (ix l 0)⟩,
  ⟨0xF0000014080, [(0x8, 16)], fun l => .shrStat (ix l 0)⟩,
  ⟨0xF0000014100, [(0x80, 16), (0x8, 15)], fun l => .shrChild (ix l 0) (ix l 1)⟩,
  ⟨0xF0000014900, [(0x40, 16), (0x8, 8)], fun l => .shrMast (ix l 0) (ix l 1)⟩,
  ⟨0xF0000014D00, [], fun _ => .shrStale⟩,
  ⟨0xF0000020000, [], fun _ => .tbNow⟩,
  ⟨0xF0000020008, [], fun _ => .tbFrac⟩,
  ⟨0xF0000020010, [], fun _ => .tbRate⟩,
  ⟨0xF0000020018, [], fun _ => .tbStep⟩,
  ⟨0xF0000020020, [], fun _ => .tbPps⟩,
  ⟨0xF0000020028, [], fun _ => .tbTickin⟩,
  ⟨0xF0000020040, [], fun _ => .stkCtrl⟩,
  ⟨0xF0000020048, [], fun _ => .stkT0⟩,
  ⟨0xF0000020050, [], fun _ => .stkPeriod⟩,
  ⟨0xF0000020058, [], fun _ => .stkGuard⟩,
  ⟨0xF0000020060, [], fun _ => .stkGrace⟩,
  ⟨0xF0000020068, [], fun _ => .stkCable⟩,
  ⟨0xF0000020070, [], fun _ => .stkNum⟩,
  ⟨0xF0000020078, [], fun _ => .stkStat⟩,
  ⟨0xF0000020080, [], fun _ => .stkCnt⟩,
  ⟨0xF0000020088, [], fun _ => .stkOvr0⟩,
  ⟨0xF0000020090, [], fun _ => .stkOvr1⟩,
  ⟨0xF0000020098, [], fun _ => .stkErr⟩,
  ⟨0xF0000020100, [(0x8, 8)], fun l => .stkMast (ix l 0)⟩,
  ⟨0xF0000030000, [], fun _ => .redCtrl⟩,
  ⟨0xF0000030008, [], fun _ => .redStat⟩,
  ⟨0xF0000030010, [], fun _ => .redErr⟩,
  ⟨0xF0000030018, [], fun _ => .redDrop⟩,
  ⟨0xF0000031000, [(0x40, 8), (0x8, 8)], fun l => .ord (ix l 0) (ix l 1)⟩,
  ⟨0xF0000040000, [(0x40, 4096), (0x8, 8)], fun l => .bkt (ix l 0) (ix l 1)⟩,
  ⟨0xF0000080000, [], fun _ => .cnWd⟩,
  ⟨0xF0000080008, [], fun _ => .cnStat⟩,
  ⟨0xF0000080010, [], fun _ => .mbxDrop⟩,
  ⟨0xF0000090000, [], fun _ => .slStat⟩,
  ⟨0xF0000090008, [], fun _ => .slErr⟩,
  ⟨0xF0000090040, [(0x10, 8), (0x8, 2)], fun l => .slSec (ix l 0) (ix l 1)⟩,
  ⟨0xF00000A0000, [], fun _ => .fltStat⟩,
  ⟨0xF00000A0008, [], fun _ => .fltLog⟩,
  ⟨0xF00000A0010, [], fun _ => .fltLogsel⟩,
  ⟨0xF00000A0018, [(0x8, 4)], fun l => .fltLogdata (ix l 0)⟩,
  ⟨0xF00000A0040, [(0x8, 4)], fun l => .fltFirst (ix l 0)⟩,
  ⟨0xF00000A0060, [], fun _ => .fltDumplen⟩]

/-- The rows of the mast blocks of register space (21_register_map.md R525 to R527). -/
def regRowsMast : List RegRow := [
  ⟨0xF0001040000, [(0x100000, 8), (0x400, 256), (0x80, 8), (0x8, 16)], fun l => .slot (ix l 0) (ix l 1) (ix l 2) (ix l 3)⟩,
  ⟨0xF0001080000, [(0x100000, 8), (0x1000, 16)], fun l => .sailStat (ix l 0) (ix l 1)⟩,
  ⟨0xF0001080008, [(0x100000, 8), (0x1000, 16)], fun l => .sailBlocks (ix l 0) (ix l 1)⟩,
  ⟨0xF0001080010, [(0x100000, 8), (0x1000, 16)], fun l => .sailSkips (ix l 0) (ix l 1)⟩,
  ⟨0xF0001090000, [(0x100000, 8)], fun l => .seqStat (ix l 0)⟩,
  ⟨0xF0001090008, [(0x100000, 8)], fun l => .seqProg (ix l 0)⟩,
  ⟨0xF0001090010, [(0x100000, 8)], fun l => .seqLast (ix l 0)⟩,
  ⟨0xF0001090018, [(0x100000, 8)], fun l => .seqErr (ix l 0)⟩,
  ⟨0xF00010A0000, [(0x100000, 8)], fun l => .fabCtrl (ix l 0)⟩,
  ⟨0xF00010A0008, [(0x100000, 8)], fun l => .fabStat (ix l 0)⟩,
  ⟨0xF00010A0010, [(0x100000, 8)], fun l => .fabGen (ix l 0)⟩,
  ⟨0xF00010A0018, [(0x100000, 8)], fun l => .fabWd (ix l 0)⟩,
  ⟨0xF00010A0020, [(0x100000, 8)], fun l => .fabSnap (ix l 0)⟩,
  ⟨0xF00010A0028, [(0x100000, 8)], fun l => .fabRepair (ix l 0)⟩,
  ⟨0xF00010A0200, [(0x100000, 8), (0x8, 64)], fun l => .fabSpill (ix l 0) (ix l 1)⟩,
  ⟨0xF00010A0800, [(0x100000, 8), (0x10, 64), (0x8, 2)], fun l => .fabEdge (ix l 0) (ix l 1) (ix l 2)⟩,
  ⟨0xF00010A1000, [(0x100000, 8), (0x8, 256)], fun l => .shvFlags (ix l 0) (ix l 1)⟩,
  ⟨0xF00010B0000, [(0x100000, 8)], fun l => .memStat (ix l 0)⟩,
  ⟨0xF00010B0008, [(0x100000, 8)], fun l => .memCe (ix l 0)⟩,
  ⟨0xF00010B0010, [(0x100000, 8)], fun l => .memUe (ix l 0)⟩,
  ⟨0xF00010B0018, [(0x100000, 8)], fun l => .memUeAddr (ix l 0)⟩,
  ⟨0xF00010B0020, [(0x100000, 8)], fun l => .memMerged (ix l 0)⟩,
  ⟨0xF00010B0028, [(0x100000, 8)], fun l => .memSbStall (ix l 0)⟩,
  ⟨0xF00010B0030, [(0x100000, 8)], fun l => .memScrub (ix l 0)⟩,
  ⟨0xF00010B1000, [(0x100000, 8), (0x20, 256), (0x8, 4)], fun l => .coil (ix l 0) (ix l 1) (ix l 2)⟩,
  ⟨0xF00010B4000, [(0x100000, 8), (0x10, 64), (0x8, 2)], fun l => .sbEntry (ix l 0) (ix l 1) (ix l 2)⟩,
  ⟨0xF00010C0000, [(0x100000, 8), (0x4000, 4)], fun l => .jibCtrl (ix l 0) (ix l 1)⟩,
  ⟨0xF00010C0008, [(0x100000, 8), (0x4000, 4)], fun l => .jibStat (ix l 0) (ix l 1)⟩,
  ⟨0xF00010C0010, [(0x100000, 8), (0x4000, 4)], fun l => .jibProg (ix l 0) (ix l 1)⟩,
  ⟨0xF00010C0018, [(0x100000, 8), (0x4000, 4)], fun l => .jibRec (ix l 0) (ix l 1)⟩,
  ⟨0xF00010C0020, [(0x100000, 8), (0x4000, 4)], fun l => .jibLast (ix l 0) (ix l 1)⟩,
  ⟨0xF00010C0028, [(0x100000, 8), (0x4000, 4)], fun l => .jibErr (ix l 0) (ix l 1)⟩,
  ⟨0xF00010C0030, [(0x100000, 8), (0x4000, 4)], fun l => .jibRsctr (ix l 0) (ix l 1)⟩,
  ⟨0xF00010D0000, [(0x100000, 8)], fun l => .tkProg (ix l 0)⟩,
  ⟨0xF00010D0008, [(0x100000, 8)], fun l => .tkRec (ix l 0)⟩,
  ⟨0xF00010D0010, [(0x100000, 8)], fun l => .tkStat (ix l 0)⟩,
  ⟨0xF00010D0018, [(0x100000, 8)], fun l => .tkLast (ix l 0)⟩,
  ⟨0xF00010D0020, [(0x100000, 8)], fun l => .tkErr (ix l 0)⟩,
  ⟨0xF00010D0028, [(0x100000, 8)], fun l => .tkDropped (ix l 0)⟩,
  ⟨0xF00010D0030, [(0x100000, 8)], fun l => .tkRsctr (ix l 0)⟩,
  ⟨0xF00010E0000, [(0x100000, 8), (0x8, 128)], fun l => .halCfg (ix l 0) (ix l 1)⟩,
  ⟨0xF00010E0400, [(0x100000, 8), (0x10, 128), (0x8, 2)], fun l => .halRing (ix l 0) (ix l 1) (ix l 2)⟩,
  ⟨0xF00010E0C00, [(0x100000, 8), (0x8, 128)], fun l => .halPtr (ix l 0) (ix l 1)⟩,
  ⟨0xF00010E1000, [(0x100000, 8), (0x8, 128)], fun l => .halQstat (ix l 0) (ix l 1)⟩,
  ⟨0xF00010E1400, [(0x100000, 8), (0x8, 128)], fun l => .halRel (ix l 0) (ix l 1)⟩,
  ⟨0xF00010E1800, [(0x100000, 8), (0x10, 64), (0x8, 2)], fun l => .halSend (ix l 0) (ix l 1) (ix l 2)⟩,
  ⟨0xF00010E1C00, [(0x100000, 8), (0x8, 64)], fun l => .halSstat (ix l 0) (ix l 1)⟩,
  ⟨0xF00010E2000, [(0x100000, 8)], fun l => .halTmo (ix l 0)⟩,
  ⟨0xF00010E2008, [(0x100000, 8)], fun l => .halErr (ix l 0)⟩,
  ⟨0xF00010E2010, [(0x100000, 8)], fun l => .halDrop (ix l 0)⟩]

/-- The rows of the transport, HBM, port, fairlead, security, abort and power blocks of register space (21_register_map.md R525 to R527). -/
def regRowsRest : List RegRow := [
  ⟨0xF00050E3000, [(0x10, 128), (0x8, 2)], fun l => .halNote (ix l 0) (ix l 1)⟩,
  ⟨0xF0002000000, [(0x10000, 16)], fun l => .hbmStat (ix l 0)⟩,
  ⟨0xF0002000008, [(0x10000, 16)], fun l => .hbmTemp (ix l 0)⟩,
  ⟨0xF0002000010, [(0x10000, 16)], fun l => .hbmCe (ix l 0)⟩,
  ⟨0xF0002000018, [(0x10000, 16)], fun l => .hbmUe (ix l 0)⟩,
  ⟨0xF0002000020, [(0x10000, 16)], fun l => .hbmUeAddr (ix l 0)⟩,
  ⟨0xF0002000028, [(0x10000, 16)], fun l => .hbmErr (ix l 0)⟩,
  ⟨0xF0002000030, [(0x10000, 16)], fun l => .hbmScrub (ix l 0)⟩,
  ⟨0xF0002000038, [(0x10000, 16)], fun l => .hbmLines (ix l 0)⟩,
  ⟨0xF0002000100, [], fun _ => .hbmMap⟩,
  ⟨0xF0002008000, [(0x10, 64), (0x8, 2)], fun l => .hbmKr (ix l 0) (ix l 1)⟩,
  ⟨0xF0003000000, [(0x10000, 18)], fun l => .portCfg (ix l 0)⟩,
  ⟨0xF0003000040, [(0x10000, 18), (0x8, 4)], fun l => .portStat (ix l 0) (ix l 1)⟩,
  ⟨0xF0003000080, [(0x10000, 18), (0x8, 4)], fun l => .portFec (ix l 0) (ix l 1)⟩,
  ⟨0xF00030000C0, [(0x10000, 18), (0x8, 4)], fun l => .portMac (ix l 0) (ix l 1)⟩,
  ⟨0xF0003000100, [(0x10000, 18), (0x10, 4), (0x8, 2)], fun l => .portIp6 (ix l 0) (ix l 1) (ix l 2)⟩,
  ⟨0xF0003000140, [(0x10000, 18), (0x8, 4)], fun l => .portIp4 (ix l 0) (ix l 1)⟩,
  ⟨0xF0003000180, [(0x10000, 18), (0x8, 4)], fun l => .portDrop (ix l 0) (ix l 1)⟩,
  ⟨0xF0003000200, [(0x10000, 18), (0x10, 4), (0x8, 2)], fun l => .portTxts (ix l 0) (ix l 1) (ix l 2)⟩,
  ⟨0xF0004000000, [(0x10000, 16)], fun l => .flStep (ix l 0)⟩,
  ⟨0xF0004000008, [(0x10000, 16)], fun l => .flRec (ix l 0)⟩,
  ⟨0xF0004000010, [(0x10000, 16)], fun l => .flStat (ix l 0)⟩,
  ⟨0xF0004000018, [(0x10000, 16)], fun l => .flErr (ix l 0)⟩,
  ⟨0xF0004000020, [(0x10000, 16)], fun l => .scOp (ix l 0)⟩,
  ⟨0xF0004000028, [(0x10000, 16)], fun l => .scRange (ix l 0)⟩,
  ⟨0xF0004000030, [(0x10000, 16)], fun l => .scLen (ix l 0)⟩,
  ⟨0xF0004000038, [(0x10000, 16)], fun l => .scHits (ix l 0)⟩,
  ⟨0xF0004000040, [(0x10000, 16)], fun l => .scMisses (ix l 0)⟩,
  ⟨0xF0004000048, [(0x10000, 16)], fun l => .scErr (ix l 0)⟩,
  ⟨0xF0005000000, [], fun _ => .tpEncap⟩,
  ⟨0xF0005000008, [], fun _ => .tpTimer⟩,
  ⟨0xF0005000010, [], fun _ => .tpStat⟩,
  ⟨0xF0005000018, [], fun _ => .tpErr⟩,
  ⟨0xF0005000020, [], fun _ => .tpDrop⟩,
  ⟨0xF0005000028, [], fun _ => .tpLost⟩,
  ⟨0xF0005010000, [(0x40, 4096), (0x8, 8)], fun l => .cn (ix l 0) (ix l 1)⟩,
  ⟨0xF0005080000, [(0x20, 1024), (0x8, 4)], fun l => .win (ix l 0) (ix l 1)⟩,
  ⟨0xF0005090000, [(0x10, 1024), (0x8, 2)], fun l => .rem (ix l 0) (ix l 1)⟩,
  ⟨0xF00050A0000, [(0x20, 256), (0x8, 4)], fun l => .ipt (ix l 0) (ix l 1)⟩,
  ⟨0xF00050C0000, [(0x8, 1024)], fun l => .pxy (ix l 0)⟩,
  ⟨0xF0006000000, [], fun _ => .secStat⟩,
  ⟨0xF0006000008, [], fun _ => .secSlots⟩,
  ⟨0xF0006000010, [], fun _ => .secErr⟩,
  ⟨0xF0006000018, [], fun _ => .secReject⟩,
  ⟨0xF0006000040, [(0x8, 8)], fun l => .secOwner (ix l 0)⟩,
  ⟨0xF0007000000, [], fun _ => .abtCtrl⟩,
  ⟨0xF0007000008, [], fun _ => .abtStat⟩,
  ⟨0xF0007000010, [], fun _ => .abtLast⟩,
  ⟨0xF0007000018, [], fun _ => .abtErr⟩,
  ⟨0xF0007000020, [(0x8, 4)], fun l => .abtCtr (ix l 0)⟩,
  ⟨0xF0007000040, [], fun _ => .abtDrop⟩,
  ⟨0xF0007000100, [], fun _ => .rstCause⟩,
  ⟨0xF0007000108, [], fun _ => .rstStat⟩,
  ⟨0xF0007000110, [], fun _ => .bootStat⟩,
  ⟨0xF0008000000, [], fun _ => .pwrCtrl⟩,
  ⟨0xF0008000008, [], fun _ => .pwrStat⟩,
  ⟨0xF0008000010, [], fun _ => .pwrInput⟩,
  ⟨0xF0008000018, [], fun _ => .therm⟩,
  ⟨0xF0008000020, [], fun _ => .pwrErr⟩,
  ⟨0xF0008000028, [], fun _ => .pwrGearcnt⟩,
  ⟨0xF00050E0000, [(0x8, 128)], fun l => .halCfg 8 (ix l 0)⟩,
  ⟨0xF00050E0400, [(0x10, 128), (0x8, 2)], fun l => .halRing 8 (ix l 0) (ix l 1)⟩,
  ⟨0xF00050E0C00, [(0x8, 128)], fun l => .halPtr 8 (ix l 0)⟩,
  ⟨0xF00050E1000, [(0x8, 128)], fun l => .halQstat 8 (ix l 0)⟩,
  ⟨0xF00050E1400, [(0x8, 128)], fun l => .halRel 8 (ix l 0)⟩,
  ⟨0xF00050E1800, [(0x10, 64), (0x8, 2)], fun l => .halSend 8 (ix l 0) (ix l 1)⟩,
  ⟨0xF00050E1C00, [(0x8, 64)], fun l => .halSstat 8 (ix l 0)⟩,
  ⟨0xF00050E2000, [], fun _ => .halTmo 8⟩,
  ⟨0xF00050E2008, [], fun _ => .halErr 8⟩,
  ⟨0xF00050E2010, [], fun _ => .halDrop 8⟩]

/-- The register at a device-local address, or `none` where the address names none (21_register_map.md R524). -/
def Reg.ofAddr (a : Nat) : Option Reg :=
  if a < 0x0F0001000000 then regRowsDevice.findSome? (fun r => r.find a)
  else if a < 0x0F0002000000 then regRowsMast.findSome? (fun r => r.find a)
  else regRowsRest.findSome? (fun r => r.find a)

end Sys2Proof.Machine
end

