-- ==== Sys2Proof/Machine/Table.lean ====
section
/-! DEFINITION. Small shared data operations: bit fields, byte strings, sparse tables and memory as a canonical
list of cells. -/

namespace Sys2Proof.Machine

/-- Bits `hi` to `lo` of a number (00_scope.md, "Name[msb:lsb]"). -/
def fld (v hi lo : Nat) : Nat := v / 2 ^ lo % 2 ^ (hi + 1 - lo)

/-- Bit `i` of a number. -/
def bitN (v i : Nat) : Bool := v / 2 ^ i % 2 == 1

/-- `v` with bits `hi` to `lo` replaced by `x`. -/
def setBits (v hi lo x : Nat) : Nat :=
  v - fld v hi lo * 2 ^ lo + x % 2 ^ (hi + 1 - lo) * 2 ^ lo

/-- The two's complement reading of the low `n` bits of `v`. -/
def sext (n v : Nat) : Int :=
  let x := v % 2 ^ n
  if x < 2 ^ (n - 1) then Int.ofNat x else Int.ofNat x - Int.ofNat (2 ^ n)

/-- The low `n` bits of an integer in two's complement. -/
def wrapI (n : Nat) (x : Int) : Nat := (x % Int.ofNat (2 ^ n)).toNat

/-- `n` bytes of a number, least significant first (00_scope.md R9). -/
def leBytes : Nat → Nat → List Byte
  | 0, _ => []
  | n + 1, v => BitVec.ofNat 8 v :: leBytes n (v / 256)

/-- The number a little-endian byte string spells. -/
def leNat : List Byte → Nat
  | [] => 0
  | b :: l => b.toNat + 256 * leNat l

/-- `n` bytes of a number, most significant first. -/
def beBytes (n v : Nat) : List Byte := (leBytes n v).reverse

/-- The number a big-endian byte string spells. -/
def beNat (l : List Byte) : Nat := leNat l.reverse

/-- Bytes `o` to `o + n - 1` of a byte string as a little-endian number (0 beyond its end). -/
def leAt (l : List Byte) (o n : Nat) : Nat := leNat ((l.drop o).take n)

/-- A byte string of zeros. -/
def zeros (n : Nat) : List Byte := List.replicate n 0

/-- `l` with the bytes from `o` on replaced by `b`. -/
def putAt (l : List Byte) (o : Nat) (b : List Byte) : List Byte :=
  l.take o ++ b ++ l.drop (o + b.length)

/-- A byte string cut or padded with zeros to `n` bytes. -/
def fit (n : Nat) (l : List Byte) : List Byte := l.take n ++ zeros (n - l.length)

/-- A byte string cut into 64-bit words. -/
def toWords (l : List Byte) : List Nat :=
  (List.range (l.length / 8)).map (fun i => leAt l (8 * i) 8)

/-- The bytes of a list of 64-bit words. -/
def wordBytes (l : List Nat) : List Byte := l.flatMap (leBytes 8)

/-- Words with one bit, the mask of the indices below `n` where `p` holds. -/
def maskOf (n : Nat) (p : Nat → Bool) : Nat :=
  (List.range n).foldl (fun a i => if p i then a + 2 ^ i else a) 0

/-- Saturating increment of a counter of `n` bits. -/
def satAdd (n v d : Nat) : Nat := min (v + d) (2 ^ n - 1)

/-- Wrapping increment of a counter of `n` bits. -/
def wrapAdd (n v d : Nat) : Nat := (v + d) % 2 ^ n

/-- The bytes of an ASCII string. -/
def ascii (s : String) : List Byte := s.toList.map (fun c => BitVec.ofNat 8 c.toNat)

/-- The group order of P-521. -/
def p521Order : Nat :=
  0x1FFFFFFFFFFFFFFFFFFFFFFFFFFFFFFFFFFFFFFFFFFFFFFFFFFFFFFFFFFFFFFFFFFFA51868783BF2F966B7FCC0148F709A5D03BB5C9B8899C47AEBB6FB71E91386409

/-- The P-521 private key of 80 derived bytes, 66 B big-endian: their number mod (n − 1) + 1 (17_security.md R446). -/
def p521Key (d : List Byte) : List Byte := beBytes 66 (beNat d % (p521Order - 1) + 1)

/-! ### Sparse tables: an unlisted key holds the default -/

/-- A sparse table. No entry is removed, so a key once written stays listed. -/
abbrev Tbl (κ α : Type) := List (κ × α)

/-- The value listed for a key, or the default. -/
def Tbl.get {κ α : Type} [DecidableEq κ] (d : α) : List (κ × α) → κ → α
  | [], _ => d
  | (k, v) :: t, x => if k = x then v else Tbl.get d t x

/-- Write a key. -/
def Tbl.set {κ α : Type} [DecidableEq κ] : List (κ × α) → κ → α → List (κ × α)
  | [], x, v => [(x, v)]
  | (k, w) :: t, x, v => if k = x then (k, v) :: t else (k, w) :: Tbl.set t x v

/-- Remove every entry whose key satisfies `p`, so that those keys hold the default again. -/
def Tbl.clear {κ α : Type} (t : List (κ × α)) (p : κ → Bool) : List (κ × α) :=
  t.filter (fun e => !p e.1)

/-! ### Memory: address and byte pairs, addresses strictly rising, no byte equal to 0 -/

/-- The byte at an address; an unlisted address reads 0 (log entry 3). -/
def memGet : List Host.Cell → Nat → Byte
  | [], _ => 0
  | (k, b) :: t, a => if k = a then b else memGet t a

/-- Write one byte, keeping the canonical form. -/
def memPut : List Host.Cell → Nat → Byte → List Host.Cell
  | [], a, b => if b = 0 then [] else [(a, b)]
  | (k, c) :: t, a, b =>
    if a < k then (if b = 0 then (k, c) :: t else (a, b) :: (k, c) :: t)
    else if a = k then (if b = 0 then t else (a, b) :: t)
    else (k, c) :: memPut t a b

/-- Write consecutive bytes. -/
def memPuts : List Host.Cell → Nat → List Byte → List Host.Cell
  | m, _, [] => m
  | m, a, b :: l => memPuts (memPut m a b) (a + 1) l

/-- Read consecutive bytes. -/
def memGets (m : List Host.Cell) : Nat → Nat → List Byte
  | _, 0 => []
  | a, n + 1 => memGet m a :: memGets m (a + 1) n

/-- Clear every byte whose address satisfies `p`. -/
def memClear (m : List Host.Cell) (p : Nat → Bool) : List Host.Cell := m.filter (fun c => !p c.1)

/-- Every address of the list is above `a`. -/
def memAbove (a : Nat) : List Host.Cell → Bool
  | [] => true
  | (k, _) :: _ => decide (a < k)

/-- The canonical form of memory: addresses strictly rising, no listed byte 0. -/
def Memory.wf : List Host.Cell → Bool
  | [] => true
  | (k, b) :: t => decide (b ≠ 0) && memAbove k t && Memory.wf t

/-- A finite set of numbers as a strictly rising list. -/
def setIns : List Nat → Nat → List Nat
  | [], a => [a]
  | k :: t, a => if a < k then a :: k :: t else if a = k then k :: t else k :: setIns t a

/-- Remove a number from a set. -/
def setDel (l : List Nat) (a : Nat) : List Nat := l.filter (· ≠ a)

/-- Update the first element that satisfies `p`. -/
def updFirst {α : Type} (p : α → Bool) (f : α → α) : List α → List α
  | [] => []
  | a :: l => if p a then f a :: l else a :: updFirst p f l

/-- Remove the first element that satisfies `p`. -/
def delFirst {α : Type} (p : α → Bool) : List α → List α
  | [] => []
  | a :: l => if p a then l else a :: delFirst p l

end Sys2Proof.Machine
end

