-- ==== Sys2Proof/Machine/Status.lean ====
section
/-! DEFINITION. The codes of the status codes and the unit IDs. -/

namespace Sys2Proof

/-- The code of a status (19_faults_and_dump.md R480). -/
def Status.code : Status → Nat
  | .done => 0x00 | .timeout => 0x01 | .full => 0x02 | .abandoned => 0x03 | .staleEpoch => 0x04
  | .windowClosed => 0x05 | .shapeOverflow => 0x06 | .outOfBounds => 0x07 | .poisoned => 0x08
  | .peerLost => 0x09 | .checksumMismatch => 0x0A | .aborted => 0x0B | .denied => 0x0C
  | .badDescriptor => 0x0D | .tickOverrun => 0x0E | .scaleRange => 0x0F | .fabricStall => 0x10
  | .uncorrectable => 0x11 | .busy => 0x12 | .unsupported => 0x13

/-- The status a carried code names; a reserved code is taken as BAD_DESCRIPTOR (19_faults_and_dump.md R481). -/
def Status.ofCode : Nat → Status
  | 0x00 => .done | 0x01 => .timeout | 0x02 => .full | 0x03 => .abandoned | 0x04 => .staleEpoch
  | 0x05 => .windowClosed | 0x06 => .shapeOverflow | 0x07 => .outOfBounds | 0x08 => .poisoned
  | 0x09 => .peerLost | 0x0A => .checksumMismatch | 0x0B => .aborted | 0x0C => .denied
  | 0x0D => .badDescriptor | 0x0E => .tickOverrun | 0x0F => .scaleRange | 0x10 => .fabricStall
  | 0x11 => .uncorrectable | 0x12 => .busy | 0x13 => .unsupported | _ => .badDescriptor

/-- The first of two statuses that is not DONE, else DONE. -/
def Status.or (a b : Status) : Status := if a = .done then b else a

namespace Machine

/-- A unit ID: Class[15:12], Index[11:0] (01_organization.md R34). -/
def unitId (cls idx : Nat) : Nat := cls * 4096 + idx

/-- Unit IDs of the engines, by index (01_organization.md R34). -/
def uSheave (i : Nat) : Nat := unitId 0 i
/-- The tile sequencer of a mast has no class of its own; it issues as the mast's first sail
(DEDUCED, log entry 5). -/
def uSeq (m : Nat) : Nat := unitId 1 (16 * m)
/-- Jib `j`. -/
def uJib (j : Nat) : Nat := unitId 2 j
/-- Tackle `m`. -/
def uTackle (m : Nat) : Nat := unitId 3 m
/-- Fairlead `f`. -/
def uFairlead (f : Nat) : Nat := unitId 4 f
/-- Halyard endpoint: channel `c` (0 to 127) of owner `o` (8: device level). -/
def uHal (o c : Nat) : Nat := unitId 5 (128 * o + c)
/-- HBM accumulator `h`. -/
def uHbmAcc (h : Nat) : Nat := unitId 6 h
/-- Activation-memory accumulator of bank group `g` of mast `m`. -/
def uActAcc (m g : Nat) : Nat := unitId 7 (8 * m + g)
/-- Port `p`. -/
def uPort (p : Nat) : Nat := unitId 8 p
/-- Crowsnest core `k`. -/
def uCn (k : Nat) : Nat := unitId 9 k
/-- The abort controller. -/
def uAbort : Nat := unitId 10 0
/-- The section loader. -/
def uLoader : Nat := unitId 11 0
/-- Edge port `p` of mast `m`. -/
def uEdge (m p : Nat) : Nat := unitId 12 (64 * m + p)
/-- The coil unit of mast `m`. -/
def uCoil (m : Nat) : Nat := unitId 12 (512 + m)
/-- The shroud logic of mast `m`. -/
def uShroud (m : Nat) : Nat := unitId 12 (520 + m)
/-- The shroud device stage. -/
def uShroudDev : Nat := unitId 12 528
/-- The reduction controller of buckets and ordered channels. -/
def uRed : Nat := unitId 12 529

/-- How many indices a unit class has (01_organization.md R34); classes 13 to 15 have none. -/
def classSize : Nat → Nat
  | 0 => 2048 | 1 => 128 | 2 => 32 | 3 => 8 | 4 => 16 | 5 => 1152 | 6 => 16 | 7 => 64 | 8 => 18
  | 9 => 4 | 10 => 1 | 11 => 1 | 12 => 530 | _ => 0

/-- The unit ID names a unit (01_organization.md R34). -/
def unitValid (u : Nat) : Bool := decide (u % 4096 < classSize (u / 4096 % 16))

/-- A unit ID an operation may address: valid and not of class 12 (01_organization.md R34). -/
def unitTarget (u : Nat) : Bool := unitValid u && (u / 4096 % 16 != 12)

/-- The mast of a unit, where the unit belongs to one (01_organization.md R33, R34). -/
def unitMast (u : Nat) : Option Nat :=
  let i := u % 4096
  match u / 4096 % 16 with
  | 0 => some (i / 256)
  | 1 => some (i / 16)
  | 2 => some (i / 4)
  | 3 => some i
  | 5 => if i < 1024 then some (i / 128) else none
  | 7 => some (i / 8)
  | 12 => if i < 512 then some (i / 64) else if i < 520 then some (i - 512)
          else if i < 528 then some (i - 520) else none
  | _ => none

end Machine
end Sys2Proof
end

