-- ==== Sys2Proof/Machine/State.lean ====
section
/-! DEFINITION. The state of the device as plain data, and the state right after a cold reset. Register fields stand
in one sparse table of register words; every other piece of state has a structure of its own, grouped by chapter. -/

namespace Sys2Proof.Machine

/-! ### Cleats, waits, shroud tree, tick (11_cleats_and_step_tick.md) -/

/-- The State field of a cleat (R294, R303). -/
inductive CleatSt where
  | free | active | poisoned | abandoned
  deriving DecidableEq, Repr

/-- A cleat with the part of its dump record the cleat unit keeps (R294, R305). -/
structure Cleat where
  value : Nat := 0
  st : CleatSt := .free
  sat : Bool := false
  floor : Bool := false
  prop : Bool := false
  owner : Nat := 0xFF
  epoch : Nat := 0
  err : Status := .done
  peer : Option Nat := none
  lastSig : Nat := 0
  lastTick : Nat := 0
  waiterIds : Nat := 0
  deriving DecidableEq, Repr

/-- What runs at an engine, a fairlead slot or a send slot: the holder of an engine wait (R301). -/
inductive EngKey where
  | seq (m : Nat)
  | jib (j : Nat)
  | tackle (m : Nat)
  | desc (f slot : Nat)
  | send (o slot : Nat)
  | bucket (t : Nat)
  | ordered (o : Nat)
  deriving DecidableEq, Repr

/-- Who holds a pending wait. -/
inductive Waiter where
  /-- an engine's own wait: it ends in a grant -/
  | eng (k : EngKey)
  /-- crowsnest core `k` through CLT_CMD[k] -/
  | cmd (k : Nat)
  /-- another device through a CLEAT_OP request on connection `cn`, operation number `op` -/
  | remote (cn op : Nat)
  /-- any other issuer: the result goes to its result slot -/
  | plain
  deriving DecidableEq, Repr

/-- A pending wait of a segment (R298, R301); the list of waits is in order of arrival. -/
structure Wait where
  cleat : Nat
  n : Nat
  consume : Bool
  /-- global unit ID of the issuer -/
  unit : Nat
  /-- the time it was issued, ns -/
  start : Nat
  /-- the timeout in µs; 0: none -/
  tmo : Nat
  who : Waiter
  /-- it waits at the input of a full segment -/
  held : Bool := false
  deriving DecidableEq, Repr

/-- The end of an engine wait, kept until the engine's operation is issued again: the status the engine completes
with under R302, or DONE where it performs its operation. -/
structure Grant where
  key : EngKey
  st : Status
  /-- the wait was satisfied; else it ended otherwise (R301) -/
  met : Bool := true
  deriving DecidableEq, Repr

/-- The 16 B result of a cleat operation (R297). -/
structure CltResult where
  value : Nat := 0
  st : Status := .done
  err : Status := .done
  state : Nat := 0
  epoch : Nat := 0
  tick : Nat := 0
  deriving DecidableEq, Repr

/-- A cleat operation (R295, R297). -/
structure CltReq where
  op : Nat
  index : Nat
  operand : Nat := 0
  consume : Bool := false
  chk : Bool := false
  epoch : Nat := 0
  renew : Bool := false
  st : Status := .done
  tmo : Nat := 0
  deriving DecidableEq, Repr

/-- A release that waits for acknowledgements of writes its issuer sent to other devices before it: remote operations with
numbers below `upto` (R192, R194, R299). -/
structure HeldOp where
  req : CltReq
  unit : Nat
  who : Waiter
  quiet : Bool
  upto : Nat
  deriving DecidableEq, Repr

/-- The cleat units. -/
structure CleatUnit where
  /-- cleats by index 0 to 49,151 -/
  tab : List (Nat × Cleat) := []
  waits : List Wait := []
  grants : List Grant := []
  /-- releases that are not performed yet, oldest first -/
  held : List HeldOp := []
  /-- last result returned to each global unit ID that is no engine -/
  results : List (Nat × CltResult) := []
  deriving DecidableEq, Repr

/-- A shroud group's local arrivals (R307): masts of the group that have arrived, and the first failing status. -/
structure ShrGroup where
  localArr : Nat := 0
  st : Status := .done
  /-- ARRIVE has been sent to the parent in this round -/
  sent : Bool := false
  /-- children that are lost: mask of slots (R309) -/
  lostKids : Nat := 0
  parentLost : Bool := false
  deriving DecidableEq, Repr

/-- A step that has started and is not done (R316 to R319). -/
structure OpenStep where
  /-- the tick number before wrapping -/
  k : Nat
  /-- reporters that have not reported for it -/
  missing : List Nat
  /-- fairleads that left it without a report: a malformed entry stopped them, or their step list ran out (R208) -/
  gone : List Nat := []
  /-- an overrun was raised with this cause of R321 -/
  ovr : Option Nat := none
  /-- the missing units' output is marked (R318) -/
  mark : Bool := false
  /-- its deadline has been examined -/
  checked : Bool := false
  /-- operations completed with POISONED or TICK_OVERRUN (R485) -/
  bad : Nat := 0
  /-- issue time of the last report so far, and its unit -/
  last : Nat := 0
  lastUnit : Nat := 0
  deriving DecidableEq, Repr

/-- The steps of a section. -/
structure StepSt where
  /-- the tick number (before wrapping) of the step started last -/
  k : Nat := 0
  /-- steps not done, oldest first -/
  opens : List OpenStep := []
  /-- the next device edge whose section edge is to be delivered or skipped -/
  nextEdge : Nat := 0
  deriving DecidableEq, Repr

/-- Time base, tick logic (R311 to R321). -/
structure TickSt where
  /-- time base in units of 2^-32 / 5 ns -/
  tb : Nat := 0
  /-- slew of the follower still to be applied, same units (R312) -/
  slew : Int := 0
  /-- the next device edge -/
  nextK : Nat := 0
  /-- policy in force since the last device edge (R324) -/
  policy : Bool := false
  /-- ns at which TICK_OUT last rose; none: low -/
  tickOut : Option Nat := none
  /-- the reference period in which the last gear opportunity fell: a device edge, or while RUN is 0 a whole millisecond of
  the time base (R474) -/
  opp : Option Nat := none
  lockGood : Nat := 0
  lockBad : Nat := 0
  lockMissed : Nat := 0
  /-- next edge index at which a TICK_IN pulse is expected -/
  expectK : Nat := 0
  /-- end-of-step reports on their way: unit and issue time (R316) -/
  reports : List (Nat × Nat) := []
  /-- steps by section ID -/
  steps : List (Nat × StepSt) := []
  deriving DecidableEq, Repr

/-! ### On-chip memories (06_onchip_memory.md) -/

/-- A tracked write at a mast's front-end (R190). -/
structure TrackedWrite where
  mast : Nat
  addr : Nat
  data : List Byte
  /-- the poison units it meets whose data is poisoned, by their bases -/
  bad : List Nat
  unit : Nat
  dev : Nat
  /-- it waits for one of the 64 entries -/
  waiting : Bool
  /-- its writer waits for the report of its acceptance (R175) -/
  report : Bool := false
  deriving DecidableEq, Repr

/-- A read request: mode 0 linear (`e` bytes), 1 strided (`n` elements of `e` bytes at `stride`), 2 transposed (row
pitch `stride`) (R180). -/
structure MemRead where
  unit : Nat
  mode : Nat
  addr : Nat
  e : Nat
  n : Nat := 1
  stride : Int := 0
  /-- a flit of it crossed the mesh with an uncorrectable error (R28) -/
  bad : Bool := false
  /-- what the check bits of its lines say when the banks read them: line, 1 a correctable error, 2 an uncorrectable one -/
  errs : List (Nat × Nat) := []
  deriving DecidableEq, Repr

/-- What a read returned to its requester. -/
structure ReadResult where
  st : Status := .done
  data : List Byte := []
  /-- some line it touched is poisoned -/
  poison : Bool := false
  /-- the poison bit of each line it touched -/
  lines : List Bool := []
  deriving DecidableEq, Repr

/-- A coil's records in flight (R184). -/
structure CoilSt where
  /-- records written and not yet committed -/
  written : List Nat := []
  /-- records read and not yet released -/
  read : List Nat := []
  /-- reservations that wait while the coil is full, in requester order: unit IDs -/
  resWait : List Nat := []
  /-- claims that wait while the coil is empty -/
  clmWait : List Nat := []
  /-- the unit that holds a reserved record, and a claimed one -/
  resBy : List (Nat × Nat) := []
  clmBy : List (Nat × Nat) := []
  deriving DecidableEq, Repr

/-- A merge window (R179): the line last read of a bank, named by the first line of its bank, and the reference period of
that access. -/
structure MergeWin where
  bank : Nat
  line : Nat
  start : Nat
  deriving DecidableEq, Repr

/-- The memories' front-ends. -/
structure ChipSt where
  writes : List TrackedWrite := []
  stalled : List MemRead := []
  /-- last read returned to each requester -/
  results : List (Nat × ReadResult) := []
  /-- last record address returned to each requester of the coil unit -/
  coilAddr : List (Nat × Nat) := []
  coils : List ((Nat × Nat) × CoilSt) := []
  merges : List MergeWin := []
  /-- transpose buffers in use: mast and bank group (R182) -/
  transpose : List (Nat × Nat) := []
  /-- transposed reads that wait for a buffer, oldest first -/
  transWait : List MemRead := []
  /-- the line the scrubber of each mast reads next, counted over its weight, activation and partial-sum memories -/
  scrub : List (Nat × Nat) := []
  deriving DecidableEq, Repr

/-! ### Faults (19_faults_and_dump.md) -/

/-- A record of the event log (R489). -/
structure EventRec where
  seq : Nat
  code : Nat
  cls : Nat
  st : Status
  time : Nat
  tick : Nat
  unit : Nat
  section_ : Nat
  flags : Nat
  detail : Nat
  deriving DecidableEq, Repr

/-- The event log, the crash dump and the fault controller (R486 to R500). -/
structure FaultSt where
  /-- the log ring, newest first, at most 4,096 records -/
  log : List EventRec := []
  /-- codes already recorded since reset (flag FIRST) -/
  codes : List Nat := []
  first : Option EventRec := none
  /-- fatal errors whose handling is not finished: row of R486, mast (8: the device), time ns -/
  fatals : List (Nat × Nat × Nat) := []
  /-- a dump is owed since the time of its FATAL record, ns (R495) -/
  dumpDue : Option Nat := none
  /-- directory entries that are to be written: kind and instance (R496) -/
  dumpTodo : List (Nat × Nat) := []
  /-- entries written: kind, instance, state, offset, length -/
  dumpDir : List (Nat × Nat × Nat × Nat × Nat) := []
  /-- the body in plaintext so far -/
  dumpBody : List Byte := []
  /-- the FATAL record and the IV of the dump -/
  dumpFatal : List Byte := []
  /-- the key that encrypts the dump, as it was when the dump began (R455, R498) -/
  dumpKey : List Byte := []
  dumpIv : List Byte := []
  /-- it is encrypted; memory contents are omitted; it is reduced and stands in crowsnest SRAM -/
  dumpEnc : Bool := false
  dumpOmit : Bool := false
  dumpSram : Bool := false
  /-- arms RST_CAUSE.PREV_FATAL for the next reset -/
  prevFatal : Bool := false
  /-- sum of the corrected-error counters' increments since the last CE_SUMMARY -/
  ceCount : Nat := 0
  /-- the second of the time base of the last CE_SUMMARY, plus 1; 0: none -/
  ceSecond : Nat := 0
  deriving DecidableEq, Repr

/-! ### Transport and ports (13_ghenko_ethernet.md) -/

/-- A frame the transport sends; type 0: an Ethernet frame of crowsnest or a MAC control frame, whose bytes from the destination
address on are its payload. The last fields are filled when it leaves its port: AckSeq, TsVal and TsEcr of the base
header (R352), Conn, TxCnt and the tag of PROT GCM (R351), and the bytes of its encapsulation (R350). -/
structure TxFrame where
  port : Nat
  sub : Nat
  /-- 0 express, 1 ACK and NAK, 2 other bulk (R367) -/
  queue : Nat
  /-- connection; 4096: none (host channel, ABORT_DONE, crowsnest's own Ethernet frames) -/
  cn : Nat
  typ : Nat
  /-- NC, ACKREQ, MORE, RETX as bits 0 to 3 of VerFlags; bit 4: ECE of TypeCls -/
  flags : Nat
  seq : Nat
  dst : Nat
  srcUnit : Nat
  subhdr : List Byte
  pay : List Byte
  /-- remote operation the frame belongs to; 0: none -/
  op : Nat := 0
  /-- host-channel destination address -/
  addr : Nat := 0
  /-- the connection an OPEN, OPEN_ACK, CLOSE or CLOSE_ACK belongs to, with the transmit counter and key it takes -/
  ctl : Option (Nat × Nat × List Byte) := none
  conn : Nat := 0
  ackSeq : Nat := 0
  tsVal : Nat := 0
  tsEcr : Nat := 0
  txCnt : Nat := 0
  tag : List Byte := []
  encap : List Byte := []
  /-- the MACsec association that protects it (R349) -/
  an : Option Nat := none
  deriving DecidableEq, Repr

/-- A sequenced frame that is not yet acknowledged (R360, R364). -/
structure Unacked where
  frame : TxFrame
  sentAt : Option Nat := none
  resent : Bool := false
  deriving DecidableEq, Repr

/-- A connection's state beyond its registers (R359 to R370). -/
structure Conn where
  /-- sequence numbers received beyond RCVNXT -/
  marked : List Nat := []
  /-- numbers received and performed that are not complete, with their ACKREQ (R362) -/
  held : List (Nat × Bool) := []
  unacked : List Unacked := []
  peerWin : Nat := 4096
  maxpay : Nat := 4096
  txCnt : Nat := 0
  rttvar : Nat := 0
  hasSrtt : Bool := false
  timer : Option Nat := none
  /-- completions since the last ACK, and the time of the first of them -/
  ackPend : Nat := 0
  ackSince : Option Nat := none
  ece : Bool := false
  lastCut : Option Nat := none
  lastGrow : Nat := 0
  lastRx : Nat := 0
  lastTx : Nat := 0
  tsRecent : Nat := 0
  /-- OPEN or CLOSE retries (R359) and the time of the last sending -/
  tries : Nat := 0
  triedAt : Nat := 0
  /-- a CLOSE was received while OPEN; the closing end answers with CLOSE_ACK when its frames are acknowledged -/
  peerClose : Bool := false
  /-- CLOSE has been sent -/
  closeSent : Bool := false
  /-- session or link keys of the two directions, none: not installed -/
  txKey : Option (List Byte) := none
  rxKey : Option (List Byte) := none
  /-- initial sequence number of this end -/
  isn : Nat := 0
  deriving DecidableEq, Repr

/-- What is left of an engine operation when its last check is passed: the record to write, the cleat to signal and
the step to report. -/
structure Finish where
  key : EngKey
  unit : Nat
  mast : Nat
  /-- record address and its bytes before the status byte is filled in; the status byte's offset -/
  recAt : Option Nat
  recBytes : List Byte
  recSt : Nat
  cleat : Nat
  endStep : Bool
  descIdx : Nat
  deriving DecidableEq, Repr

/-- What follows when a remote operation has completed. -/
inductive Cont where
  | none
  /-- one of several remote operations of an engine operation, pending under this number -/
  | part (pend : Nat)
  /-- a store of a unit to another device: its status goes to the unit (R356) -/
  | store (unit : Nat)
  /-- a load of crowsnest from another device, under its ReqTag -/
  | read (tag : Nat)
  /-- a proxy operation, kept in `NetSt.proxyOut` under its OpTag until its result has come -/
  | proxy (tag : Nat)
  /-- a RADD message of contribution `id`, kept in `RedSt.inflight` -/
  | radd (id : Nat)
  /-- a halyard message of send slot `slot` of owner `o` -/
  | send (o slot : Nat)
  /-- a downhaul reply sent by endpoint -/
  | reply (o ch : Nat)
  /-- `n` bytes of the descriptor in slot `slot` of fairlead `f`, and the source record, as mast, coil and number, that is
  released when they are accepted -/
  | fair (f slot n : Nat) (rel : Option (Nat × Nat × Nat))
  deriving DecidableEq, Repr

/-- A remote operation in flight on a connection (R362). -/
structure RemOp where
  id : Nat
  cn : Nat
  unit : Nat
  dst : Nat
  /-- sequence numbers of its frames that are not covered yet -/
  seqs : List Nat
  cont : Cont
  deriving DecidableEq, Repr

/-- An engine operation that waits for the acknowledgement of its remote writes. -/
structure PendOp where
  id : Nat
  left : Nat
  st : Status
  fin : Finish
  deriving DecidableEq, Repr

/-- A proxy operation that waits for its issuer's remote writes (R357). -/
structure ProxyOp where
  idx : Nat
  op : Nat
  operand : Nat
  st : Status
  renew : Bool
  /-- global unit ID of the issuer, and where its result goes -/
  unit : Nat
  who : Waiter := .plain
  /-- it waits for the acknowledgement of its issuer's remote operations with numbers below this (R299) -/
  upto : Nat := 0
  deriving DecidableEq, Repr

/-- A message being reassembled (R354): connection and sequence number of its first fragment. -/
structure Reasm where
  cn : Nat
  first : Nat
  /-- the decision taken at the first fragment to arrive -/
  st : Status
  land : Nat
  total : Nat
  /-- granule offsets of the fragments accepted -/
  got : List Nat
  granules : Nat
  poison : Bool
  /-- the channel it lands at -/
  ep : Nat
  /-- the fragment accepted last, which is complete when the notification enters -/
  last : Option Nat := none
  deriving DecidableEq, Repr

/-- An outstanding read of another device (R362). -/
structure OutRead where
  tag : Nat
  cn : Nat
  unit : Nat
  len : Nat
  got : List (Nat × List Byte) := []
  poison : Bool := false
  deriving DecidableEq, Repr

/-- The transport and the ports. -/
structure NetSt where
  conns : List (Nat × Conn) := []
  txq : List TxFrame := []
  /-- frames that left their port in the last reference period -/
  sent : List TxFrame := []
  /-- connection served last by the bulk round robin of each sub-port (R367) -/
  rr : List ((Nat × Nat) × Nat) := []
  ops : List RemOp := []
  pends : List PendOp := []
  proxies : List ProxyOp := []
  /-- proxy operations that have left and not returned: OpTag, connection, operation (R357) -/
  proxyOut : List (Nat × Nat × ProxyOp) := []
  reasm : List Reasm := []
  reads : List OutRead := []
  nextId : Nat := 1
  /-- PFC pauses: sub-port, priority, ns at which the pause ends (R346) -/
  pauses : List ((Nat × Nat × Nat) × Nat) := []
  /-- sub-ports whose verify procedure has succeeded since their link came up (R368) -/
  verified : List (Nat × Nat) := []
  /-- transmit timestamps of each sub-port, oldest first: ns, fraction, sequenceId (R348) -/
  txts : List ((Nat × Nat) × List (Nat × Nat × Nat)) := []
  /-- PTP role, step mode and domain of a sub-port (PTP_CONFIG) -/
  ptp : List ((Nat × Nat) × (Nat × Nat × Nat)) := []
  /-- frames crowsnest has taken from the ports and not yet examined: port, sub, receive timestamp (ns, fraction), bytes -/
  cnFrames : List (Nat × Nat × (Nat × Nat) × List Byte) := []
  /-- devices that are lost: their last OPEN connection became LOST, and none has opened since (R371) -/
  lost : List Nat := []
  /-- the mode of a port in force since its last port reset (R345) -/
  mode : List (Nat × Nat) := []
  deriving DecidableEq, Repr

/-! ### Crowsnest, mailboxes, abort (15_crowsnest_mailboxes.md) -/

/-- Where completions of a mailbox go (R397). -/
inductive Origin where
  | conn (c : Nat)
  | host (port sub addr : Nat)
  deriving DecidableEq, Repr

/-- An accepted command (R400, R403, R408). -/
structure MbxCmd where
  seq : Nat
  entry : List Byte
  /-- it came over the host channel -/
  host : Bool
  /-- ns at which it reached the head of its mailbox -/
  head : Option Nat := none
  /-- ns at which it started; it holds its resources from then -/
  start : Option Nat := none
  /-- ns of the last DATA_IN for it -/
  lastData : Option Nat := none
  /-- its place in the order of acceptance over all mailboxes (R407) -/
  acc : Nat := 0
  /-- resources it takes, and whether it has obtained them -/
  res : List Nat := []
  granted : Bool := false
  /-- SECTION_*: it is under way in the loader -/
  running : Bool := false
  deriving DecidableEq, Repr

/-- A mailbox (R397 to R405). -/
structure Mailbox where
  epoch : Nat := 0
  n : Nat := 0
  a : Nat := 0
  origin : Option Origin := none
  /-- the last host-channel origin of a CMD of this epoch, to which events go (R412) -/
  hostOrigin : Option Origin := none
  ring : List MbxCmd := []
  /-- held completions, with the DATA_OUT of a bootstrap command -/
  cpls : List (Nat × List Byte × List Byte) := []
  /-- DATA_IN received: command Seq, offset, bytes; later entries replace earlier ones -/
  dataIn : List (Nat × Nat × List Byte) := []
  deriving DecidableEq, Repr

/-- An accepted ABORT frame that is owed its ABORT_DONE (R414, R416, R417): where it came from, its fields, and when it
was accepted, ns. -/
structure AbortFrame where
  port : Nat
  sub : Nat
  addr : Nat
  dst : Nat
  scope : Nat
  section_ : Nat
  key : Nat
  counter : Nat
  time : Nat
  deriving DecidableEq, Repr

/-- An abort in progress (R416, R417). -/
structure AbortSt where
  /-- sections in scope -/
  scope : List Nat := []
  start : Nat := 0
  /-- it was started by TRIGGER -/
  trig : Bool := false
  frames : List AbortFrame := []
  /-- masts force-cleared -/
  forced : List Nat := []
  deriving DecidableEq, Repr

/-- Crowsnest beyond its registers: the watchdog (R395). What a register access returns stands in `ChipSt.results`. -/
structure CnSt where
  /-- ns at which the watchdog period started -/
  wdAt : Nat := 0
  /-- the period has expired once without a KICK since -/
  wdFired : Bool := false
  /-- a non-maskable interrupt of the watchdog is raised on core 0 -/
  nmi : Bool := false
  deriving DecidableEq, Repr

/-! ### Sails (03_sails.md) and near-memory reduction (12_reductions.md) -/

/-- One operand block: its 32 codes, its scale, and the poison of each (R53, R78). -/
structure Block where
  codes : List Nat
  scale : Nat
  ep : Bool
  sp : Bool
  deriving DecidableEq, Repr

/-- The operands of one walk: a macro-instruction's own bases, or those of a pointer-list entry (R77, R89). -/
structure MmaBases where
  a : Nat
  asc : Nat
  b : Nat
  bsc : Nat
  c : Nat
  csc : Nat
  mOver : Option Nat
  deriving DecidableEq, Repr

/-- The shape of a walk. -/
structure Shape where
  m : Nat
  n : Nat
  k : Nat
  deriving DecidableEq, Repr

/-- What the checks at issue make of a macro-instruction or of one entry of its list: a status other than DONE, an empty
walk, or a walk (R93 to R95). -/
structure MmaEntry where
  st : Status
  walk : Option (MmaBases × Shape)
  deriving DecidableEq, Repr

/-- A chunk of B: blocks `b0` to `b0 + nb - 1` of the tokens of column tile `j`, which part `part` uses in a pass, and the
local sails whose walk contains it (R82, R83, R86, R87). -/
structure BChunk where
  walk : Nat
  j : Nat
  pass : Nat
  part : Nat
  b0 : Nat
  nb : Nat
  targets : List Nat
  deriving DecidableEq, Repr

/-- The contents of a chunk: for each token its blocks. -/
abbrev ChunkData := List (List Block)

/-- A chunk in a B buffer, by its place in the tap's order (R86). -/
structure BBuf where
  no : Nat
  chunk : BChunk
  data : ChunkData
  deriving DecidableEq, Repr

/-- A retention slot of a mast's B tap: the chunk it holds, by its place in the tap's order, and the sails that have not
taken it (R87). -/
structure TapSlot where
  mast : Nat
  slot : Nat
  no : Nat
  chunk : BChunk
  data : ChunkData
  targets : List Nat
  deriving DecidableEq, Repr

/-- A sail computes on chunk `no` once it has the `left` bytes of A of its `tiles` resident tiles that the stream still owes
(R78, R83). -/
structure ChunkUse where
  no : Nat
  sail : Nat
  /-- the walk, column tile, pass and sail group it belongs to -/
  walk : Nat
  j : Nat
  pass : Nat
  grp : Nat
  tiles : Nat
  left : Nat
  deriving DecidableEq, Repr

/-- An accumulator of a cell: its K32 code, the flags gathered so far, its poison (R56, R67, R96). -/
structure Accum where
  code : Nat
  fl : Nat
  poison : Bool
  deriving DecidableEq, Repr

/-- A macro-instruction under way (R75, R83, R87, R88). Between commands the machine holds one only while it waits for bytes of
a fairlead stream or for chunks. -/
structure MmaRun where
  mast : Nat
  op : Nat
  w : List Word
  /-- the fairlead and stream of A -/
  fl : Nat
  stream : Nat
  plan : List MmaEntry
  /-- its number among the pending operations -/
  pend : Nat
  /-- number of the next chunk the tap reads, and the chunks from it on -/
  next : Nat
  chunks : List BChunk
  /-- computations to come, in walk order -/
  uses : List ChunkUse
  /-- bytes of A that the computation at the front has consumed, with their poison -/
  got : List (Byte × Bool) := []
  /-- the accumulators of the sails that are in a pass, for each resident tile token by token -/
  accs : List (Nat × List (List Accum)) := []
  /-- flags and poison of the tiles that are finished -/
  flags : Nat := 0
  poison : Bool := false
  /-- the contribution to each device (R92, R327) -/
  radd : List (Nat × Nat) := []
  deriving DecidableEq, Repr

/-- Sails and tile sequencers beyond their registers. -/
structure SailSt where
  tap : List TapSlot := []
  runs : List MmaRun := []
  /-- the B buffers of a sail: the chunks they hold by number, at most two (R86) -/
  bufs : List (Nat × List BBuf) := []
  /-- stochastic-rounding counter of each sail (R62) -/
  rs : List (Nat × Nat) := []
  deriving DecidableEq, Repr

/-- A RADD message (R327, R353). -/
structure RaddMsg where
  trailer : Bool
  tag : Nat
  epoch : Nat
  tick : Nat
  /-- element type: K16 -/
  k16 : Bool
  addr : Nat
  data : List Byte
  mask : Nat
  f : Nat
  count : Nat
  cksum : Nat
  dev : Nat
  unit : Nat
  deriving DecidableEq, Repr

/-- Who is answered when an element message has been applied (R331): a contribution of this device, or a frame of a
connection by its sequence number. -/
inductive RaddAck where
  | contrib (id : Nat)
  | frame (cn seq : Nat)
  deriving DecidableEq, Repr

/-- A bucket's or ordered channel's round beyond its registers (R330 to R337). -/
structure RoundSt where
  /-- tick of the last completed round -/
  last : Option Nat := none
  /-- the round tick is set -/
  ticked : Bool := false
  /-- edges since the first accepted message, and its time in time-base ns -/
  edges : Nat := 0
  first : Nat := 0
  poison : Bool := false
  /-- ordered channel: staged element messages by rank: elements, poison mask, whom to answer -/
  staged : List (Nat × List Byte × Nat × RaddAck) := []
  /-- ordered channel: accepted trailers by rank: checksum and count -/
  trailers : List (Nat × Nat × Nat) := []
  /-- ordered channel: checksum and count of each rank's elements received -/
  sums : List (Nat × Nat × Nat) := []
  deriving DecidableEq, Repr

/-- A contribution on its way (R327, R332): messages not yet acknowledged; its part of a pending operation. -/
structure Contrib where
  id : Nat
  pend : Nat
  left : Nat
  st : Status := .done
  /-- what its messages carry: tag, epoch, element type, tick and the checksum's F -/
  tag : Nat
  epoch : Nat
  k16 : Bool
  tick : Nat
  f : Nat
  /-- elements sent so far, and their checksum (R333) -/
  count : Nat := 0
  sum : Nat := 0
  /-- first refusal with BUSY, ns, and the tick period then -/
  firstBusy : Option (Nat × Nat) := none
  dst : Nat
  unit : Nat
  deriving DecidableEq, Repr

/-- A message that waits for its repetition (R332). -/
structure RaddRetry where
  contrib : Nat
  msg : RaddMsg
  due : Nat
  wait : Nat
  deriving DecidableEq, Repr

/-- The reduction controller and the senders of contributions. -/
structure RedSt where
  /-- rounds by entry: bucket t, or 4,096 + o for ordered channel o -/
  rounds : List (Nat × RoundSt) := []
  contribs : List Contrib := []
  retries : List RaddRetry := []
  /-- remote messages on their way by operation number, for a repetition: contribution, message, last wait -/
  inflight : List (Nat × RaddRetry) := []
  /-- the ordered channel that the last element message of a contribution went to, by sending device and unit, tick, tag and
  epoch: its trailer goes there too (R340) -/
  routes : List ((Nat × Nat × Nat × Nat × Nat) × Nat) := []
  /-- trailers that came before frames of their connection with lower numbers: connection, sequence number, message -/
  early : List (Nat × Nat × RaddMsg) := []
  deriving DecidableEq, Repr

/-! ### Fairleads and stream cache (07_fairleads.md) -/

/-- A part of a stream whose line has been requested and has not arrived (R201): position in the stream, bytes, records of
a source and a destination coil, stack and line of the lines it lacks. -/
structure FlPiece where
  pos : Nat
  len : Nat
  srcRec : Nat := 0
  dstRec : Nat := 0
  lacks : List (Nat × Nat) := []
  deriving DecidableEq, Repr

/-- A descriptor in a stream slot (R200, R203, R209). -/
structure FlDesc where
  /-- its eight words, and its fairlead -/
  w : List Nat
  fl : Nat := 0
  /-- the step-list entry and batch position it came from -/
  entry : Nat := 0
  /-- its wait is satisfied -/
  deliver : Bool := false
  /-- it only completes, with this status: a check or its wait decided it -/
  fail : Option Status := none
  /-- extents -/
  list : List Nat := []
  /-- bytes of the whole stream, requested, prefetched, settled at the destination, accepted -/
  total : Nat := 0
  pos : Nat := 0
  pre : Nat := 0
  settled : Nat := 0
  acc : Nat := 0
  waits : List FlPiece := []
  /-- coil records in hand, and bytes accepted of each destination record -/
  srcRec : Nat := 0
  dstRec : Nat := 0
  recAcc : List (Nat × Nat) := []
  poison : Bool := false
  tst : Status := .done
  deriving DecidableEq, Repr

/-- A fairlead (R205 to R208). -/
structure Fairlead where
  slots : List (Nat × FlDesc) := []
  /-- descriptors fetched and not yet installed, with their poison -/
  batch : List (List Byte × Bool × Nat) := []
  /-- next step-list entry -/
  entry : Nat := 0
  /-- a malformed entry was met in this step -/
  stopped : Bool := false
  /-- the batch with EndStep has been fetched -/
  ending : Bool := false
  /-- the slot served last -/
  last : Nat := 63
  deriving DecidableEq, Repr

/-- The fairleads; the slices stand in `HbmSt`. -/
structure FairSt where
  fls : List (Nat × Fairlead) := []
  /-- stream data that waits at a tile sequencer: mast, fairlead, stream; bytes with their poison (R220) -/
  sbuf : List ((Nat × Nat × Nat) × List (Byte × Bool)) := []
  deriving DecidableEq, Repr

/-! ### Stream-cache slices and HBM (07_fairleads.md, 14_hbm.md) -/

/-- A way of a set (R211 to R213): the stack-local line it holds. The bytes of a line are those of memory: the slice is
the point of coherence. -/
structure ScLine where
  way : Nat
  line : Nat
  dirty : Bool := false
  /-- its fill has arrived -/
  filled : Bool := false
  /-- the key slot it was allocated under (R389) -/
  slot : Nat := 0
  /-- the fairlead and stream slot whose prefetch pins it -/
  pin : Option (Nat × Nat) := none
  deriving DecidableEq, Repr

/-- A set: its valid ways and the bits of its pseudo-LRU tree. -/
structure ScSet where
  ways : List ScLine := []
  plru : Nat := 0
  deriving DecidableEq, Repr

/-- What a request of the miss queue does (R214). -/
inductive MissKind where
  | fill | writeBack | bypassRead | bypassWrite
  deriving DecidableEq, Repr

/-- A request of the miss queue; `tag` names the maintenance it belongs to: 0 none, 1 SC_OP, 2 HBM_MAP, 2 + k HBM_KR[k]. -/
structure MissReq where
  kind : MissKind
  line : Nat
  tag : Nat := 0
  /-- the key slot of its line; some sector of it is written in part (R382, R389) -/
  slot : Nat := 0
  part : Bool := false
  deriving DecidableEq, Repr

/-- A slice: sets, the requests of its miss queue and those that wait to enter it in arrival order (the queue is the first
256, R214, R217), fills the controller has returned. -/
structure Slice where
  sets : List (Nat × ScSet) := []
  miss : List MissReq := []
  fills : List MissReq := []
  deriving DecidableEq, Repr

/-- Mapping, key regions and keys that stored sectors were written under (R380, R388, R389). -/
structure HbmBase where
  map : Nat × Nat
  kr : List (Nat × Nat × Nat)
  keys : List (Nat × List Byte)
  deriving DecidableEq, Repr

/-- Slices and controllers. -/
structure HbmSt where
  slices : List (Nat × Slice) := []
  /-- mapping in force: GRAN and SPLITG (R377) -/
  map : Nat × Nat := (2, 48)
  /-- key regions in force: number, base, length (R389) -/
  kr : List (Nat × Nat × Nat) := []
  /-- key slots that hold a key beyond slot 0 (R389) -/
  keys : List Nat := []
  /-- what sectors were written under before the first change of a key, region or mapping; sectors written since under another
  key than that, by device-local number (R380, R388, R389) -/
  base : Option HbmBase := none
  seals : List (Nat × List Byte) := []
  /-- sectors whose poison bit is set in their stack: stack, sector (R386) -/
  sick : List (Nat × Nat) := []
  /-- open row and activations since the last RFM, by stack and bank (R381, R384) -/
  rows : List ((Nat × Nat) × Nat) := []
  acts : List ((Nat × Nat) × Nat) := []
  /-- lane repairs applied through the test port, and the temperature it last gave, by stack (R375, R390) -/
  repairs : List (Nat × List Nat) := []
  temps : List (Nat × Nat) := []
  /-- banks blocked by a refresh: stack, bank, ns at which the block ends (R384) -/
  blocked : List ((Nat × Nat) × Nat) := []
  /-- corrected sectors not yet rewritten: stack, sector (R386) -/
  rewrite : List (Nat × Nat) := []
  /-- ns of the last temperature reading of a stack, and the next sector its patrol scrub reads -/
  tempAt : List (Nat × Nat) := []
  patrol : List (Nat × Nat) := []
  deriving DecidableEq, Repr

/-! ### Tackle (08_tackle.md) -/

/-- A descriptor whose coil is full: the runs it has committed, flags, poison, elements dropped and draws used so far
(R239). -/
structure TkRun where
  /-- its index in the program, operation, list count and words -/
  pc : Nat
  op : Nat
  n : Nat
  w : List Word
  /-- the status its checks decided, if they did -/
  over_ : Option Status := none
  /-- runs of dimension 0 it has performed, what it has accumulated (R235, R239) -/
  runs : Nat := 0
  flags : Nat := 0
  bad : Bool := false
  drop : Nat := 0
  deriving DecidableEq, Repr

/-- A tackle (R226, R228): its descriptors in flight, oldest first; a descriptor with EndStep, or the last of the program,
has issued. -/
structure TkSt where
  flight : List TkRun := []
  ending : Bool := false
  deriving DecidableEq, Repr

/-! ### Jibs (05_jibs.md) -/

/-- A jib's register store and predicates (R144): store bytes by offset (unlisted: 0), poisoned 4 B words, predicates M1
to M7 as bit masks, poison of each predicate, and the Result of its last instruction (R148). -/
structure JibSt where
  store : List Host.Cell := []
  bad : List Nat := []
  preds : List (Nat × Nat) := []
  predBad : Nat := 0
  result : Nat := 0
  deriving DecidableEq, Repr

/-! ### Sheave fabric (04_sheave_fabric.md) -/

/-- An entry of a queue or a flit: value, tag, poison, and the reference period in which it entered its queue (R103, R104,
R130). -/
structure FabEntry where
  v : Nat
  tag : Nat := 0
  p : Bool := false
  at_ : Nat := 0
  deriving DecidableEq, Repr

/-- A firing whose program issues (R129). -/
structure Firing where
  slot : Nat
  /-- next instruction -/
  next : Nat
  flags : Nat := 0
  /-- an input entry was poisoned -/
  bad : Bool := false
  deriving DecidableEq, Repr

/-- A sheave (R103): registers with their poison (unlisted: 0), pool input queues 0 to 11 numbered as INBIND, output
queues 0 to 4 numbered as OUTBIND, latches by pool queue. -/
structure Sheave where
  v : List (Nat × Nat × Bool) := []
  sc : List (Nat × Nat × Bool) := []
  pr : List (Nat × Nat × Bool) := []
  iq : List (Nat × List FabEntry) := []
  oq : List (Nat × List FabEntry) := []
  latch : List (Nat × FabEntry) := []
  /-- the slot that fired last (R128) -/
  last : Nat := 7
  cur : Option Firing := none
  /-- firings of each slot since section start (R123) -/
  fires : List (Nat × Nat) := []
  /-- stochastic-rounding counter (R126) -/
  rs : Nat := 0
  deriving DecidableEq, Repr

/-- A lane buffer: the router (or 256 + p for sink port p), network, input side 0 N, 1 S, 2 W, 3 E, lane (R110). -/
structure LaneKey where
  node : Nat
  net : Nat
  side : Nat
  lane : Nat
  deriving DecidableEq, Repr

/-- An edge port beyond its registers (R114 to R117). -/
structure EdgePort where
  /-- SRC_COIL: entries injected in this step -/
  inj : Nat := 0
  /-- SRC_TICK: tags of the tokens not yet injected -/
  ticks : List Nat := []
  /-- SRC_HALYARD: entries of the notification popped last that are not yet injected -/
  hal : List FabEntry := []
  /-- SNK_STEP: entries since the last report -/
  cnt : Nat := 0
  /-- SNK_COIL: records written -/
  recs : Nat := 0
  deriving DecidableEq, Repr

/-- The fabric of one mast. -/
structure Fabric where
  sheaves : List (Nat × Sheave) := []
  lanes : List (LaneKey × List FabEntry) := []
  ports : List (Nat × EdgePort) := []
  /-- lane served last on a link: router, network, direction (R110) -/
  rr : List ((Nat × Nat × Nat) × Nat) := []
  /-- number of the last event that put entries in queues: entries with one number entered in the same cycle (R130) -/
  stamp : Nat := 0
  /-- something moved since the last reference period -/
  moved : Bool := false
  /-- cycles in which nothing moved: of a drain, and of the watchdog (R136, R138) -/
  quiet : Nat := 0
  stall : Nat := 0
  /-- a snapshot was taken in this tick (R136) -/
  snapped : Bool := false
  deriving DecidableEq, Repr

/-! ### Halyards and downhauls (10_halyards.md) -/

/-- A notification (R274). -/
structure Note where
  addr : Nat := 0
  len : Nat := 0
  reply : Bool := false
  poison : Bool := false
  unit : Nat := 0
  dev : Nat := 0
  st : Status := .done
  slot : Nat := 0
  gen : Nat := 0
  /-- ring mode: the ring pointer at the message's end (R280) -/
  stop : Option Nat := none
  deriving DecidableEq, Repr

/-- Where a landing message came from: a send slot of this device, or fragments on a connection (R354). -/
inductive HalFrom where
  | job (o slot : Nat)
  | msg (cn first : Nat)
  /-- a send that has ended -/
  | gone
  deriving DecidableEq, Repr

/-- A message whose notification has not entered (R275). -/
structure HalLand where
  note : Note
  src : HalFrom
  /-- every byte of its payload has been accepted -/
  ready : Bool := false
  deriving DecidableEq, Repr

/-- A reservation slot of a downhaul (R284). -/
structure Resv where
  gen : Nat := 0
  held : Bool := false
  /-- ring bytes it holds -/
  ring : Nat := 0
  maxReply : Nat := 0
  dstDev : Nat := 0
  dstEp : Nat := 0
  /-- tick edges since the request completed (R289); none: the request has not completed -/
  edges : Option Nat := none
  deriving DecidableEq, Repr

/-- A channel (R271). -/
structure HalChan where
  queue : List Note := []
  landing : List HalLand := []
  /-- ring pointers at the ends of the messages popped and not yet released, oldest first (R280) -/
  popped : List Nat := []
  /-- reservation slots; an unlisted one is free and has generation `gen0` -/
  resv : List (Nat × Resv) := []
  gen0 : Nat := 0
  deriving DecidableEq, Repr

/-- Where a send stands (R282, R284, R287). -/
inductive SendPhase where
  /-- it waits for a reply reservation -/
  | resv
  /-- it is on its way to a channel of this device -/
  | travel
  /-- it has landed at a channel of this device and its notification has not entered -/
  | landed
  /-- its frames are on a connection -/
  | remote
  /-- it has been refused with FULL and waits to be resent -/
  | retry
  deriving DecidableEq, Repr

/-- A send in progress (R282, R283). -/
structure SendJob where
  phase : SendPhase := .resv
  reply : Bool
  cleat : Nat
  /-- payload address and bytes -/
  addr : Nat
  len : Nat
  maxReply : Nat
  chan : Nat
  dev : Nat
  /-- destination endpoint; FromChan of a reply -/
  ep : Nat
  src : Nat
  land : Nat
  handle : Nat
  rslot : Nat := 0
  rgen : Nat := 0
  /-- it holds its reply reservation -/
  resv : Bool := false
  /-- when the send timer started, and its length, ns -/
  start : Nat
  tmo : Nat
  /-- the last wait before a resend, and the time of the resend, ns -/
  wait : Nat := 0
  due : Nat := 0
  /-- the payload as read, with its poison -/
  data : List (Byte × Bool) := []
  deriving DecidableEq, Repr

/-- The halyards: channels by endpoint index, sends by owner and slot. -/
structure HalSt where
  /-- an unlisted channel is empty, with the generations of its owner's last clearing -/
  chans : List (Nat × HalChan) := []
  /-- by owner, the generation that its clearings have left in slots never used (R290) -/
  gens : List (Nat × Nat) := []
  jobs : List ((Nat × Nat) × SendJob) := []
  deriving DecidableEq, Repr

/-! ### Security engine (17_security.md) -/

/-- A session of SESSION_OPEN (R456). -/
structure Session where
  id : Nat
  h2d : List Byte
  d2h : List Byte
  /-- the HOST connection it is bound to -/
  conn : Option Nat := none
  deriving DecidableEq, Repr

/-- A link handshake that this end has begun (R458): its nonce, its ephemeral private key, and the message it sends. -/
structure Shake where
  nonce : List Byte
  key : List Byte
  msg : List Byte
  deriving DecidableEq, Repr

/-- The security engine: keys by slot, measurement, sessions (R445 to R460). -/
structure SecSt where
  /-- last Counter accepted in this boot (R453) -/
  counter : Nat := 0
  /-- private keys as the primitives of Config take them: Alias, import -/
  alias_ : List Byte := []
  importKey : List Byte := []
  /-- the default key of HBM slot 0 that boot phase 5 installs (R457, R465) -/
  key0 : List Byte := []
  /-- UDS cannot be read until the next reset (R447) -/
  udsShut : Bool := false
  /-- the Alias certificate of this boot (R447, R448) -/
  aliasCert : List Byte := []
  /-- the owner's verification key (R455) -/
  ownerPub : List Byte := []
  image : List (Nat × List Byte) := []
  /-- owner keys by slot; 64: the default key of slot 0 -/
  hbm : List (Nat × List Byte) := []
  /-- link secrets: 4p + s, 255 the system link secret -/
  link : List (Nat × List Byte) := []
  abort : List (Nat × List Byte) := []
  /-- oldest first -/
  sessions : List Session := []
  /-- MACsec associations by port, sub-port and number: 32 B SAK, 12 B XPN salt, the own SSCI (R458). The one before the current
  one stays for receive (R349) -/
  sak : List ((Nat × Nat × Nat) × List Byte) := []
  /-- ns at which the last handshake of a sub-port began or was answered (R458) -/
  shakeAt : List ((Nat × Nat) × Nat) := []
  /-- link handshakes under way, by sub-port -/
  shake : List ((Nat × Nat) × Shake) := []
  /-- frames sent and keyed with KO since the last erasure, from its DRBG value (R459) -/
  openCnt : Nat := 0
  bootMR : List Byte := []
  sectionMR : List Byte := []
  /-- log entries of 80 B, oldest first, at most 4,096 -/
  log : List (List Byte) := []
  trunc : Bool := false
  deriving DecidableEq, Repr

/-! ### Sections (16_sections.md) -/

/-- What the loader has under way for a section, with the mailbox and Seq of its command. -/
inductive SecJob where
  | none
  /-- SECTION_START for device edge `k`; SECTION_RESUME where `resume`; a switch where `sw` says so, with whether its edge has
  passed (R437) -/
  | start (mbx seq k : Nat) (resume : Bool) (sw : Option Bool)
  /-- a load in phase 1 verify, 2 clear, 3 write, 4 weights of SL_STAT; of a switch with the edge at which it starts -/
  | load (mbx seq phase : Nat) (edge : Option Nat)
  /-- a resumption whose save area is to be restored, for device edge `k` -/
  | restore (mbx seq k : Nat)
  /-- SECTION_SUSPEND: start and end of its drain time, ns -/
  | suspend (mbx seq start limit : Nat)
  deriving DecidableEq, Repr

/-- A section's state beyond its SL_SEC entry. -/
structure Section where
  seed : Nat := 0
  /-- time-base ns after which no deadline of a delivered step may lie (R436) -/
  cutoff : Option Nat := none
  /-- its image header, and the image key its load read (R454) -/
  hdr : List Byte := []
  key : List Byte := []
  /-- windows its image defines, registers its load wrote (R424, R431) -/
  wins : List Nat := []
  writes : List Reg := []
  /-- its sources are stopped (R438) -/
  stopped : Bool := false
  job : SecJob := .none
  deriving DecidableEq, Repr

/-- A SECTION_SWITCH whose verify pass has succeeded (R436). -/
structure SwitchJob where
  mbx : Nat
  seq : Nat
  old : Nat
  new : Nat
  /-- the device edge at which New starts -/
  k : Nat
  image : Nat
  hdr : List Byte
  key : List Byte
  deriving DecidableEq, Repr

/-- The section loader beyond its registers. -/
structure LoaderSt where
  /-- the OwnerId that last configured each mast (R432); unlisted: zero -/
  owners : List (Nat × List Byte) := []
  switches : List SwitchJob := []
  deriving DecidableEq, Repr

/-! ### Boot, calibration, power, module (18_boot_power_calibration.md, 20_module_hardware.md) -/

/-- Cached training values, boot flash from 0x09C0_0000 on: their signature, and serial number, temperature and lane repairs of each
stack (R390, R467). -/
structure TrainCache where
  sig : List Byte
  serials : List (List Byte)
  temps : List Nat
  repairs : List (Nat × List Nat)
  deriving DecidableEq, Repr

/-- Boot flash and the boot in progress (R465 to R471). The fields `t0`, `skip`, `restarts`, `fwVer`, `warmAt`
and `warmFor` belong to one boot. -/
structure BootSt where
  /-- bytes of boot flash by offset (R467); an unlisted one reads 0 -/
  flash : List Host.Cell := []
  /-- the slot marked active: 0 A, 1 B -/
  active : Nat := 0
  /-- rollback floor -/
  floor : Nat := 0
  /-- the stored user overlay and the cached training values (R390, R471) -/
  overlay : List Byte := []
  cache : Option TrainCache := none
  /-- the factory table's signature verified in this boot (R465) -/
  table : Bool := false
  /-- ns of t0 (R465) -/
  t0 : Nat := 0
  /-- choices of R467 that have been passed over after three crowsnest restarts -/
  skip : Nat := 0
  /-- crowsnest restarts of this boot before mailbox-ready -/
  restarts : Nat := 0
  /-- version of the firmware that runs -/
  fwVer : Nat := 0
  /-- bytes of a slot that its signature covers, where FW_ACTIVATE has verified them -/
  lens : List (Nat × Nat) := []
  /-- ns at which a warm reset begins, and whether FW_ACTIVATE in recovery mode ordered it -/
  warmAt : Option (Nat × Bool) := none
  /-- a warm reset is ordered that runs from when a completion leaves its port: its mailbox and Seq, and whether FW_ACTIVATE in
  recovery mode ordered it (R411) -/
  warmFor : Option (Nat × Nat × Bool) := none
  deriving DecidableEq, Repr

/-- Calibration in force (R469 to R471): core voltage offsets by mast in mV, transmit taps by Id and lane, HBM trips by
stack. -/
structure CalSt where
  volt : List (Nat × Int) := []
  taps : List ((Nat × Nat) × Int) := []
  hbmTrip : List (Nat × Nat) := []
  deriving DecidableEq, Repr

/-- The power controller (R472 to R476). -/
structure PwrSt where
  /-- transitions under way: mast and target state -/
  moves : List (Nat × Nat) := []
  /-- readings of the mast sensors, °C -/
  temps : List (Nat × Nat) := []
  /-- the last 1,000 samples of input power in W, newest first -/
  samples : List Nat := []
  /-- ns since which AVG has been below 0.9 of the cap, and above the cap at gear 3.2 -/
  low : Option Nat := none
  high : Option Nat := none
  /-- the reference period of the last gear opportunity used -/
  lastOpp : Option Nat := none
  /-- ns of the last trip; of the stop of the clocks -/
  tripAt : Option Nat := none
  stopAt : Nat := 0
  /-- a thermal shutdown is in force -/
  shut : Bool := false
  deriving DecidableEq, Repr

/-- The module on its board (R504 to R520). -/
structure ModSt where
  /-- ENABLE is mated -/
  enable : Bool := true
  /-- the rails are in regulation: the device is powered -/
  rails : Bool := true
  /-- VIN in mV -/
  vin : Nat := 56000
  /-- ns at which the power-up of R506 started -/
  upAt : Option Nat := none
  /-- the regulators are off after an overvoltage; after a power-down at low VIN -/
  ovr : Bool := false
  down : Bool := false
  /-- the board holds PWR_GOOD low; MOD_RESET_N is recognized as asserted -/
  pgLow : Bool := false
  rstLow : Bool := false
  /-- I3C straps and dynamic address; MCTP endpoint ID; the last answer on the bus -/
  strap : Nat := 7
  dyn : Option Nat := none
  eid : Nat := 0
  answer : List Byte := []
  /-- the JTAG instruction that acts, and the word a TAP access returned -/
  jtag : Option JtagOp := none
  tdo : Word := 0
  deriving DecidableEq, Repr

/-! ### The state -/

/-- What no command changes: the fuses and straps of one device (R5, R6, R529, R140). -/
structure Fuses where
  /-- DMK-BRC-A12 -/
  a12 : Bool := false
  /-- 0: 4.0 GHz, 1: 3.6 GHz, 2: 3.2 GHz -/
  gear : Nat := 0
  serial : List Byte := List.replicate 16 0
  stepping : Nat := 2
  repaired : Nat := 0
  /-- the unique device secret (R447) -/
  uds : List Byte := List.replicate 32 0
  /-- serial numbers of the stacks (R375) -/
  stackSerials : List (List Byte) := List.replicate 16 []
  deriving DecidableEq, Repr

/-- The state of the device and of the module it stands on. -/
structure State where
  fuses : Fuses := {}
  /-- register words; an unlisted register holds its reset value -/
  regs : List (Reg × Word) := []
  /-- memory bytes, canonical (`Memory.wf`) -/
  mem : List Host.Cell := []
  /-- base addresses of poisoned 64 B units, on the die and in the slices; the poison bits of HBM sectors stand in `hbm` (R197,
  R215, R386) -/
  poison : List Nat := []
  clt : CleatUnit := {}
  shr : List (Nat × ShrGroup) := []
  tick : TickSt := {}
  chip : ChipSt := {}
  flt : FaultSt := {}
  net : NetSt := {}
  mbx : List (Nat × Mailbox) := []
  abt : AbortSt := {}
  cns : CnSt := {}
  boot : BootSt := {}
  cal : CalSt := {}
  pwr : PwrSt := {}
  mod : ModSt := {}
  sail : SailSt := {}
  red : RedSt := {}
  fair : FairSt := {}
  hbm : HbmSt := {}
  /-- by mast -/
  fab : List (Nat × Fabric) := []
  /-- descriptors that hold for a coil, by mast -/
  tk : List (Nat × TkSt) := []
  /-- by jib, 0 to 31 -/
  jibs : List (Nat × JibSt) := []
  hal : HalSt := {}
  secs : List (Nat × Section) := []
  loader : LoaderSt := {}
  sec : SecSt := {}
  /-- reference periods of 6.4 ns since power-up -/
  refs : Nat := 0
  /-- the counter of free values (log entry 4) -/
  free : Nat := 0
  /-- commands that wait, first in, first out -/
  pending : List Instr := []
  deriving DecidableEq, Repr

/-- A command whose effect on the device the spec gives no state for. -/
inductive Fault where
  /-- raised by nothing: no command stops the device (19_faults_and_dump.md: every fault is corrected, carried as
  poison, or fatal to a scope, and the device goes on). Safe. -/
  | stopped
  deriving DecidableEq, Repr

/-- Why a command is turned away without an effect. -/
inductive Refusal where
  /-- raised by Dispatch.lean for a command without a meaning. Safe: the model stops. -/
  | notModelled (mnemonic : String)
  deriving DecidableEq, Repr

/-- The device at the start of a cold reset (R462, R465): every register at its reset value, every memory cleared,
no command waiting. -/
def State.reset : State := {}

end Sys2Proof.Machine
end

