-- ==== Sys2Proof/Machine/HbmMap.lean ====
section
/-! DEFINITION. The mapping of HBM addresses to stacks, and the encryption of HBM sectors: what a stored sector decrypts to under
the mapping, regions and keys in force (14_hbm.md R377 to R380, R386, R388, R389; 17_security.md R455). -/

namespace Sys2Proof.Machine

/-- Bytes of HBM (R6, R7). -/
def Fuses.hbmSize (u : Fuses) : Nat := if u.a12 then 0x012000000000 else 0x018000000000

/-! ### Address mapping (R377 to R381) -/

/-- The fitted stacks, ascending (R6). -/
def Fuses.stacks (u : Fuses) : List Nat := (List.range 16).filter (fun h => !(u.a12 && h % 4 == 3))

/-- The nearest stacks of a mast (R20). -/
def Fuses.near (u : Fuses) (m : Nat) : List Nat := if u.a12 && m % 2 == 1 then [2 * m] else [2 * m, 2 * m + 1]

/-- One GiB. -/
def gib : Nat := 2 ^ 30

/-- The granule in bytes of a GRAN code. -/
def granule (g : Nat) : Nat := 256 * 4 ^ g

/-- Where a mast's window of the local part begins, in GiB after the interleaved part over L (R379). -/
def Fuses.windowAt (u : Fuses) (m : Nat) : Nat := if u.a12 then 3 * (m / 2) + 2 * (m % 2) else 2 * m

/-- The stack and stack-local address of a device-local HBM address under a mapping (R378, R379). -/
def Fuses.hbmPlace (u : Fuses) (map : Nat × Nat) (a : Nat) : Nat × Nat :=
  let n := u.stacks.length
  let gr := granule map.1
  let split := map.2 * gib
  if a < n * split then
    let g := a / gr
    let q := g / n
    let r := g % n
    let i := if n = 16 then (r ^^^ (q % 16)) ^^^ (q / 16 % 16) else (r + q + q / 12) % 12
    (u.stacks.getD i 0, q * gr + a % gr)
  else
    let l := (96 - map.2) * gib
    let x := a - n * split
    let m := ((List.range 8).filter (fun m => decide (l * u.windowAt m ≤ x))).getLastD 0
    let o := x - l * u.windowAt m
    let g := o / gr
    match u.near m with
    | [s0, s1] => (if g % 2 = 0 then s0 else s1, split + g / 2 * gr + o % gr)
    | l => (l.headD 0, split + o)

/-- The device-local address of a stack-local one: the inverse of `hbmPlace` (R377: the mapping is one-to-one). -/
def Fuses.hbmAddr (u : Fuses) (map : Nat × Nat) (h x : Nat) : Nat :=
  let n := u.stacks.length
  let gr := granule map.1
  let split := map.2 * gib
  if x < split then
    let q := x / gr
    let i := (u.stacks.findIdx? (· == h)).getD 0
    let r := if n = 16 then (i ^^^ (q % 16)) ^^^ (q / 16 % 16) else (i + 12 * (q + 1) - q % 12 - (q / 12) % 12) % 12
    (q * n + r) * gr + x % gr
  else
    let l := (96 - map.2) * gib
    let m := h / 2
    let y := x - split
    let o := if (u.near m).length = 2 then (2 * (y / gr) + h % 2) * gr + y % gr else y
    n * split + l * u.windowAt m + o

/-! ### Encryption (R388, R389; log entry 25) -/

/-- The key slot of an HBM address under a list of regions (R389). -/
def slotOf (kr : List (Nat × Nat × Nat)) (a : Nat) : Nat :=
  match kr.find? (fun r => decide (r.2.1 ≤ a) && decide (a < r.2.1 + r.2.2)) with
  | some r => r.1
  | none => 0

/-- The key that a slot holds; slot 0 holds its default key, entry 64, until an owner imports one (R389, R455). -/
def keyOf (keys : List (Nat × List Byte)) (k : Nat) : List Byte :=
  Tbl.get (if k = 0 then Tbl.get [] keys 64 else []) keys k

/-- The XTS key pair of an HBM key (R455). -/
def xtsPair (key : List Byte) : List Byte := Config.hkdf key [] (ascii "BRECO hbm xts") 64

/-- The key of HBM sector `i`, counted in device-local addresses, as its address resolves now (R389). -/
def State.keyNow (s : State) (i : Nat) : List Byte := keyOf s.sec.hbm (slotOf s.hbm.kr (32 * i))

/-- The stack of sector `i` and its stack-local address. -/
def State.sectorPlace (s : State) (i : Nat) : Nat × Nat := s.fuses.hbmPlace s.hbm.map (32 * i)

/-- The tweak of sector `i`: bits 31 to 0 its stack-local number, bits 35 to 32 its stack (R388). -/
def State.tweak (s : State) (i : Nat) : Nat := (s.sectorPlace i).1 * 2 ^ 32 + (s.sectorPlace i).2 / 32

/-- The key that sector `i` is stored under (R380, R388). -/
def State.sealKey (s : State) (i : Nat) : List Byte :=
  match s.hbm.base with
  | none => s.keyNow i
  | some b =>
    let p := s.sectorPlace i
    Tbl.get (keyOf b.keys (slotOf b.kr (s.fuses.hbmAddr b.map p.1 p.2))) s.hbm.seals i

/-- Sector `i` is stored under another key than the one it is read with (R380, R389). -/
def State.shut (s : State) (i : Nat) : Bool :=
  s.hbm.base.isSome && decide (32 * i < s.fuses.hbmSize) && s.sealKey i != s.keyNow i

/-- What a sector that is stored under another key decrypts to (R380, R388, R389). -/
def State.mixed (s : State) (i : Nat) : List Byte :=
  let c := Config.xtsEnc (xtsPair (s.sealKey i)) (s.tweak i) (memGets s.mem (32 * i) 32)
  let d := Config.xtsDec (xtsPair (s.keyNow i)) (s.tweak i) c
  (List.range 32).map (fun j => d.getD j 0)

/-- The byte that memory holds at an address, decrypted. -/
def State.stored (s : State) (a : Nat) : Byte :=
  if s.shut (a / 32) then (s.mixed (a / 32)).getD (a % 32) 0 else memGet s.mem a

/-- A sector that is written in part is read, decrypted, and stored under the key in force (R382, R389). -/
def State.openSector (s : State) (i : Nat) : State :=
  if s.shut i then
    { s with mem := memPuts s.mem (32 * i) (s.mixed i), hbm := { s.hbm with seals := Tbl.set s.hbm.seals i (s.keyNow i) } }
  else s

/-- Every sector that a write of `n` bytes at an address meets takes the key in force. -/
def State.openSectors (s : State) (a n : Nat) : State :=
  if s.hbm.base.isSome then
    (List.range ((a + n + 31) / 32 - a / 32)).foldl (fun (s : State) (i : Nat) => s.openSector (a / 32 + i)) s
  else s

/-- From the first change of a key, region or mapping on, the mapping, regions and keys that what is stored was written under
are kept (log entry 25). -/
def State.sealBase (s : State) : State :=
  if s.hbm.base.isSome || s.sec.hbm == [] then s
  else { s with hbm := { s.hbm with base := some { map := s.hbm.map, kr := s.hbm.kr, keys := s.sec.hbm } } }

/-- The 64 B units whose metadata hold a set poison bit, by their device-local addresses, with stack and line (R386). -/
def State.sickUnits (s : State) : List (Nat × Nat × Nat) :=
  s.hbm.sick.map (fun (e : Nat × Nat) => (s.fuses.hbmAddr s.hbm.map e.1 (e.2 * 32) / 64 * 64, e.1, e.2 / 8))

end Sys2Proof.Machine
end

