-- ==== Sys2Proof/Machine/Ops.lean ====
section
/-! DEFINITION. The named operations over registers, time and memory. -/

namespace Sys2Proof.Machine

/-! ### Registers -/

/-- The reset value of a register word (the Reset column of its field table). -/
def Reg.resetWord (r : Reg) : Nat :=
  (Reg.fields r).foldl (fun a f => if f.w = Reg.word r then a + f.reset * 2 ^ f.lo else a) 0

/-- What the fuses put into a register that no table gives a fixed reset value (R529, R143, R392, R479). -/
def Fuses.word (u : Fuses) (r : Reg) : Nat :=
  match r with
  | .devIdent => (if u.a12 then 1 + 12 * 256 + 0x7777 * 65536 else 16 * 256 + 0xFFFF * 65536) + u.gear * 2 ^ 32
  | .devSerial0 => leAt u.serial 0 8
  | .devSerial1 => leAt u.serial 8 8
  | .devVersion => u.stepping
  | .devRepair => u.repaired
  | .fabRepair m => if bitN u.repaired m then 2 ^ FAB_REPAIR.REPAIRED.lo else 0
  | .portCfg p => if p = 16 ∨ p = 17 then 2 ^ PORT_CFG.HOSTCH.lo else 0
  | .hbmStat h => if u.a12 && h % 4 == 3 then 0 else 2 ^ HBM_STAT.FITTED.lo
  | .pwrCtrl => 0
  | .pwrStat => u.gear * 2 ^ PWR_STAT.FUSED.lo + u.gear * 2 ^ PWR_STAT.GEAR.lo
  | _ => 0

/-- The stored word of a register. -/
def State.rd (s : State) (r : Reg) : Word :=
  Tbl.get (BitVec.ofNat 64 (Reg.resetWord r + s.fuses.word r)) s.regs r

/-- Store a register word. -/
def State.wr (s : State) (r : Reg) (v : Word) : State := { s with regs := Tbl.set s.regs r v }

/-- A field of a register. -/
def State.f (s : State) (r : Reg) (F : Field) : Nat := fld (s.rd r).toNat F.hi F.lo

/-- Store a field of a register. -/
def State.setF (s : State) (r : Reg) (F : Field) (v : Nat) : State :=
  s.wr r (BitVec.ofNat 64 (setBits (s.rd r).toNat F.hi F.lo v))

/-- A one-bit field. -/
def State.bit (s : State) (r : Reg) (F : Field) : Bool := s.f r F == 1

/-- Add to a counter field that saturates. -/
def State.incSat (s : State) (r : Reg) (F : Field) (d : Nat := 1) : State :=
  s.setF r F (satAdd (F.hi + 1 - F.lo) (s.f r F) d)

/-- Add to a counter field that wraps. -/
def State.incWrap (s : State) (r : Reg) (F : Field) (d : Nat := 1) : State :=
  s.setF r F (wrapAdd (F.hi + 1 - F.lo) (s.f r F) d)

/-- Put registers back to their reset values (R463, R547). -/
def State.resetRegs (s : State) (p : Reg → Bool) : State := { s with regs := Tbl.clear s.regs p }

/-! ### Time -/

/-- Monotonic time in ns since power-up: 6.4 ns a reference period (R31). Every time limit that is not a tick edge
runs against it (log entry 6). -/
def State.now (s : State) : Nat := s.refs * 64 / 10

/-- One ns in units of the time base's internal count. -/
def tbUnit : Nat := 5 * 2 ^ 32

/-- The time base in ns (R311). -/
def State.tbNs (s : State) : Nat := s.tick.tb / tbUnit

/-- The 16-bit fraction of the time base. -/
def State.tbFrac (s : State) : Nat := s.tick.tb % tbUnit * 65536 / tbUnit

/-- The tick number of the last device edge (R314). -/
def State.tickNum (s : State) : Nat := s.f .stkNum STK_NUM.NUM

/-- A period of `ns` has passed since `start`. -/
def State.passed (s : State) (start ns : Nat) : Bool := decide (start + ns ≤ s.now)

/-! ### Free values -/

/-- Use one free value: the counter moves on (log entry 4). -/
def State.tickFree (s : State) : State := { s with free := s.free + 1 }

/-! ### Identity -/

/-- The device ID (R529). -/
def State.dev (s : State) : Nat := s.f .devId DEV_ID.DEVICE

/-- A device ID has been assigned (R41). -/
def State.devAssigned (s : State) : Bool := s.bit .devId DEV_ID.ASSIGNED

/-- A global unit ID of this device (R36). -/
def State.gid (s : State) (u : Nat) : Nat := s.dev * 65536 + u

/-! ### The address map (R37 to R39) -/

/-- A region of the device-local address map. -/
inductive Region where
  | hbm
  | weight (m : Nat)
  | act (m : Nat)
  | psum (sail : Nat)
  | cleat
  | sram
  | regs
  deriving DecidableEq, Repr

/-- Base of weight memory `m`. -/
def weightBase (m : Nat) : Nat := 0x020000000000 + m * 0x10000000
/-- Base of activation memory `m`. -/
def actBase (m : Nat) : Nat := 0x020100000000 + m * 0x04000000
/-- Base of the partial-sum memory of sail `s`. -/
def psumBase (s : Nat) : Nat := 0x020200000000 + s * 0x00100000
/-- Base of cleat memory. -/
def cleatBase : Nat := 0x020300000000
/-- Base of crowsnest SRAM. -/
def sramBase : Nat := 0x021000000000
/-- Used bytes of an activation memory. -/
def actSize : Nat := 0x03000000
/-- Used bytes of a weight memory. -/
def weightSize : Nat := 0x10000000
/-- Used bytes of a partial-sum memory. -/
def psumSize : Nat := 0x00040000

/-- The region that holds all of `n` bytes at `a`, and nothing where they leave a region or meet an unused part
(R37, R38). -/
def Fuses.region (u : Fuses) (a n : Nat) : Option Region :=
  let e := a + n
  if e ≤ u.hbmSize then some .hbm
  else if 0x020000000000 ≤ a ∧ a < 0x020080000000 then
    let m := (a - 0x020000000000) / 0x10000000
    if e ≤ weightBase m + weightSize then some (.weight m) else none
  else if 0x020100000000 ≤ a ∧ a < 0x020120000000 then
    let m := (a - 0x020100000000) / 0x04000000
    if e ≤ actBase m + actSize then some (.act m) else none
  else if 0x020200000000 ≤ a ∧ a < 0x020208000000 then
    let x := (a - 0x020200000000) / 0x00100000
    if e ≤ psumBase x + psumSize then some (.psum x) else none
  else if 0x020300000000 ≤ a ∧ e ≤ 0x0203000C0000 then some .cleat
  else if 0x021000000000 ≤ a ∧ e ≤ 0x021001000000 then some .sram
  else if 0x0F0000000000 ≤ a ∧ e ≤ 0x0F0100000000 then some .regs
  else none

/-- The mast a region belongs to. -/
def Region.mast : Region → Option Nat
  | .weight m => some m
  | .act m => some m
  | .psum x => some (x / 16)
  | _ => none

/-- A requester of memory: a unit of the device, or another device (R39). -/
inductive Requester where
  | unit (u : Nat)
  | remote
  deriving DecidableEq, Repr

/-- The requester is a unit of class `c`. -/
def Requester.isCls (q : Requester) (c : Nat) : Bool :=
  match q with
  | .unit u => u / 4096 % 16 == c
  | .remote => false

/-- First byte of the crash dump region: the top 4 GiB of HBM (R494). -/
def Fuses.dumpBase (u : Fuses) : Nat := u.hbmSize - 0x100000000

/-- Power state of a mast: 0 ACTIVE, 1 IDLE, 2 SLEEP (R472). -/
def State.mastPower (s : State) (m : Nat) : Nat := fld (s.rd .pwrStat).toNat (2 * m + 5) (2 * m + 4)

/-- HBM is unusable: training failed or is not done (R391), or it is in self-refresh (R473). -/
def State.hbmStatus (s : State) : Status :=
  if (List.range 16).any (fun h => s.bit (.hbmStat h) HBM_STAT.FITTED && !s.bit (.hbmStat h) HBM_STAT.TRAINED)
  then .unsupported
  else if s.bit (.hbmStat 0) HBM_STAT.SELFREF then .busy
  else .done

/-- Some byte of the range lies in a key region whose key slot holds no key (R389). -/
def State.krDenied (s : State) (a n : Nat) : Bool :=
  s.hbm.kr.any (fun (r : Nat × Nat × Nat) => decide (a < r.2.1 + r.2.2) && decide (r.2.1 < a + n) && !s.hbm.keys.contains r.1)

/-- A byte of the partial-sum memory of sail `x` lies in the tile slots of a macro-instruction that executes there (R85). -/
def State.slotHeld (s : State) (x a : Nat) : Bool :=
  s.bit (.sailStat (x / 16) (x % 16)) SAIL_STAT.BUSY &&
  decide (a < psumBase x + 16384 * s.f (.sailStat (x / 16) (x % 16)) SAIL_STAT.RESIDENT)

/-- The check of an access of `n` bytes (R38, R39, R85, R391, R473, R494). An access to the memory of a mast in SLEEP,
which the spec gives no status for, is UNSUPPORTED (DESIGN CHOICE, log entry 7). -/
def State.access (s : State) (q : Requester) (write : Bool) (a n : Nat) : Status :=
  match s.fuses.region a n with
  | none => .outOfBounds
  | some r =>
    let asleep := match r.mast with
      | some m => s.mastPower m == 2
      | none => false
    match r with
    | .hbm =>
      if s.hbmStatus = .unsupported then .unsupported
      else if s.fuses.dumpBase < a + n ∧ ¬ q.isCls 9 then .denied
      else if s.krDenied a n then .denied else s.hbmStatus
    | .weight _ =>
      if q = .remote then .denied
      else if write && !(q.isCls 4 || q.isCls 11) then .denied
      else if asleep then .unsupported else .done
    | .act _ => if asleep then .unsupported else .done
    | .psum x => if asleep then .unsupported
      else if (List.range (n / 16384 + 2)).any (fun i => s.slotHeld x (min (a + 16384 * i) (a + (n - 1)))) then .busy
      else .done
    | .cleat => if q.isCls 11 then .done else .denied
    | .sram => if q.isCls 9 || q.isCls 10 || q.isCls 11 then .done else .denied
    | .regs => .denied

/-! ### Memory -/

/-- Bytes that share one poison bit: a 64 B line on the die, and the 64 B that holds two sectors of HBM (R197, R215,
R386). -/
def poisonSize : Nat := 64

/-- The base of the poison unit at an address. -/
def poisonUnit (a : Nat) : Nat := a / poisonSize * poisonSize

/-- The byte a tracked write in flight will leave at `a`, if one covers it: a read that overlaps it stalls until it is
accepted and returns its data (R190). -/
def flightByte (ws : List TrackedWrite) (a : Nat) (b : Byte) : Byte :=
  ws.foldl (fun b w => if !w.waiting && decide (w.addr ≤ a) && decide (a < w.addr + w.data.length)
    then w.data.getD (a - w.addr) 0 else b) b

/-- One byte as a read returns it. -/
def State.byte (s : State) (a : Nat) : Byte := flightByte s.chip.writes a (s.stored a)

/-- `n` bytes as a read returns them. -/
def State.bytes (s : State) (a : Nat) : Nat → List Byte
  | 0 => []
  | n + 1 => s.byte a :: State.bytes s (a + 1) n

/-- A little-endian number of `n` bytes in memory. -/
def State.num (s : State) (a n : Nat) : Nat := leNat (s.bytes a n)

/-- A slice holds the fill of a stack-local line: its data and poison come from the slice (R210). -/
def State.lineHeld (s : State) (h line : Nat) : Bool :=
  (Tbl.get {} s.hbm.slices h).sets.any (fun e => e.2.ways.any (fun w => w.line == line && w.filled))

/-- Some poisoned unit meets the `n` bytes at `a` (R197, R386): one of the die or of a slice, or one of a stack that no slice
holds. -/
def State.poisonedAt (s : State) (a n : Nat) : Bool :=
  s.poison.any (fun u => decide (u < a + n) && decide (a < u + poisonSize)) ||
  s.sickUnits.any (fun e => decide (e.1 < a + n) && decide (a < e.1 + poisonSize) && !s.lineHeld e.2.1 e.2.2) ||
  s.chip.writes.any (fun w => !w.waiting && w.bad.any (fun u => decide (u < a + n) && decide (a < u + poisonSize)))

/-- The poison units that `n` bytes at `a` meet, by their bases. -/
def unitsOf (a n : Nat) : List Nat := (List.range ((a + n + 63) / 64 - a / 64)).map (fun i => 64 * (a / 64 + i))

/-- The poison bits after a write of `n` bytes at `a`, for the units from `u` on, `p` saying of a unit whether its data is
poisoned: a whole unit takes the poison of the data, a part of one the OR (R197). -/
def poisonAfter (ps : List Nat) (a n : Nat) (p : Nat → Bool) : Nat → Nat → List Nat
  | 0, _ => ps
  | k + 1, u =>
    if a + n ≤ u then ps
    else
      let ps := if p u then setIns ps u
        else if a ≤ u ∧ u + poisonSize ≤ a + n then setDel ps u else ps
      poisonAfter ps a n p k (u + poisonSize)

/-- The poison bits that sectors of HBM keep after a write of `n` bytes at `a`: a whole unit without poison clears both
(R386). -/
def State.sickAfter (s : State) (a n : Nat) (p : Nat → Bool) : List (Nat × Nat) :=
  s.hbm.sick.filter (fun (e : Nat × Nat) =>
    let u := s.fuses.hbmAddr s.hbm.map e.1 (e.2 * 32) / 64 * 64
    p u || !(decide (a ≤ u) && decide (u + poisonSize ≤ a + n)))

/-- A bank performs a write of data whose poison `p` gives unit by unit: the bytes and the poison bits change, and the merge
windows of its lines close (R179, R192, R197). -/
def State.putU (s : State) (a : Nat) (d : List Byte) (p : Nat → Bool) : State :=
  if d = [] then s else
  { s with mem := memPuts (s.openSectors a d.length).mem a d
           hbm := { (s.openSectors a d.length).hbm with sick := s.sickAfter a d.length p }
           poison := poisonAfter s.poison a d.length p (d.length / 64 + 2) (poisonUnit a)
           chip := { s.chip with
             merges := s.chip.merges.filter (fun w => decide (w.line < a / 64) || decide ((a + d.length + 63) / 64 ≤ w.line)) } }

/-- A bank performs a write of data with one poison bit. -/
def State.put (s : State) (a : Nat) (d : List Byte) (p : Bool) : State := s.putU a d (fun _ => p)

/-! ### The range scoreboard (R189 to R193) -/

/-- The lines of a tracked write meet `n` bytes at `a` (R190). -/
def TrackedWrite.meets (w : TrackedWrite) (a n : Nat) : Bool :=
  decide (a < (w.addr + w.data.length + 63) / 64 * 64) && decide (w.addr / 64 * 64 < a + n)

/-- A tracked write is accepted: it becomes visible, and a writer that waits for it hears of it (R192). -/
def State.acceptOne (s : State) (w : TrackedWrite) : State :=
  let s := s.putU w.addr w.data w.bad.contains
  if w.report then { s with chip := { s.chip with results := Tbl.set s.chip.results w.unit {} } } else s

/-- Every tracked write that holds an entry is accepted, in order; the writes that wait for an entry stay (R190, R192). -/
def State.acceptHeld (s : State) : State :=
  (s.chip.writes.filter (fun w => !w.waiting)).foldl State.acceptOne
    { s with chip := { s.chip with writes := s.chip.writes.filter (fun w => w.waiting) } }

/-- The oldest writes that wait at a full scoreboard take the entries that are free (R190). -/
def admitWrites : List TrackedWrite → (Nat → Nat) → List TrackedWrite
  | [], _ => []
  | w :: l, used =>
    if !w.waiting then w :: admitWrites l used
    else if used w.mast < 64 then { w with waiting := false } :: admitWrites l (fun m => if m = w.mast then used m + 1 else used m)
    else w :: admitWrites l used

/-- Entries the scoreboard of a mast holds. -/
def State.sbUsed (s : State) (m : Nat) : List TrackedWrite := s.chip.writes.filter (fun w => w.mast == m && !w.waiting)

/-- The entries that are free pass to the writes that wait (R190). -/
def State.passEntries (s : State) : State :=
  { s with chip := { s.chip with writes := admitWrites s.chip.writes (fun m => (s.sbUsed m).length) } }

/-- The tracked writes that hold entries are accepted, and the writes that wait take their entries (R190, R192). -/
def State.acceptWrites (s : State) : State := s.acceptHeld.passEntries

/-- Perform a write of bytes that has passed its checks and is not tracked, `p` giving its poison unit by unit: at its banks an
older write to the same lines comes first (R177), and it is accepted here (R192). -/
def State.storeU (s : State) (a : Nat) (d : List Byte) (p : Nat → Bool) : State :=
  (if s.chip.writes.any (fun w => !w.waiting && w.meets a d.length) then s.acceptWrites else s).putU a d p

/-- Perform a write that is not tracked, of data with one poison bit. -/
def State.store (s : State) (a : Nat) (d : List Byte) (p : Bool) : State := s.storeU a d (fun _ => p)

/-- Writes of a unit are tracked: fairleads, tackles, the loader and crowsnest of this device, and every unit of another
device (R189). -/
def trackedUnit (own : Bool) (unit : Nat) : Bool :=
  !own || [3, 4, 9, 11].contains (unit / 4096 % 16)

/-- Perform a tracked write: an entry of its mast's scoreboard is installed, or the write waits for one (R190). A write
behind one of its own unit that waits, waits too (R193). -/
def State.track (s : State) (m dev unit a : Nat) (d : List Byte) (bad : List Nat) (report : Bool) : State :=
  let w : TrackedWrite := {
    mast := m, addr := a, data := d, bad := bad, unit := unit, dev := dev, report := report
    waiting := decide (64 ≤ (s.sbUsed m).length) ||
      s.chip.writes.any (fun x => x.waiting && x.unit == unit && x.dev == dev && x.meets a d.length) }
  { s with chip := { s.chip with writes := s.chip.writes ++ [w] } }

/-- Clear every byte and every poison bit in `[a, a + n)` (R198). -/
def State.wipe (s : State) (a n : Nat) : State :=
  { s with mem := memClear (s.openSectors a n).mem (fun x => decide (a ≤ x) && decide (x < a + n))
           hbm := { (s.openSectors a n).hbm with sick := s.sickAfter a n (fun _ => false) }
           poison := s.poison.filter (fun u => !(decide (a ≤ u) && decide (u < a + n))) }

/-! ### Global addresses (R40) -/

/-- The device a global address names. -/
def gDev (g : Nat) : Nat := g / 2 ^ 47 % 2 ^ 17
/-- The device-local part of a global address. -/
def gLocal (g : Nat) : Nat := g % 2 ^ 47

/-- The global address names this device (R40). -/
def State.isLocal (s : State) (g : Nat) : Bool := gDev g == s.dev

/-! ### Sections and steps -/

/-- The section bound to a mast, if the mast runs one (R315). -/
def State.mastSection (s : State) (m : Nat) : Option Nat :=
  if s.bit (.stkMast m) STK_MAST.VALID then some (s.f (.stkMast m) STK_MAST.SECTION) else none

/-- The masts bound to a section. -/
def State.sectionMasts (s : State) (sec : Nat) : List Nat :=
  (List.range 8).filter (fun m => s.mastSection m == some sec)

/-- The mast whose section a unit works for (R315: a fairlead belongs to the section of mast FL_STEP.MAST). -/
def State.workMast (s : State) (u : Nat) : Option Nat :=
  if u / 4096 % 16 = 4 then some (s.f (.flStep (u % 4096)) FL_STEP.MAST) else unitMast u

/-- The section a unit works for; 0xFF: none. -/
def State.unitSection (s : State) (u : Nat) : Nat :=
  match s.workMast u with
  | some m => (s.mastSection m).getD 0xFF
  | none => 0xFF

/-- The step state of a section. -/
def State.stepOf (s : State) (sec : Nat) : StepSt := Tbl.get {} s.tick.steps sec

/-- Store the step state of a section. -/
def State.setStep (s : State) (sec : Nat) (x : StepSt) : State :=
  { s with tick := { s.tick with steps := Tbl.set s.tick.steps sec x } }

/-- The unit that reports for a unit: an edge port or a sheave reports through its mast's fabric, a sail through its
mast's tile sequencer (R316). -/
def reporterOf (u : Nat) : Nat :=
  match u / 4096 % 16 with
  | 1 => uSeq (u % 4096 / 16)
  | 12 => if u % 4096 < 512 then uSheave (256 * (u % 4096 / 64)) else u
  | 0 => uSheave (256 * (u % 4096 / 256))
  | _ => u

/-- The end-of-step reports of a unit that are on their way to the tick logic and were issued by time `t` (R316). -/
def State.reported (s : State) (u t : Nat) : Nat :=
  (s.tick.reports.filter (fun r => r.1 == u && decide (r.2 ≤ t))).length

/-- The oldest step of its section that a unit is still in: each report on its way ends one (R316). -/
def State.openOf (s : State) (u : Nat) : Option OpenStep :=
  match (s.workMast u).bind s.mastSection with
  | some sec =>
    let r := reporterOf u
    (((s.stepOf sec).opens.filter (fun o => o.missing.contains r)).drop (s.reported r s.tbNs)).head?
  | none => none

/-- A unit executes a step of its section: an edge has started it and it has not reported (R98, R146, R207, R228, R316). -/
def State.stepping (s : State) (u : Nat) : Bool := (s.openOf u).isSome

/-- The tick number a unit's records carry: the k of the section edge that started its step (R315). -/
def State.unitTick (s : State) (u : Nat) : Nat :=
  match s.openOf u with
  | some o => o.k % 2 ^ 32
  | none => match (s.workMast u).bind s.mastSection with
    | some sec => (s.stepOf sec).k % 2 ^ 32
    | none => s.tickNum

/-- Everything the unit issues is marked: its step has overrun and it has not reported (R318). -/
def State.marked (s : State) (u : Nat) : Bool :=
  match s.openOf u with
  | some o => o.mark
  | none => false

/-- Some tracked write of a unit is not accepted. -/
def State.unsettled (s : State) (dev unit : Nat) : Bool := s.chip.writes.any (fun w => w.unit == unit && w.dev == dev)

/-- The unit waits until every write it has issued is accepted (R192, R194): entries pass to waiting writes as they come
free. -/
def State.settleN (s : State) (dev unit : Nat) : Nat → State
  | 0 => s
  | k + 1 => if s.unsettled dev unit then State.settleN s.acceptWrites dev unit k else s

/-- The unit waits for its own writes; each round accepts one at least. -/
def State.settle (s : State) (dev unit : Nat) : State := s.settleN dev unit (s.chip.writes.length + 1)

/-- A unit that writes inside its command waits for an entry of the scoreboard of mast `m`: while none is free, the writes that
hold them are accepted, the oldest waiting writes taking their places (R190, R191). -/
def State.makeRoomN (s : State) (m : Nat) : Nat → State
  | 0 => s
  | k + 1 => if 64 ≤ (s.sbUsed m).length then State.makeRoomN s.acceptWrites m k else s

/-- The unit waits for an entry; each round accepts one write at least. -/
def State.makeRoom (s : State) (m : Nat) : State := s.makeRoomN m (s.chip.writes.length + 1)

/-- The SL_SEC entry of a section, if it is loaded (R427, R444). -/
def State.secEntry (s : State) (sec : Nat) : Option Nat :=
  (List.range 8).find? (fun i => s.bit (.slSec i 0) SL_SEC.VALID && s.f (.slSec i 0) SL_SEC.SECTION == sec)

/-- Section states (R428, SL_SEC.STATE). -/
def secLoading : Nat := 0
def secLoaded : Nat := 1
def secRunning : Nat := 2
def secSuspending : Nat := 3
def secSuspended : Nat := 4
def secHalted : Nat := 5
def secAborted : Nat := 6

/-- The state of a loaded section. -/
def State.secState (s : State) (sec : Nat) : Option Nat := (s.secEntry sec).map (fun i => s.f (.slSec i 0) SL_SEC.STATE)

/-- The SL_SEC entry whose section occupies a mast (R444). -/
def State.mastEntry (s : State) (m : Nat) : Option Nat :=
  (List.range 8).find? (fun i => s.bit (.slSec i 0) SL_SEC.VALID && bitN (s.f (.slSec i 0) SL_SEC.MASTS) m)

/-- A section is in the scope of the abort that is running (R416). -/
def State.aborting (s : State) (sec : Nat) : Bool := s.bit .abtStat ABT_STAT.ACTIVE && s.abt.scope.contains sec

/-- Core cycles in 100 reference periods at the gear in force (R5, R31). -/
def State.coreRate (s : State) : Nat :=
  match s.f .pwrStat PWR_STAT.GEAR with
  | 0 => 2560
  | 1 => 2304
  | _ => 2048

/-- Cycles of a clock that end in the present reference period, of `rate` in 100 periods. -/
def State.cyclesNow (s : State) (rate : Nat) : Nat := rate * (s.refs + 1) / 100 - rate * s.refs / 100

/-- The core clock of a mast runs (R472, R476). -/
def State.mastClocked (s : State) (m : Nat) : Bool := s.mastPower m == 0 && !s.bit .pwrStat PWR_STAT.STOPPED

/-- The engines of a mast issue: its clock runs, and the section that occupies it is running, or suspends and its sources
have not stopped (R472, R476, R99, R147, R229, R416, R438). -/
def State.mastRuns (s : State) (m : Nat) : Bool :=
  s.mastClocked m &&
  (match s.mastEntry m with
  | none => true
  | some i =>
    let sec := s.f (.slSec i 0) SL_SEC.SECTION
    let st := s.f (.slSec i 0) SL_SEC.STATE
    !s.aborting sec && (st == secRunning || (st == secSuspending && !(Tbl.get {} s.secs sec).stopped)))

/-- The engine has an operation that waits for remote acknowledgements. -/
def State.engPending (s : State) (k : EngKey) : Bool := s.net.pends.any (fun p => p.fin.key == k)

/-- The seed of the section a unit works for (R61). -/
def State.seedOf (s : State) (u : Nat) : Nat :=
  match (s.workMast u).bind s.mastSection with
  | some sec => (Tbl.get {} s.secs sec).seed
  | none => 0

end Sys2Proof.Machine
end

