-- ==== Sys2Proof/Machine/Slices.lean ====
section
/-! DEFINITION. The lines of a stack with the places they lie at, and lookups in the stream-cache slices: allocation, eviction, pins, the
miss queue (07_fairleads.md R210 to R214, 14_hbm.md R377 to R381). -/

namespace Sys2Proof.Machine

/-! ### Lines (R381) -/

/-- Stack and stack-local line of an HBM address under the mapping in force. -/
def State.hbmLine (s : State) (a : Nat) : Nat × Nat :=
  let p := s.fuses.hbmPlace s.hbm.map a
  (p.1, p.2 / 256)

/-- The first device-local address of a stack-local line. -/
def State.lineAddr (s : State) (h line : Nat) : Nat := s.fuses.hbmAddr s.hbm.map h (line * 256)

/-- Where the controller places a stack-local line (R381). -/
structure LinePlace where
  channel : Nat
  column : Nat
  group : Nat
  bank : Nat
  sid : Nat
  row : Nat
  deriving DecidableEq, Repr

/-- The place of stack-local line `line` (R381). -/
def placeOfLine (line : Nat) : LinePlace :=
  let u := line / 32
  { channel := ((line % 32) ^^^ (line / 32 % 32)) ^^^ (line / 1024 % 32)
    column := u % 4, group := u / 4 % 4, bank := u / 16 % 4, sid := u / 64 % 4, row := u / 256 }

/-- The number of a line's bank among the 2,048 of its stack. -/
def bankOfLine (line : Nat) : Nat :=
  let p := placeOfLine line
  p.channel * 64 + p.sid * 16 + p.bank * 4 + p.group

/-! ### Slices -/

/-- Slice `h`. -/
def State.slice (s : State) (h : Nat) : Slice := Tbl.get {} s.hbm.slices h
/-- Store slice `h`. -/
def State.setSlice (s : State) (h : Nat) (x : Slice) : State :=
  { s with hbm := { s.hbm with slices := Tbl.set s.hbm.slices h x } }
/-- The set of a line (R211). -/
def setOf (line : Nat) : Nat := ((line ^^^ (line / 2 ^ 13)) ^^^ (line / 2 ^ 26)) % 8192
/-- A set of a slice. -/
def Slice.set (x : Slice) (i : Nat) : ScSet := Tbl.get {} x.sets i
/-- Store a set. -/
def Slice.setSet (x : Slice) (i : Nat) (y : ScSet) : Slice := { x with sets := Tbl.set x.sets i y }
/-- A line of a slice, if it is present. -/
def Slice.find (x : Slice) (line : Nat) : Option ScLine := (x.set (setOf line)).ways.find? (fun w => w.line == line)
/-- Update the way that holds a line. -/
def Slice.upd (x : Slice) (line : Nat) (f : ScLine → ScLine) : Slice :=
  let y := x.set (setOf line)
  x.setSet (setOf line) { y with ways := y.ways.map (fun w => if w.line == line then f w else w) }
/-- Append a request to the miss queue. The queue is the first 256 requests of the list; a request behind them waits to
enter it, in arrival order (R214, R217). -/
def Slice.push (x : Slice) (r : MissReq) : Slice := { x with miss := x.miss ++ [r] }

/-- Point the tree of a set away from a way (`away`), or at it: node i has children 2i and 2i + 1, way w is leaf 16 + w, a
set bit sends the search to the upper half (R212). -/
def plruTouch (bits way : Nat) (away : Bool) : Nat :=
  [(1, way / 8 % 2), (2 + way / 8, way / 4 % 2), (4 + way / 4, way / 2 % 2), (8 + way / 2, way % 2)].foldl
    (fun (b : Nat) (n : Nat × Nat) => setBits b n.1 n.1 (if away then 1 - n.2 else n.2)) bits

/-- The way the tree chooses among those `ok`, from a node down. -/
def plruPick (bits : Nat) (ok : Nat → Bool) : Nat → Nat → Nat → Nat
  | 0, _, lo => lo
  | k + 1, node, lo =>
    let half := 2 ^ k
    let upOk := (List.range half).any (fun i => ok (lo + half + i))
    let loOk := (List.range half).any (fun i => ok (lo + i))
    if (bitN bits node && upOk) || !loOk then plruPick bits ok k (2 * node + 1) (lo + half)
    else plruPick bits ok k (2 * node) lo

/-- The way a missed line takes: an invalid one, else the tree's choice among ways that are not pinned (R212). -/
def ScSet.victim (y : ScSet) : Nat :=
  match (List.range 16).find? (fun w => !y.ways.any (fun l => l.way == w)) with
  | some w => w
  | none => plruPick y.plru (fun w => y.ways.any (fun l => l.way == w && l.pin.isNone)) 4 1 0

/-- Allocate a missed line; a dirty victim is written back (R212). -/
def Slice.alloc (x : Slice) (l : ScLine) : Slice :=
  let i := setOf l.line
  let y := x.set i
  let v := y.victim
  let old := y.ways.find? (fun w => w.way == v)
  let x := match old with
    | some o => if o.dirty then x.push { kind := .writeBack, line := o.line, slot := o.slot } else x
    | none => x
  let y : ScSet := { ways := y.ways.filter (fun w => w.way != v) ++ [{ l with way := v }], plru := plruTouch y.plru v true }
  x.setSet i y

/-- The set of a line has as many pinned ways as it may (R213). -/
def State.pinFull (s : State) (h line : Nat) : Bool :=
  decide (12 ≤ (((s.slice h).set (setOf line)).ways.filter (·.pin.isSome)).length)

/-- A line request at a slice (R212): `kind` 0 read, 1 partial write, 2 whole-line write, 3 write of part of a sector; `pol` 0
ALLOC, 1 STREAM, 2 BYPASS; a prefetch names its fairlead and stream, and pins a line that it brings in (R213). A line that it
allocates or forwards keeps the key slot of its address (R389). Answers whether the request has what it needs. -/
def State.scLookup (s : State) (h line kind pol : Nat) (prefetch : Option (Nat × Nat)) : Bool × State :=
  let x := s.slice h
  let slot := slotOf s.hbm.kr (s.lineAddr h line)
  match x.find line with
  | some l =>
    let s := s.incWrap (.scHits h) SC_HITS.ALL
    let x := x.upd line (fun w => { w with dirty := w.dirty || kind != 0, filled := w.filled || kind == 2 })
    let y := x.set (setOf line)
    (l.filled || kind != 0, s.setSlice h (x.setSet (setOf line) { y with plru := plruTouch y.plru l.way true }))
  | none =>
    let s := s.incWrap (.scMisses h) SC_MISSES.ALL
    if pol = 2 then
      (kind != 0, s.setSlice h (x.push
        { kind := if kind = 0 then .bypassRead else .bypassWrite, line := line, slot := slot, part := kind == 3 }))
    else
      let x := x.alloc { way := 0, line := line, dirty := kind != 0, filled := kind == 2, slot := slot, pin := prefetch }
      let x := if kind = 2 then x else x.push { kind := .fill, line := line, slot := slot }
      (kind != 0, s.setSlice h x)

/-- A stream has delivered a line: a pin of that stream is released (R213). -/
def State.scDelivered (s : State) (who : Nat × Nat) (h line : Nat) : State :=
  s.setSlice h ((s.slice h).upd line (fun w => if w.pin = some who then { w with pin := none } else w))

/-- The last delivery of a line of a STREAM descriptor is over: it is the next victim of its set (R212). -/
def State.scLast (s : State) (h line : Nat) : State :=
  let x := s.slice h
  match x.find line with
  | some l =>
    let y := x.set (setOf line)
    s.setSlice h (x.setSet (setOf line) { y with plru := plruTouch y.plru l.way false })
  | none => s

/-- The lines of HBM that `n` bytes at an address meet, as stack, line and how they cover it: 2 the whole line, 1 whole sectors
of it, 3 some sector in part. -/
def State.hbmLines (s : State) (a n : Nat) : List (Nat × Nat × Nat) :=
  (List.range ((a + n + 255) / 256 - a / 256)).map (fun i =>
    let b := (a / 256 + i) * 256
    let p := s.hbmLine b
    (p.1, p.2, if a ≤ b ∧ b + 256 ≤ a + n then 2
      else if max a b % 32 = 0 ∧ min (a + n) (b + 256) % 32 = 0 then 1 else 3))

/-- An access to HBM passes the slices of its lines, one lookup a line (R210, R212); `kind` says of which kind,
by how it covers the line. Another unit than a fairlead names no policy: its lookups are ALLOC (log entry
71). -/
def State.scWalk (s : State) (a n pol : Nat) (kind : Nat → Nat) : State :=
  if a < s.fuses.hbmSize then
    (s.hbmLines a n).foldl (fun (s : State) (l : Nat × Nat × Nat) => (s.scLookup l.1 l.2.1 (kind l.2.2) pol none).2) s
  else s

/-- A read or a write of HBM passes the slices of its lines. -/
def State.scPass (s : State) (a n pol : Nat) (write : Bool) : State :=
  s.scWalk a n pol (fun cover => if write then cover else 0)

/-- An accumulation in HBM passes the slices of its lines: it reads each line that it writes, so a miss fetches it (R325). -/
def State.scAccum (s : State) (a n : Nat) : State := s.scWalk a n 0 (fun _ => 1)

end Sys2Proof.Machine
end

