-- ==== Sys2Proof/Machine/Access.lean ====
section
/-! DEFINITION. How the units of the device read and write memory: the range scoreboard, merging at the banks, lookups at the
slices of HBM, writes with a poison bit per byte (06_onchip_memory.md R179, R189 to R193, 07_fairleads.md R210). -/

namespace Sys2Proof.Machine

/-! ### Reads -/

/-- The lines of `n` bytes at `a`. -/
def linesOf (a n : Nat) : List Nat := (List.range ((a + n + 63) / 64 - a / 64)).map (· + a / 64)

/-- The mast memories, where the scoreboard and the banks are. -/
def Region.chip : Region → Bool
  | .weight _ => true
  | .act _ => true
  | .psum _ => true
  | _ => false

/-- The bank of a line, named by a number that no other bank has (R170). -/
def bankOf (line : Nat) : Nat :=
  let a := 64 * line
  if a < 0x020080000000 then line / 2 ^ 22 * 2 ^ 22 + line % 128
  else if a < 0x020120000000 then line / 2 ^ 20 * 2 ^ 20 + line % 64
  else line / 2 ^ 14 * 2 ^ 14 + line % 8

/-- A bank reads a line: inside the merge window of its last read of that line it may be served from that access (R179).
A window lasts 4 cycles, so it can reach into the next reference period; whether a read falls inside it is a free bit (log
entry 18). -/
def State.mergeRead (s : State) (m line : Nat) : State :=
  let b := bankOf line
  match s.chip.merges.find? (fun w => w.bank == b) with
  | some w =>
    if w.line = line ∧ s.refs ≤ w.start + 1 ∧ Config.freeBit s.free then (s.tickFree).incWrap (.memMerged m) MEM_MERGED.ALL
    else
      let ms := s.chip.merges.map (fun x => if x.bank = b then { x with line := line, start := s.refs } else x)
      State.tickFree { s with chip := { s.chip with merges := ms } }
  | none => { s with chip := { s.chip with merges := s.chip.merges ++ [{ bank := b, line := line, start := s.refs }] } }

/-- The banks of the mast memories serve the lines of a request (R179); other regions have no such banks. -/
def State.bankReads (s : State) (ls : List Nat) : State :=
  ls.foldl (fun s l =>
    match s.fuses.region (64 * l) 1 with
    | some r => if r.chip then s.mergeRead (r.mast.getD 0) l else s
    | none => s) s

/-- A read inside a command of a unit of a device reaches the front-ends (R179, R190): where it overlaps an entry of the
scoreboard, or a write of its own unit that waits for one (R193), it stalls until that write is accepted, the stalled cycles
being a free number; its lines are then read at the banks, or at the slices of HBM (R210). -/
def State.readFrom (s : State) (dev u : Nat) (rs : List (Nat × Nat)) : State :=
  let hit (w : TrackedWrite) : Bool := (!w.waiting || (w.unit == u && w.dev == dev)) && rs.any (fun r => w.meets r.1 r.2)
  let hits := s.chip.writes.filter hit
  let ms := (hits.map (fun w => w.mast)).eraseDups
  let s := if ms = [] then s else
    (ms.foldl (fun (s : State) (m : Nat) => s.incWrap (.memSbStall m) MEM_SB_STALL.ALL (1 + Config.freeNat s.free)) s).acceptWrites.tickFree
  let s := if hits.any (·.waiting) then s.settle dev u else s
  let s := s.bankReads (rs.flatMap (fun r => linesOf r.1 r.2)).eraseDups
  rs.foldl (fun s r => s.scPass r.1 r.2 0 false) s

/-- A read inside a command of a unit of this device. What it returns is `State.bytes` of the same bytes afterwards, and before
too where no write of the unit waits for an entry. -/
def State.readPass (s : State) (u : Nat) (rs : List (Nat × Nat)) : State := s.readFrom s.dev u rs

/-- An engine reads the command it issues next, unless it has it already and waits (R190). -/
def State.fetchPass (s : State) (u : Nat) (have_ : Bool) (a n : Nat) : State := if have_ then s else s.readPass u [(a, n)]

/-! ### Writes -/

/-- A write of `d` at `a` by a unit of a device that has passed its lookups, `p` giving its poison unit by unit: in the mast
memories it is tracked where its unit's writes are (R189), and the unit waits inside its command for an entry of the
scoreboard (R190, R191). -/
def State.storeRaw (s : State) (dev unit a : Nat) (d : List Byte) (p : Nat → Bool) : State :=
  match (s.fuses.region a d.length).bind Region.mast with
  | some m =>
    if trackedUnit (dev == s.dev) unit && d != [] then
      (s.makeRoom m).track m dev unit a d ((unitsOf a d.length).filter p) false
    else s.storeU a d p
  | none => s.storeU a d p

/-- A write by a unit of a device. -/
def State.storeFrom (s : State) (dev unit a : Nat) (d : List Byte) (p : Bool) : State :=
  (s.scPass a d.length 0 true).storeRaw dev unit a d (fun _ => p)

/-- A write by a unit, marked under R318. -/
def State.storeBy (s : State) (u a : Nat) (d : List Byte) (p : Bool) : State :=
  s.storeFrom s.dev u a d (p || s.marked u)

/-- Merge consecutive cells at rising addresses into runs. -/
def coalesce : List (Nat × Byte × Bool) → List (Nat × List (Byte × Bool))
  | [] => []
  | (a, b, p) :: l =>
    match coalesce l with
    | (a', r) :: rs => if a' = a + 1 then (a, (b, p) :: r) :: rs else (a, [(b, p)]) :: (a', r) :: rs
    | [] => [(a, [(b, p)])]

/-- Some byte of a run at `a` that lies in the poison unit at `u` is poisoned. -/
def runBad (a : Nat) (d : List (Byte × Bool)) (u : Nat) : Bool :=
  ((d.drop (u - a)).take (u + poisonSize - max u a)).any (·.2)

/-- Write a run of a unit of a device in requests of at most 4 KiB, one entry of the scoreboard each (R190), each poison unit
with the OR of the poison of its bytes; the writes of this device are marked under R318. -/
def State.storeRun (s : State) (dev u : Nat) : Nat → Nat → List (Byte × Bool) → State
  | 0, _, _ => s
  | k + 1, a, d =>
    if d = [] then s else
    let h := d.take 4096
    State.storeRun (s.storeRaw dev u a (h.map (·.1)) (fun x => runBad a h x || (dev == s.dev && s.marked u)))
      dev u k (a + 4096) (d.drop 4096)

/-- A unit writes a run of bytes under a cache policy. -/
def State.storeBytes (s : State) (u a : Nat) (d : List (Byte × Bool)) (pol : Nat) : State :=
  (s.scPass a d.length pol true).storeRun s.dev u (d.length + 1) a d

/-- A run of bytes that a unit of a device sends lands here, and is accepted (R189, R192, R362). -/
def State.landBytes (s : State) (dev u a : Nat) (d : List (Byte × Bool)) : State :=
  ((s.scPass a d.length 0 true).storeRun dev u (d.length + 1) a d).settle dev u

/-- Write cells of bytes by a unit. -/
def State.storeCells (s : State) (u : Nat) (cs : List (Nat × Byte × Bool)) : State :=
  (coalesce cs).foldl (fun s r => s.storeBytes u r.1 r.2 0) s

/-- The poison mask of a run of bytes (R353). -/
def runMask (d : List (Byte × Bool)) : Nat :=
  maskOf ((d.length + 63) / 64) (fun i => ((d.drop (64 * i)).take 64).any (·.2))

end Sys2Proof.Machine
end

