-- ==== Sys2Proof/Machine/NetOps.lean ====
section
/-! DEFINITION. Sending frames: connections, sequence numbers, remote operations (13_ghenko_ethernet.md) and the event
log with its EVENT messages (19_faults_and_dump.md, 15_crowsnest_mailboxes.md R412). -/

namespace Sys2Proof.Machine

/-! ### Connections -/

/-- A field of connection entry `c`. -/
def State.cn (s : State) (c : Nat) (F : Field) : Nat := s.f (.cn c F.w) F

/-- Store a field of connection entry `c`. -/
def State.setCn (s : State) (c : Nat) (F : Field) (v : Nat) : State := s.setF (.cn c F.w) F v

/-- The dynamics of connection `c`. -/
def State.conn (s : State) (c : Nat) : Conn := Tbl.get {} s.net.conns c

/-- Store the dynamics of connection `c`. -/
def State.setConn (s : State) (c : Nat) (x : Conn) : State :=
  { s with net := { s.net with conns := Tbl.set s.net.conns c x } }

/-- The connection entries that have been written, in ascending order. -/
def State.cnList (s : State) : List Nat :=
  s.regs.foldl (fun l e => match e.1 with | .cn c 0 => setIns l c | _ => l) []

/-- Connection states (R359). -/
def cnIdle : Nat := 0
def cnOpening : Nat := 1
def cnOpen : Nat := 2
def cnClosing : Nat := 3
def cnLost : Nat := 4

/-- The OPEN connections with a device, in ascending order; a HOST entry carries only CONTROL (R358). -/
def State.openTo (s : State) (dev : Nat) : List Nat :=
  s.cnList.filter (fun c => s.cn c CN.STATE == cnOpen && s.cn c CN.HOST == 0 && s.cn c CN.PEER == dev)

/-- The OPEN HOST connections. -/
def State.hostConns (s : State) : List Nat :=
  s.cnList.filter (fun c => s.cn c CN.STATE == cnOpen && s.cn c CN.HOST == 1)

/-- The connection an operation of a unit for a device takes: the one of rank (unit ID) mod k (R358). -/
def State.connFor (s : State) (dev unit : Nat) : Option Nat :=
  let l := s.openTo dev
  if l = [] then none else l[unit % l.length]?

/-- The window limit of a connection (R360). -/
def State.connW (s : State) (c : Nat) : Nat := min (s.cn c CN.WIN) (s.conn c).peerWin

/-- Sequenced frames sent and not acknowledged. -/
def Conn.flight (x : Conn) (express : Bool) : Nat :=
  (x.unacked.filter (fun u => u.sentAt.isSome && (express || u.frame.queue != 0))).length

/-- Put a frame in its port's queues (R367). -/
def State.enqueue (s : State) (fr : TxFrame) : State := { s with net := { s.net with txq := s.net.txq ++ [fr] } }

/-- Types of frames (R353). -/
def tWrite : Nat := 1
def tReadReq : Nat := 2
def tReadResp : Nat := 3
def tRadd : Nat := 4
def tCleatOp : Nat := 5
def tHalyard : Nat := 6
def tDownhaul : Nat := 7
def tAck : Nat := 8
def tNak : Nat := 9
def tHeartbeat : Nat := 10
def tShroud : Nat := 11
def tAbort : Nat := 12
def tControl : Nat := 13

/-- The transmit queue of a type: express, ACK and NAK, other bulk (R353, R367). -/
def queueOf (t : Nat) : Nat :=
  if t = tCleatOp ∨ t = tHeartbeat ∨ t = tShroud ∨ t = tAbort then 0
  else if t = tAck ∨ t = tNak then 1 else 2

/-- Queue a sequenced frame on a connection; it takes the next Seq (R360). `flags`: ACKREQ and MORE. -/
def State.sendSeq (s : State) (c typ flags unit : Nat) (sub pay : List Byte) (op : Nat) : State × Nat :=
  let seq := s.cn c CN.SNDNXT
  let fr : TxFrame := {
    port := s.cn c CN.PORT, sub := s.cn c CN.SUB, queue := queueOf typ, cn := c, typ := typ,
    flags := flags, seq := seq, dst := s.cn c CN.PEER, srcUnit := unit, subhdr := sub, pay := pay, op := op }
  let x := s.conn c
  let s := s.setConn c { x with unacked := x.unacked ++ [{ frame := fr }] }
  ((s.setCn c CN.SNDNXT (wrapAdd 32 seq 1)).enqueue fr, seq)

/-- Queue an unsequenced frame on a connection (ACK, NAK, HEARTBEAT). -/
def State.sendUnseq (s : State) (c typ flags : Nat) (sub : List Byte) : State :=
  s.enqueue {
    port := s.cn c CN.PORT, sub := s.cn c CN.SUB, queue := queueOf typ, cn := c, typ := typ,
    flags := flags, seq := 0, dst := s.cn c CN.PEER, srcUnit := uPort (s.cn c CN.PORT), subhdr := sub, pay := [] }

/-- Queue a frame that uses no connection (NC 1). -/
def State.sendNc (s : State) (port sub typ addr : Nat) (shdr pay : List Byte) : State :=
  s.enqueue {
    port := port, sub := sub, queue := queueOf typ, cn := 4096, typ := typ, flags := 1, seq := 0, dst := 0,
    srcUnit := uPort port, subhdr := shdr, pay := pay, addr := addr }

/-- A fresh number for a remote operation. -/
def State.newId (s : State) : State := { s with net := { s.net with nextId := s.net.nextId + 1 } }

/-- Send the frames of one operation on one connection, ACKREQ on the last (R363), MORE on every one but the last when
`more` is set (R354). -/
def State.sendFrames (s : State) (c typ unit op : Nat) (more : Bool) : List (List Byte × List Byte) → State × List Nat
  | [] => (s, [])
  | (sub, pay) :: l =>
    let fl := if l = [] then 2 else if more then 4 else 0
    let (s, q) := s.sendSeq c typ fl unit sub pay op
    let (s, qs) := State.sendFrames s c typ unit op more l
    (s, q :: qs)

/-- Start a remote operation: its frames are queued and it waits for their acknowledgement (R362). -/
def State.startOp (s : State) (c typ unit : Nat) (more : Bool) (frames : List (List Byte × List Byte))
    (k : Cont) : State :=
  let id := s.net.nextId
  let (s, seqs) := s.newId.sendFrames c typ unit id more frames
  { s with net := { s.net with ops := s.net.ops ++ [{ id := id, cn := c, unit := unit, dst := s.cn c CN.PEER, seqs := seqs, cont := k }] } }

/-- Cut a payload into pieces of at most `n` bytes, each with its offset. -/
def pieces (n : Nat) : Nat → Nat → List Byte → List (Nat × List Byte)
  | 0, _, _ => []
  | k + 1, o, l => if l = [] then [] else (o, l.take n) :: pieces n k (o + n) (l.drop n)

/-- The poison mask of a payload piece: bit i for bytes 64i to 64i + 63 (R353). -/
def maskPiece (mask o n : Nat) : Nat := mask / 2 ^ (o / 64) % 2 ^ ((n + 63) / 64)

/-- The full poison mask of `n` payload bytes that are all poisoned. -/
def fullMask (p : Bool) (n : Nat) : Nat := if p then 2 ^ ((n + 63) / 64) - 1 else 0

/-- The lowest-indexed remote-map entry that contains a whole access (R356). -/
def State.remFor (s : State) (dev a n : Nat) : Option Nat :=
  let rs := s.regs.foldl (fun l e => match e.1 with | .rem r 1 => setIns l r | _ => l) []
  rs.find? (fun r => s.bit (.rem r 1) REM.VALID && s.f (.rem r 0) REM.DEV == dev &&
    decide (s.f (.rem r 0) REM.BASE ≤ a) && decide (a + n ≤ s.f (.rem r 0) REM.BASE + s.f (.rem r 1) REM.LENGTH))

/-- A WRITE of bytes to another device (R353 to R356). `mask` is the poison mask of the bytes. On failure the status of
R41, R356 or R358 and no frame. -/
def State.remoteWrite (s : State) (unit dev a : Nat) (d : List Byte) (mask : Nat) (k : Cont) : Status × State :=
  if !s.devAssigned then (.denied, s) else
  match s.remFor dev a d.length with
  | none => (.denied, s)
  | some r =>
    match s.connFor dev unit with
    | none => (.peerLost, s)
    | some c =>
      let h := s.f (.rem r 1) REM.HANDLE
      let mp := (s.conn c).maxpay
      let fr := (pieces mp (d.length + 1) 0 d).map (fun (o, b) =>
        (leBytes 8 (a + o) ++ leBytes 2 h ++ zeros 6 ++ leBytes 8 (maskPiece mask o b.length), b))
      (.done, s.startOp c tWrite unit false fr k)

/-! ### Event log -/

/-- The class of an event code (R490). -/
def eventClass (code : Nat) : Nat :=
  if code = 0x0008 then 0
  else if code ≤ 0x0005 ∨ code = 0x0011 ∨ code = 0x0020 then 1
  else if code = 0x0051 ∨ code = 0x00F0 then 2 else 3

/-- The event is marked reported (R490). -/
def eventReported (code : Nat) : Bool := !(code == 0x0008 || code == 0x0021 || code == 0x0061)

/-- The 32 bytes of a log record (R489). -/
def EventRec.bytes (e : EventRec) : List Byte :=
  leBytes 4 e.seq ++ leBytes 2 e.code ++ leBytes 1 e.cls ++ leBytes 1 e.st.code ++ leBytes 8 e.time ++
  leBytes 4 e.tick ++ leBytes 2 e.unit ++ leBytes 1 e.section_ ++ leBytes 1 e.flags ++ leBytes 8 e.detail

/-- The mailbox header (R399). -/
def mbxHeader (mailbox epoch count seq ack offset length : Nat) : List Byte :=
  leBytes 1 mailbox ++ leBytes 1 epoch ++ leBytes 1 count ++ [0] ++ leBytes 2 seq ++ leBytes 2 ack ++
  leBytes 4 offset ++ leBytes 4 length

/-- The subheader of a CONTROL frame (R353). -/
def ctlSub (sub : Nat) : List Byte := leBytes 1 sub ++ zeros 7

/-- Mailbox `i`. -/
def State.mailbox (s : State) (i : Nat) : Mailbox := Tbl.get {} s.mbx i

/-- Store mailbox `i`. -/
def State.setMailbox (s : State) (i : Nat) (x : Mailbox) : State := { s with mbx := Tbl.set s.mbx i x }

/-- Send a CONTROL message to an origin: on its connection, or on the host channel (R396, R397). -/
def State.sendControl (s : State) (o : Origin) (sub : Nat) (body : List Byte) : State :=
  match o with
  | .conn c =>
    if s.cn c CN.STATE = cnOpen ∨ s.cn c CN.STATE = cnClosing then
      s.startOp c tControl (uCn 0) false [(ctlSub sub, body)] .none
    else s
  | .host p b a => s.sendNc p b tControl a (ctlSub sub) body

/-- The boot has reached mailbox-ready (R465). -/
def State.mailboxReady (s : State) : Bool := s.bit .bootStat BOOT_STAT.READY

/-- Send the EVENT message of a reported record (R412). -/
def State.sendEvent (s : State) (e : EventRec) : State :=
  if !s.mailboxReady then s else
  let body := mbxHeader 0xFF 0 1 0 0 0 0 ++ e.bytes
  if s.hostConns = [] then
    match (s.mailbox 0).hostOrigin with
    | some (.host p b a) => s.sendControl (.host p b a) 0x14 body
    | _ => s
  else s.hostConns.foldl (fun s c => s.sendControl (.conn c) 0x14 body) s

/-- Write a record in the event log (R488 to R490); a fatal or trip record asserts ALERT_N. -/
def State.logEvent (s : State) (code : Nat) (st : Status) (unit sec detail : Nat) : State :=
  let rep := eventReported code
  let isFirst := !s.flt.codes.contains code
  let e : EventRec := {
    seq := s.f .fltLog FLT_LOG.NEXT, code := code, cls := eventClass code, st := st,
    time := s.tbNs, tick := s.tickNum, unit := unit, section_ := sec,
    flags := (if rep then 1 else 0) + (if isFirst then 2 else 0), detail := detail }
  let s := if 4096 ≤ s.flt.log.length then s.incSat .fltLog FLT_LOG.LOST else s
  let s := { s with flt := { s.flt with log := (e :: s.flt.log).take 4096, codes := setIns s.flt.codes code } }
  let s := s.incWrap .fltLog FLT_LOG.NEXT
  let s := if code = 0x0050 ∨ code = 0x0051 ∨ code = 0x00F0 then s.setF .fltStat FLT_STAT.ALERT 1 else s
  if rep then s.sendEvent e else s

/-- Set a sticky error bit; when it was clear, one record of the given code is written (R491). -/
def State.sticky (s : State) (r : Reg) (F : Field) (code : Nat) (st : Status) (unit sec detail : Nat) : State :=
  if s.bit r F then s else (s.setF r F 1).logEvent code st unit sec detail

/-- Set a bit of TP_ERR with its TRANSPORT_ERR record (R371, R490, R491). -/
def State.tpErr (s : State) (F : Field) (unit : Nat) : State :=
  if s.bit .tpErr F then s
  else
    let s := s.setF .tpErr F 1
    s.logEvent 0x0041 .done unit 0xFF ((s.rd .tpErr).toNat % 32)

/-- Set a sticky error bit of an engine, with its ENGINE_ERROR record (R491). `pc` is the PC, descriptor index or send
slot of R490. -/
def State.engineErr (s : State) (r : Reg) (F : Field) (st : Status) (unit pc : Nat) : State :=
  s.sticky r F 0x0010 st unit (s.unitSection unit) (st.code + pc % 65536 * 256)

/-! ### Errors of the mesh's links (R28) -/

/-- A correction was counted somewhere (R482). -/
def State.ceAdd (s : State) (n : Nat) : State := { s with flt := { s.flt with ceCount := s.flt.ceCount + n } }

/-- The errors that the links of the mesh find in the flits of a transfer: a corrected one is counted, an uncorrectable one
is recorded (R28, R482, R490). -/
def State.meshErrors (s : State) (l : List MeshErr) : State :=
  l.foldl (fun (s : State) (e : MeshErr) =>
    if e.ue then s.logEvent 0x0004 .uncorrectable 0xFFFF 0xFF (e.col.val + 16 * e.row.val + 128 * e.link.val)
    else s.ceAdd 1) s

/-- Some flit of a transfer was uncorrectable: it is delivered with its poison bit set (R28). -/
def meshBad (l : List MeshErr) : Bool := l.any (·.ue)

end Sys2Proof.Machine
end

