-- ==== Sys2Proof/Machine/CleatOps.lean ====
section
/-! DEFINITION. The shared operations of the cleat units, the shroud logic, and of engines that wait, signal, record
and report (11_cleats_and_step_tick.md). -/

namespace Sys2Proof.Machine

/-! ### Cleats -/

/-- Cleat `i`. -/
def State.cleat (s : State) (i : Nat) : Cleat := Tbl.get {} s.clt.tab i

/-- Store cleat `i`. -/
def State.setCleat (s : State) (i : Nat) (c : Cleat) : State :=
  { s with clt := { s.clt with tab := Tbl.set s.clt.tab i c } }

/-- The highest cleat index (R294). -/
def cleatMax : Nat := 49151

/-- The segment of a cleat (R293). -/
def cleatSeg (i : Nat) : Nat := if i < 32768 then i / 4096 else 8

/-- The first proxy cleat (R357). -/
def proxyBase : Nat := 48128

/-- The cleat is a proxy (R357). -/
def State.isProxy (s : State) (i : Nat) : Bool :=
  decide (proxyBase ≤ i) && decide (i ≤ cleatMax) && s.bit (.pxy (i - proxyBase)) PXY.VALID

/-- The code of a cleat state (R294). -/
def CleatSt.code : CleatSt → Nat
  | .free => 0 | .active => 1 | .poisoned => 2 | .abandoned => 3

/-- The State byte of a cleat (R294). -/
def Cleat.stateByte (c : Cleat) : Nat :=
  c.st.code + (if c.sat then 4 else 0) + (if c.floor then 8 else 0) + (if c.prop then 16 else 0)

/-- The 16 bytes of a cleat (R294). -/
def Cleat.bytes (c : Cleat) : List Byte :=
  leBytes 4 c.value ++ leBytes 1 c.stateByte ++ leBytes 1 c.owner ++ leBytes 1 c.epoch ++ leBytes 1 c.err.code ++
  leBytes 4 (match c.peer with | some d => d + 2 ^ 17 | none => 0) ++ zeros 4

/-- A cleat whose 16 bytes are written as a whole; reserved bits read as zero (R294). -/
def Cleat.ofBytes (c : Cleat) (b : List Byte) : Cleat :=
  let st := leAt b 4 1
  let peer := leAt b 8 4
  { c with
    value := leAt b 0 4 % 2 ^ 31
    st := match st % 4 with | 0 => .free | 1 => .active | 2 => .poisoned | _ => .abandoned
    sat := bitN st 2, floor := bitN st 3, prop := bitN st 4
    owner := leAt b 5 1, epoch := leAt b 6 1 % 16, err := Status.ofCode (leAt b 7 1)
    peer := if bitN peer 17 then some (peer % 2 ^ 17) else none }

/-- The byte of cleat memory at an address (R37, R294). -/
def State.cleatByte (s : State) (a : Nat) : Byte := (s.cleat ((a - cleatBase) / 16)).bytes.getD ((a - cleatBase) % 16) 0

/-- The pending waits of a cleat. -/
def State.waitsOn (s : State) (i : Nat) : List Wait := s.clt.waits.filter (fun w => w.cleat == i && !w.held)

/-- The 48 B dump record of a cleat (R305). -/
def State.cleatRecord (s : State) (i : Nat) : List Byte :=
  let c := s.cleat i
  c.bytes ++ leBytes 8 c.lastSig ++ leBytes 4 c.lastTick ++ leBytes 2 (s.waitsOn i).length ++ zeros 2 ++
  leBytes 8 c.waiterIds ++ zeros 8

/-- The status a state gives an operation that is not READ or SET, and a pending wait (R303). -/
def CleatSt.status : CleatSt → Status
  | .free => .denied | .active => .done | .poisoned => .poisoned | .abandoned => .abandoned

/-- The operation a 16 B record spells (R297). -/
def CltReq.ofWords (w0 w1 : Nat) : CltReq where
  op := fld w0 2 0
  index := fld w0 31 16
  operand := fld w1 30 0
  consume := bitN w0 3
  chk := bitN w0 4
  epoch := fld w0 9 6
  renew := bitN w0 5
  st := Status.ofCode (fld w0 39 32)
  tmo := fld w1 51 32

/-- The result of a cleat with a status (R297). -/
def State.cltResult (s : State) (c : Cleat) (value : Nat) (st err : Status) : CltResult where
  value := value
  st := st
  err := err
  state := c.stateByte
  epoch := c.epoch
  tick := s.tickNum

/-- The 16 B of a result (R297). -/
def CltResult.bytes (r : CltResult) : List Byte :=
  leBytes 4 r.value ++ leBytes 1 r.st.code ++ leBytes 1 r.err.code ++ leBytes 1 r.state ++ leBytes 1 r.epoch ++
  leBytes 4 r.tick ++ zeros 4

/-- The status an engine whose wait has returned goes on with: DONE where it performs its operation (R302). -/
def grantStatus (r : CltResult) : Status :=
  if r.st ≠ .done then r.st else if r.err ≠ .done ∧ bitN r.state 4 then r.err else .done

/-- Return a result to its issuer: the grant of an engine, the result words of CLT_CMD (R324), a CLEAT_OP result to
another device (R366), or the issuer's result slot. -/
def State.cltReturn (s : State) (who : Waiter) (unit : Nat) (r : CltResult) : State :=
  match who with
  | .eng k => { s with clt := { s.clt with grants := s.clt.grants ++ [{ key := k, st := grantStatus r, met := r.st == .done }] } }
  | .cmd k =>
    let b := r.bytes
    (s.wr (.cltCmd k 2) (BitVec.ofNat 64 (leAt b 0 8))).wr (.cltCmd k 3) (BitVec.ofNat 64 (leAt b 8 4 + 2 ^ 63))
  | .remote cn tag =>
    if s.cn cn CN.STATE = cnOpen then
      s.startOp cn tCleatOp (uCn 0) false [(r.bytes ++ leBytes 4 tag ++ leBytes 1 1 ++ zeros 11, [])] .none
    else s
  | .plain => { s with clt := { s.clt with results := Tbl.set s.clt.results unit r } }

/-- A proxy operation returns (R357): TAKE to its issuer, any operation to a core that waits for it in CLT_CMD and to
another device that sent it. -/
def State.proxyReturn (s : State) (p : ProxyOp) (r : CltResult) : State :=
  if p.op = 4 ∨ p.who ≠ .plain then s.cltReturn p.who p.unit r else s

/-- The sticky bits and counters that an operation's status sets (R323, R324, R490). -/
def State.cltErr (s : State) (F : Field) (st : Status) (unit index : Nat) : State :=
  let dev := unit / 65536
  let u := if dev = s.dev then unit % 65536 else 0xFFFF
  s.sticky .cltErr F 0x0010 st u (s.unitSection u) (st.code + index % 65536 * 256 + dev * 2 ^ 24)

/-- Count a status in CLT_ERR and CLT_STALE. -/
def State.cltCount (s : State) (st : Status) (unit index : Nat) : State :=
  match st with
  | .staleEpoch => (s.incSat .cltStale CLT_STALE.CNT).cltErr CLT_ERR.STALE st unit index
  | .denied => s.cltErr CLT_ERR.DENIED st unit index
  | .poisoned => s.cltErr CLT_ERR.POISONED st unit index
  | .abandoned => s.cltErr CLT_ERR.ABANDONED st unit index
  | _ => s

/-- Evaluate the pending waits of a cleat in order of arrival (R298): a satisfied one consumes and returns; where the
cleat is not active every one returns the status of the state (R303). -/
def State.runWaits (s : State) (i : Nat) : List Wait → State
  | [] => s
  | w :: l =>
    let c := s.cleat i
    let drop (s : State) : State := { s with clt := { s.clt with waits := s.clt.waits.erase w } }
    if c.st ≠ .active then
      let st := c.st.status
      let s := (drop s).cltCount st w.unit i
      State.runWaits (s.cltReturn w.who w.unit (s.cltResult c c.value st c.err)) i l
    else if w.n ≤ c.value then
      let v := if w.consume then c.value - w.n else c.value
      let c' := { c with value := v, err := if w.consume ∧ v = 0 then .done else c.err }
      let s := (drop s).setCleat i c'
      State.runWaits (s.cltReturn w.who w.unit (s.cltResult c' c.value .done c.err)) i l
    else State.runWaits s i l

/-- Evaluate the pending waits of cleat `i`. -/
def State.wake (s : State) (i : Nat) : State := s.runWaits i (s.waitsOn i)

/-- The entries held in a segment's wait table (R301). -/
def State.segWaits (s : State) (g : Nat) : Nat :=
  (s.clt.waits.filter (fun w => cleatSeg w.cleat == g && !w.held)).length

/-- A new wait is held at its segment's input: the table is full, or earlier waits are held there (R301). -/
def State.segHolds (s : State) (g : Nat) : Bool :=
  decide (2048 ≤ s.segWaits g) || s.clt.waits.any (fun w => cleatSeg w.cleat == g && w.held)

/-- Put a wait in its segment's table, or hold it at the segment's input (R301). -/
def State.addWait (s : State) (w : Wait) : State :=
  let full := s.segHolds (cleatSeg w.cleat)
  let c := s.cleat w.cleat
  let s := s.setCleat w.cleat { c with waiterIds := (c.waiterIds * 65536 + w.unit % 65536) % 2 ^ 64 }
  { s with clt := { s.clt with waits := s.clt.waits ++ [{ w with held := full }] } }

/-- The issuer may SET a free cleat: the section loader, or crowsnest of any device (R303). -/
def mayInit (unit : Nat) : Bool := unit / 4096 % 16 == 9 || unit % 65536 == uLoader

/-- The Owner a SET gives: 0xFF for crowsnest of any device (R295). Another unit of another device names no section of this
device: a free value (log entry 8). -/
def State.setOwner (s : State) (unit : Nat) : Nat :=
  if unit / 4096 % 16 = 9 then 0xFF
  else if unit / 65536 ≠ s.dev then Config.freeNat s.free % 256 else s.unitSection (unit % 65536)

/-- The first step of R303 that decides an operation against its cleat, or DONE where the table row "Normal" applies. -/
def State.cltCheck (s : State) (q : CltReq) (unit : Nat) : Status :=
  let c := s.cleat q.index
  if cleatMax < q.index ∨ 5 < q.op then .badDescriptor
  else if s.isProxy q.index ∧ q.op ≤ 1 then .denied
  else if cleatSeg q.index < 8 ∧ s.mastPower (cleatSeg q.index) = 2 then .poisoned
  else if c.st = .free ∧ ¬ (q.op = 5 ∧ mayInit unit) then .denied
  else if q.chk ∧ q.epoch ≠ c.epoch then .staleEpoch
  else if q.op = 5 then .done
  else c.st.status

/-- The cleat after an operation that passes its checks: ADD, SUB, TAKE or SET (R295, R296). Answers the cleat, the
status, and whether SAT or FLOOR was set. -/
def Cleat.apply (c : Cleat) (q : CltReq) (owner lastSig tick : Nat) : Cleat × Status × Bool × Bool :=
  let err := if q.st ≠ .done ∧ c.err = .done then q.st else c.err
  let c := { c with lastSig := lastSig, lastTick := tick }
  match q.op with
  | 2 =>
    let ovr := decide (2 ^ 31 - 1 < c.value + q.operand)
    ({ c with value := min (c.value + q.operand) (2 ^ 31 - 1), err := err, sat := c.sat || ovr }, .done, ovr, false)
  | 3 =>
    let under := decide (c.value < q.operand)
    ({ c with value := c.value - q.operand, err := err, floor := c.floor || under }, .done, false, under)
  | 4 =>
    if c.value + q.operand ≤ 2 ^ 31 - 1 then ({ c with value := c.value + q.operand, err := err }, .done, false, false)
    else ({ c with sat := true, err := err }, .full, true, false)
  | _ =>
    ({ c with value := q.operand, err := .done, sat := false, floor := false, st := .active, owner := owner,
              epoch := if q.renew then (c.epoch + 1) % 16 else c.epoch }, .done, false, false)

/-- A cleat operation reaches its cleat unit (R295 to R303). `unit` is the issuer's global unit ID, `who` where its
result goes; `quiet` for an engine's ADD, SUB or SET, which returns nothing. -/
def State.cltOp (s : State) (q : CltReq) (unit : Nat) (who : Waiter) (quiet : Bool) : State :=
  let ret (s : State) (r : CltResult) : State := if quiet then s else s.cltReturn who unit r
  let st := s.cltCheck q unit
  let c := s.cleat q.index
  if s.isProxy q.index ∧ 2 ≤ q.op ∧ q.op ≤ 5 then
    { s with net := { s.net with proxies := s.net.proxies ++ [{
        idx := q.index - proxyBase, op := q.op, operand := q.operand, st := q.st, renew := q.renew,
        unit := unit, who := who, upto := s.net.nextId }] } }
  else if st = .badDescriptor then ret s (s.cltResult {} 0 st .done)
  else if q.op = 0 then
    let s := s.cltCount st unit q.index
    ret s (s.cltResult c c.value st c.err)
  else if st ≠ .done then
    let s := s.cltCount st unit q.index
    ret s (s.cltResult c c.value st c.err)
  else if q.op = 1 then
    let w : Wait := {
      cleat := q.index, n := q.operand, consume := q.consume, unit := unit, start := s.now, tmo := q.tmo, who := who }
    if q.operand ≤ c.value ∧ !s.segHolds (cleatSeg q.index) then
      let v := if q.consume then c.value - q.operand else c.value
      let c' := { c with value := v, err := if q.consume ∧ v = 0 then .done else c.err }
      (s.setCleat q.index c').cltReturn who unit (s.cltResult c' c.value .done c.err)
    else s.addWait w
  else
    let own := s.setOwner unit
    let s := if q.op = 5 ∧ unit / 65536 ≠ s.dev ∧ unit / 4096 % 16 ≠ 9 then s.tickFree else s
    let (c', st, sat, flr) := c.apply q own unit s.tickNum
    let s := s.setCleat q.index c'
    let s := if sat then s.cltErr CLT_ERR.SAT st unit q.index else s
    let s := if flr then s.cltErr CLT_ERR.FLOOR st unit q.index else s
    let s := ret s (s.cltResult c' c.value st c'.err)
    s.wake q.index

/-- The unit has remote writes with numbers below `upto` that are not acknowledged (R192). -/
def State.remoteOwes (s : State) (unit upto : Nat) : Bool :=
  s.net.ops.any (fun o => o.unit == unit && decide (o.id < upto) &&
    match o.cont with
    | .part _ => true
    | .store _ => true
    | .fair _ _ _ _ => true
    | .radd _ => true
    | _ => false) ||
  s.red.contribs.any (fun c => c.unit == unit && decide (c.id < upto))

/-- A unit issues a cleat operation. ADD, SUB, TAKE and SET are releases (R194, R299): they are performed once every write
the unit has issued before is accepted. The unit's tracked writes are accepted inside the command; while the unit has
remote writes that are not acknowledged, or an earlier release that waits, the operation waits; one on a proxy waits for them
at the transport (R357). -/
def State.cltSend (s : State) (q : CltReq) (unit : Nat) (who : Waiter) (quiet : Bool) : State :=
  if q.op < 2 ∨ 5 < q.op ∨ unit / 65536 ≠ s.dev then s.cltOp q unit who quiet
  else
    let s := s.settle s.dev (unit % 65536)
    if s.isProxy q.index then s.cltOp q unit who quiet
    else if s.remoteOwes (unit % 65536) s.net.nextId || s.clt.held.any (fun h => h.unit == unit) then
      { s with clt := { s.clt with held := s.clt.held ++ [{
        req := q, unit := unit, who := who, quiet := quiet, upto := s.net.nextId }] } }
    else s.cltOp q unit who quiet

/-- The oldest waiting release whose writes are all acknowledged is performed; one that is not keeps the later releases of
its unit behind it. -/
def State.runHeld (s : State) : List HeldOp → List Nat → State
  | [], _ => s
  | h :: l, blocked =>
    if blocked.contains h.unit || s.remoteOwes (h.unit % 65536) h.upto then s.runHeld l (h.unit :: blocked)
    else
      State.runHeld (State.cltOp { s with clt := { s.clt with held := s.clt.held.erase h } } h.req h.unit h.who h.quiet) l blocked

/-- Force a cleat into a state: poisoned or abandoned with a new epoch, or free (R303, R304). Its waits end with the
given status: operation records and engines alike where `engines`, else engine waits end with no signal. -/
def State.forceCleat (s : State) (i : Nat) (c' : Cleat) (st : Status) (engines : Bool) : State :=
  let c := s.cleat i
  let ws := s.clt.waits.filter (fun w => w.cleat == i)
  let s := s.setCleat i { c' with epoch := (c.epoch + 1) % 16 }
  let s := { s with clt := { s.clt with waits := s.clt.waits.filter (fun w => w.cleat != i) } }
  ws.foldl (fun s w =>
    match w.who with
    | .eng k => if engines then s.cltReturn (.eng k) w.unit (s.cltResult c' c.value st c.err) else s
    | who => s.cltReturn who w.unit (s.cltResult c' c.value st c.err)) s

/-! ### The shroud tree -/

/-- A field of SHR_STAT. -/
def State.shrStat (s : State) (g : Nat) (F : Field) : Nat := s.f (.shrStat g) F

/-- The local state of group `g`. -/
def State.shrGrp (s : State) (g : Nat) : ShrGroup := Tbl.get {} s.shr g

/-- Store the local state of group `g`. -/
def State.setShr (s : State) (g : Nat) (x : ShrGroup) : State := { s with shr := Tbl.set s.shr g x }

/-- The masts of a group. -/
def State.shrMasts (s : State) (g : Nat) : List Nat := (List.range 8).filter (fun m => bitN (s.f (.shrGrp g) SHR_GRP.MASTS) m)

/-- The valid children of a group. -/
def State.shrChildren (s : State) (g : Nat) : List Nat :=
  (List.range 15).filter (fun c => s.bit (.shrChild g c) SHR_CHILD.VALID)

/-- Send a SHROUD frame (R308): an express frame on a connection to the device. -/
def State.sendShroud (s : State) (dev g kind slot gen : Nat) (st : Status) : State :=
  match s.connFor dev uShroudDev with
  | none => s
  | some c => s.startOp c tShroud uShroudDev false
      [(leBytes 1 g ++ leBytes 1 kind ++ leBytes 1 slot ++ leBytes 1 st.code ++ leBytes 2 gen ++ zeros 2, [])] .none

/-- A device no frame can reach any more: no connection to it is OPEN (R358, R371). -/
def State.devLost (s : State) (dev : Nat) : Bool := (s.openTo dev) == []

/-- Release a group (R307): the arrivals are cleared before any release leaves. `lost` sets LOST (R309). -/
def State.shrRelease (s : State) (g : Nat) (st : Status) (lost : Bool) : State :=
  let lost := lost || (s.shrGrp g).lostKids != 0
  let gen := s.shrStat g SHR_STAT.GEN
  let s := (s.setF (.shrStat g) SHR_STAT.ARRIVED 0).setShr g {}
  let s := s.setF (.shrStat g) SHR_STAT.GEN (gen + 1)
  let s := s.setF (.shrStat g) SHR_STAT.LAST_STATUS st.code
  let s := if lost then s.setF (.shrStat g) SHR_STAT.LOST 1 else s
  let s := (s.shrChildren g).foldl (fun s c =>
    s.sendShroud (s.f (.shrChild g c) SHR_CHILD.DEV) g 1 c gen st) s
  (s.shrMasts g).foldl (fun s m =>
    let rc := s.f (.shrMast g m) SHR_MAST.RCLEAT
    if rc = 0xFFFF then s
    else s.cltOp { op := 2, index := rc, operand := s.f (.shrMast g m) SHR_MAST.RADD, st := st }
      (s.gid (uShroud m)) .plain true) s

/-- The device stage of a group: when every input has arrived it reports to the parent, or releases at the root
(R307); a lost child counts as arrived with PEER_LOST and a lost parent makes the device the root of its subtree
(R309). -/
def State.shrStage (s : State) (g : Nat) : State :=
  let x := s.shrGrp g
  let arr := s.shrStat g SHR_STAT.ARRIVED
  let kids := s.shrChildren g
  if !s.bit (.shrGrp g) SHR_GRP.VALID || s.bit (.shrStat g) SHR_STAT.LOST || x.sent then s
  else if (s.shrMasts g).all (fun m => bitN x.localArr m) then
    let arr := if bitN arr 15 then arr else arr + 2 ^ 15
    let s := s.setF (.shrStat g) SHR_STAT.ARRIVED arr
    let dead := kids.filter (fun c => !bitN arr c && bitN x.lostKids c)
    if kids.all (fun c => bitN arr c || bitN x.lostKids c) then
      let st := if dead = [] then x.st else Status.or x.st .peerLost
      let lost := x.lostKids != 0
      if s.bit (.shrGrp g) SHR_GRP.ROOT then s.shrRelease g st lost
      else if x.parentLost then s.shrRelease g .peerLost true
      else
        let s := s.setShr g { x with sent := true, st := st }
        s.sendShroud (s.f (.shrGrp g) SHR_GRP.PARENT) g 0 (s.f (.shrGrp g) SHR_GRP.PSLOT) (s.shrStat g SHR_STAT.GEN) st
    else s
  else s

/-- The host configures group `g`: LOST is cleared, and its children and parent count as lost where their devices are lost now
(R309, R371). -/
def State.shrConfig (s : State) (g : Nat) : State :=
  let dead (d : Nat) : Bool := s.net.lost.contains d
  let kids := (s.shrChildren g).filter (fun c => dead (s.f (.shrChild g c) SHR_CHILD.DEV))
  (s.setF (.shrStat g) SHR_STAT.LOST 0).setShr g { s.shrGrp g with
    lostKids := kids.foldl (fun (n : Nat) (c : Nat) => n + 2 ^ c) 0
    parentLost := s.f (.shrGrp g) SHR_GRP.ROOT == 0 && dead (s.f (.shrGrp g) SHR_GRP.PARENT) }

/-- A child slot of group `g` is written: the child counts as lost where its device is lost now (R309). -/
def State.shrKid (s : State) (g c : Nat) : State :=
  let x := s.shrGrp g
  let dead := s.bit (.shrChild g c) SHR_CHILD.VALID && s.net.lost.contains (s.f (.shrChild g c) SHR_CHILD.DEV)
  s.setShr g { x with lostKids := setBits x.lostKids c c (if dead then 1 else 0) }

/-- The shroud logic of mast `m` for group `g`: it consumes ACOUNT of a ready arrival cleat and passes ErrStatus to the
device stage (R307). -/
def State.shrArrive (s : State) (g m : Nat) : State :=
  let x := s.shrGrp g
  let ac := s.f (.shrMast g m) SHR_MAST.ACLEAT
  let n := s.f (.shrMast g m) SHR_MAST.ACOUNT
  let c := s.cleat ac
  if s.bit (.shrGrp g) SHR_GRP.VALID && !s.bit (.shrStat g) SHR_STAT.LOST && bitN (s.f (.shrGrp g) SHR_GRP.MASTS) m &&
     !bitN x.localArr m && ac != 0xFFFF && c.st == .active && decide (n ≤ c.value) then
    let v := c.value - n
    let s := s.setCleat ac { c with value := v, err := if v = 0 then .done else c.err }
    (s.setShr g { x with localArr := x.localArr + 2 ^ m, st := Status.or x.st c.err }).shrStage g
  else s

/-- The shroud logic acts on the arrival cleats after every other operation of the cycle (R307): one pass over the
groups and masts. -/
def State.shroudPass (s : State) : State :=
  (List.range 16).foldl (fun s g =>
    if s.bit (.shrGrp g) SHR_GRP.VALID then (List.range 8).foldl (fun s m => s.shrArrive g m) s else s) s

/-! ### Engines: signals, waits, records, reports -/

/-- A unit signals a cleat: ADD 1 carrying a status; 0xFFFF names none. A marked unit's signal carries TICK_OVERRUN
(R296, R297, R318). -/
def State.signal (s : State) (unit cleat : Nat) (st : Status) : State :=
  if cleat = 0xFFFF then s
  else s.cltSend { op := 2, index := cleat, operand := 1, st := if s.marked unit then .tickOverrun else st }
    (s.gid unit) .plain true

/-- How an engine's wait stands. -/
inductive Go where
  /-- the engine goes on: with its operation (DONE), or with the status its wait ended with (R302) -/
  | go (st : Status) (s : State)
  /-- the wait is pending -/
  | wait (s : State)

/-- An engine's wait (R295, R301, R302): a grant left by an ended wait is taken; a wait that is pending stays; else the
wait is issued. 0xFFFF names no wait. -/
def State.engineWait (s : State) (k : EngKey) (unit cleat n : Nat) (consume : Bool) : Go :=
  if cleat = 0xFFFF then .go .done s
  else match s.clt.grants.find? (fun g => g.key == k) with
  | some g => .go g.st { s with clt := { s.clt with grants := s.clt.grants.erase g } }
  | none =>
    if s.clt.waits.any (fun w => w.who == .eng k) then .wait s
    else
      let s := s.cltOp { op := 1, index := cleat, operand := n, consume := consume } (s.gid unit) (.eng k) false
      match s.clt.grants.find? (fun g => g.key == k) with
      | some g => .go g.st { s with clt := { s.clt with grants := s.clt.grants.erase g } }
      | none => .wait s

/-- Withdraw an engine's wait (R301). -/
def State.dropWait (s : State) (k : EngKey) : State :=
  { s with clt := { s.clt with waits := s.clt.waits.filter (fun w => w.who != .eng k),
                               grants := s.clt.grants.filter (fun g => g.key != k) } }

/-- The reporter issues its end-of-step report (R316): it is on its way to the tick logic. -/
def State.report (s : State) (unit : Nat) : State :=
  { s with tick := { s.tick with reports := s.tick.reports ++ [(unit, s.tbNs)] } }

/-- Count an operation of the current step that completed with POISONED or TICK_OVERRUN (R485). -/
def State.countBad (s : State) (unit : Nat) (st : Status) : State :=
  if st = .poisoned ∨ st = .tickOverrun then
    match (s.workMast unit).bind s.mastSection, s.openOf unit with
    | some sec, some p =>
      let x := s.stepOf sec
      let inc (o : OpenStep) : OpenStep := { o with bad := o.bad + 1 }
      s.setStep sec { x with opens := updFirst (fun o => o.k == p.k) inc x.opens }
    | _, _ => s
  else s

/-- The status a marked unit's record carries (R318). -/
def State.recStatus (s : State) (unit : Nat) (st : Status) : Status :=
  if st = .done ∧ s.marked unit then .tickOverrun else st

/-- The completion of an engine operation: once its writes are accepted its record is written, and once that is accepted
its cleat is signalled (R97, R168, R194). The step report is the engine's own (`Finish.endStep`). -/
def State.finishOp (s : State) (f : Finish) (st : Status) : State :=
  let rst := s.recStatus f.unit st
  let s := (s.countBad f.unit rst).settle s.dev f.unit
  let s := match f.recAt with
    | some a => s.storeBy f.unit a (putAt f.recBytes f.recSt [BitVec.ofNat 8 rst.code]) false
    | none => s
  (s.settle s.dev f.unit).signal f.unit f.cleat st

/-- The loader writes bytes of cleats; their pending waits see the new state (R39, R294, R298). -/
def State.cleatWrite (s : State) (a : Nat) (d : List Byte) : State :=
  let is := (List.range ((a + d.length + 15 - cleatBase) / 16 - (a - cleatBase) / 16)).map (· + (a - cleatBase) / 16)
  is.foldl (fun s i =>
    let c := s.cleat i
    let at_ := cleatBase + 16 * i
    let new := (List.range 16).map (fun k => if a ≤ at_ + k ∧ at_ + k < a + d.length then d.getD (at_ + k - a) 0
      else c.bytes.getD k 0)
    (s.setCleat i (c.ofBytes new)).wake i) s

end Sys2Proof.Machine
end

