-- ==== Sys2Proof/Machine/ChipOps.lean ====
section
/-! DEFINITION. The shared operations of the on-chip memories: reads in the three modes, the range scoreboard, merging,
coils, error counting (06_onchip_memory.md). -/

namespace Sys2Proof.Machine

/-! ### Reads -/

/-- The runs of bytes a read request touches, in the order in which it returns them (R180, R181). -/
def MemRead.runs (q : MemRead) : List (Int × Nat) :=
  match q.mode with
  | 0 => [(Int.ofNat q.addr, q.e)]
  | 1 => (List.range q.n).map (fun i => (Int.ofNat q.addr + Int.ofNat i * q.stride, q.e))
  | _ => (List.range 64).map (fun i => (Int.ofNat q.addr + Int.ofNat i * q.stride, 128))

/-- The smallest range that covers a request. -/
def MemRead.hull (q : MemRead) : Int × Nat :=
  let l := q.runs
  let lo := l.foldl (fun a y => min a y.1) (Int.ofNat q.addr)
  let hi := l.foldl (fun a y => max a (y.1 + Int.ofNat y.2)) (Int.ofNat q.addr)
  (lo, (hi - lo).toNat)

/-- The limits of a mode (R180): strided and transposed reads are the tackle's, the fairleads' and the B tap's, which has the unit
ID of its mast's first sail (log entry 5). -/
def MemRead.legal (q : MemRead) : Bool :=
  let cls := q.unit / 4096 % 16
  let may := (cls == 1 && q.unit % 16 == 0) || cls == 3 || cls == 4
  match q.mode with
  | 0 => decide (1 ≤ q.e) && decide (q.e ≤ 4096)
  | 1 => may && [1, 2, 4, 8, 16, 32, 64].contains q.e && decide (1 ≤ q.n) && decide (q.n * q.e ≤ 256) && q.addr % q.e == 0 &&
    decide (q.stride % Int.ofNat q.e = 0)
  | _ => may && q.addr % 64 == 0 && decide (q.stride % 64 = 0) && decide (128 ≤ q.stride.natAbs)

/-- The bytes of a request: packed in order, or for a transposed read row j as column j of the source (R180). -/
def State.readBytes (s : State) (q : MemRead) : List Byte :=
  match q.mode with
  | 2 => (List.range 64).flatMap (fun j => (List.range 64).flatMap (fun i =>
      s.bytes ((Int.ofNat q.addr + Int.ofNat i * q.stride).toNat + 2 * j) 2))
  | _ => q.runs.flatMap (fun r => s.bytes r.1.toNat r.2)

/-- The distinct lines a request touches, in the order in which it meets them (R181). -/
def MemRead.lines (q : MemRead) : List Nat := (q.runs.flatMap (fun r => linesOf r.1.toNat r.2)).eraseDups

/-! ### Errors -/

/-- The field of MEM_CE and MEM_UE for a memory. -/
def memKind (ce : Bool) : Region → Field
  | .weight _ => if ce then MEM_CE.WEIGHT else MEM_UE.WEIGHT
  | .act _ => if ce then MEM_CE.ACT else MEM_UE.ACT
  | _ => if ce then MEM_CE.PSUM else MEM_UE.PSUM

/-- A read of a line met an error: 1 correctable, 2 uncorrectable (R197, R490). -/
def State.memError (s : State) (unit line ecc : Nat) : State :=
  match s.fuses.region (64 * line) 64 with
  | none => s
  | some r => match r.mast with
    | none => s
    | some m =>
      if ecc = 1 then (s.incSat (.memCe m) (memKind true r)).ceAdd 1
      else if ecc = 2 then
        let s := s.incSat (.memUe m) (memKind false r)
        let s := s.wr (.memUeAddr m) (BitVec.ofNat 64 (64 * line + 2 ^ 63))
        let s := { s with poison := setIns s.poison (64 * line) }
        let sec := match s.mastSection m with
          | some x => x
          | none => 0xFF
        s.logEvent 0x0001 .uncorrectable unit (if unit = 0xFFFF then sec else s.unitSection unit) (64 * line)
      else s

/-- A read returns to its requester, with the poison bit of each line it touches (R192, R197). -/
def State.readReturn (s : State) (q : MemRead) : State :=
  let r : ReadResult := {
    st := .done, data := s.readBytes q, poison := q.bad || q.runs.any (fun r => s.poisonedAt r.1.toNat r.2)
    lines := q.lines.map (fun l => q.bad || s.poisonedAt (64 * l) 64) }
  { s with chip := { s.chip with results := Tbl.set s.chip.results q.unit r } }

/-- A read ends with a status and no data. -/
def State.readFail (s : State) (unit : Nat) (st : Status) : State :=
  { s with chip := { s.chip with results := Tbl.set s.chip.results unit { st := st } } }

/-- A request overlaps an entry of the scoreboard (R190), or a write of its own unit that waits for one (R193). -/
def State.stalls (s : State) (q : MemRead) : Bool :=
  s.chip.writes.any (fun w => (!w.waiting || (w.unit == q.unit && w.dev == s.dev)) &&
    q.runs.any (fun r => w.meets r.1.toNat r.2))

/-- A request reaches its front-end: it stalls at the scoreboard, waits for a transpose buffer, or is served (R177 to
R182, R190). -/
def State.memServe (s : State) (q : MemRead) : State :=
  if s.stalls q then { s with chip := { s.chip with stalled := s.chip.stalled ++ [q] } }
  else
    let m := ((s.fuses.region q.addr 1).bind Region.mast).getD 0
    let g := q.addr / 64 % 64 / 8
    if q.mode = 2 ∧ s.chip.transpose.contains (m, g) then
      { s with chip := { s.chip with transWait := s.chip.transWait ++ [q] } }
    else
      let s := if q.mode = 2 then { s with chip := { s.chip with transpose := s.chip.transpose ++ [(m, g)] } } else s
      ((q.errs.foldl (fun s e => s.memError q.unit e.1 e.2) s).bankReads q.lines).readReturn q

/-- The reads of a unit that have not returned and overlap `n` bytes at `a`: before a later write of the unit to those bytes takes
effect the writes that hold them up are accepted and they return (R190, R193). -/
def State.ownReads (s : State) (u a n : Nat) : State :=
  let mine (q : MemRead) : Bool := q.unit == u && q.runs.any (fun r => decide (r.1.toNat < a + n) && decide (a < r.1.toNat + r.2))
  let qs := s.chip.stalled.filter mine ++ s.chip.transWait.filter mine
  qs.foldl (fun (s : State) (q : MemRead) =>
    let s := (if s.stalls q then s.acceptWrites else s).settle s.dev u
    ((q.errs.foldl (fun s e => s.memError q.unit e.1 e.2) s).bankReads q.lines).readReturn q)
    { s with chip := { s.chip with stalled := s.chip.stalled.filter (fun q => !mine q)
                                   transWait := s.chip.transWait.filter (fun q => !mine q) } }

/-! ### Time -/

/-- One reference period at the memories (log entry 1): writes are accepted, transpose buffers return their rows and the
reads that waited for them follow, stalled cycles are counted (R182, R190, R199). `cy` is how many core cycles the period has. -/
def State.chipClock (s : State) (cy : Nat) : State :=
  let ms := ((s.chip.stalled.filter s.stalls).map (fun q => ((s.fuses.region q.addr 1).bind Region.mast).getD 0)).eraseDups
  let s := ms.foldl (fun s m => s.incWrap (.memSbStall m) MEM_SB_STALL.ALL cy) s
  let s := s.acceptWrites
  let ws := s.chip.transWait
  let s := { s with chip := { s.chip with transpose := [], transWait := [] } }
  ws.foldl (fun s q => s.memServe q) s

end Sys2Proof.Machine
end

