-- ==== Sys2Proof/Machine/Approx.lean ====
section
/-! DEFINITION. The functions of 02_number_formats.md R70 and R159 in fixed point, to far more digits than the bounds of R70
need: what the free values of the model are held to (log entry 9). A fixed-point number is an integer in units of 2^-160. -/

namespace Sys2Proof.Machine

/-- One, in units of 2^-160. -/
def fxOne : Nat := 2 ^ 160
/-- ln 2. -/
def fxLn2 : Nat := 1013035739299659071135698605846798551586536899366
/-- π. -/
def fxPi : Nat := 4591442807048218921384805199743311128454155024418
/-- 2 / √π. -/
def fxTwoRootPi : Nat := 1649128000240172121335468122222580532118151184855
/-- 1 / √2. -/
def fxRootHalf : Nat := 1033437718471923706666374484006904511252097097914

/-- A series of positive terms: term `n` is the one before it times r / d(n). -/
def fxSeries (r : Nat) (d : Nat → Nat) : Nat → Nat → Nat → Nat
  | 0, _, t => t
  | k + 1, n, t => t + fxSeries r d k (n + 1) (t * r / (d n * fxOne))

/-- A series of terms of alternating sign. -/
def fxAlt (r : Nat) (d : Nat → Nat) : Nat → Nat → Nat → Int
  | 0, _, t => Int.ofNat t
  | k + 1, n, t => Int.ofNat t - fxAlt r d k (n + 1) (t * r / (d n * fxOne))

/-- e^x for x = X × 2^-160: a mantissa in units of 2^-160, from 1 to 2, and a power of two. -/
def fxExp (x : Int) : Nat × Int :=
  let k := x / Int.ofNat fxLn2
  (fxSeries (x - k * Int.ofNat fxLn2).toNat (fun n => n + 1) 42 0 fxOne, k)

/-- The sum z + z^3 / 3 + z^5 / 5 + … : artanh z for z from 0 to 1/3. -/
def fxArtanh (r : Nat) : Nat → Nat → Nat → Nat
  | 0, _, _ => 0
  | k + 1, n, t => t / (2 * n + 1) + fxArtanh r k (n + 1) (t * r / fxOne)

/-- ln(n / d) for positive n and d. -/
def fxLn (n d : Nat) : Int :=
  let e : Int := Int.ofNat (Nat.log2 n) - Int.ofNat (Nat.log2 d)
  let e := if n * 2 ^ (-e).toNat < d * 2 ^ e.toNat then e - 1 else e
  let n := n * 2 ^ (-e).toNat
  let d := d * 2 ^ e.toNat
  let z := (n - d) * fxOne / (n + d)
  e * Int.ofNat fxLn2 + 2 * Int.ofNat (fxArtanh (z * z / fxOne) 52 0 z)

/-- sin and cos of |x| ≤ π / 4. -/
def fxSinCos (x : Int) : Int × Int :=
  let a := x.natAbs
  let r := a * a / fxOne
  let s := fxAlt r (fun n => (2 * n + 2) * (2 * n + 3)) 22 0 a
  (if x < 0 then -s else s, fxAlt r (fun n => (2 * n + 1) * (2 * n + 2)) 22 0 fxOne)

/-- sin x. -/
def fxSin (x : Int) : Int :=
  let h := Int.ofNat fxPi
  let k := (4 * x + h) / (2 * h)
  let (s, c) := fxSinCos ((2 * x - k * h) / 2)
  match (k % 4).toNat with
  | 0 => s
  | 1 => c
  | 2 => -s
  | _ => -c

/-- cos x. -/
def fxCos (x : Int) : Int := fxSin (x + Int.ofNat (fxPi / 2))

/-- erf z for z ≥ 0: (2 / √π) e^(-z²) (z + 2 z³ / 3 + 4 z^5 / 15 + …); 1 from 8 on. -/
def fxErf (z : Nat) : Nat :=
  if 8 * fxOne ≤ z then fxOne
  else
    let r := z * z / fxOne
    let (m, k) := fxExp (-Int.ofNat r)
    let sum := fxSeries (2 * r) (fun n => 2 * n + 3) 320 0 z
    sum * m / fxOne * fxTwoRootPi / fxOne / 2 ^ (-k).toNat

end Sys2Proof.Machine
end

