-- ==== Sys2Proof/Machine/Flags.lean ====
section
/-! DEFINITION. Number formats, rounding, conversion and the numeric flags (02_number_formats.md R43 to R71). Values are
exact: a numerator, a denominator and a binary exponent; every rounding is explicit. -/

namespace Sys2Proof.Machine

/-- An exact value: num / den × 2^exp. -/
structure Q where
  num : Int
  den : Nat := 1
  exp : Int := 0
  deriving DecidableEq, Repr

/-- The numeric flags of R67 as a mask. -/
def fSat : Nat := 1
/-- FLUSH. -/
def fFlush : Nat := 2
/-- INV. -/
def fInv : Nat := 4
/-- SCALE_OVF. -/
def fOvf : Nat := 8
/-- SCALE_UNF. -/
def fUnf : Nat := 16

/-- The integer with a given value. -/
def Q.ofInt (i : Int) : Q := { num := i }
/-- Zero. -/
def Q.zero : Q := { num := 0 }

/-- 2 to a non-negative part of an exponent. -/
def pow2 (e : Int) : Nat := 2 ^ e.toNat

/-- Exact sum. -/
def Q.add (a b : Q) : Q :=
  let e := min a.exp b.exp
  { num := a.num * b.den * pow2 (a.exp - e) + b.num * a.den * pow2 (b.exp - e), den := a.den * b.den, exp := e }

/-- Exact product. -/
def Q.mul (a b : Q) : Q := { num := a.num * b.num, den := a.den * b.den, exp := a.exp + b.exp }
/-- Negation. -/
def Q.neg (a : Q) : Q := { a with num := -a.num }
/-- Absolute value. -/
def Q.abs (a : Q) : Q := { a with num := a.num.natAbs }
/-- Exact difference. -/
def Q.sub (a b : Q) : Q := a.add b.neg
/-- Exact quotient by a value other than 0. -/
def Q.div (a b : Q) : Q :=
  { num := if b.num < 0 then -(a.num * b.den) else a.num * b.den, den := a.den * b.num.natAbs, exp := a.exp - b.exp }
/-- Order of exact values. -/
def Q.lt (a b : Q) : Bool := decide ((a.sub b).num < 0)
/-- Equality of exact values. -/
def Q.eq (a b : Q) : Bool := decide ((a.sub b).num = 0)
/-- Order of exact values. -/
def Q.le (a b : Q) : Bool := !b.lt a

/-- The magnitude of a value in units of 2^e, as numerator and denominator. -/
def Q.scaled (a : Q) (e : Int) : Nat × Nat :=
  (a.num.natAbs * pow2 (a.exp - e), a.den * pow2 (e - a.exp))

/-- floor(log2) of the magnitude of a value other than 0. -/
def Q.log2 (a : Q) : Int :=
  let g : Int := Int.ofNat (Nat.log2 a.num.natAbs) - Int.ofNat (Nat.log2 a.den) + a.exp
  let (n, d) := a.scaled g
  if n < d then g - 1 else g

/-- Round the magnitude n / d to an integer: RN (0), RZ (1) or RS (2) with the draw `u` (R58, R60). -/
def roundInt (mode u n d : Nat) : Nat :=
  let q := n / d
  let r := n % d
  match mode with
  | 0 => if d < 2 * r ∨ (2 * r = d ∧ q % 2 = 1) then q + 1 else q
  | 2 => if u < r * 65536 / d then q + 1 else q
  | _ => q

/-! ### K16 and K32 (R49, R50) -/

/-- The floating-point formats. -/
inductive Fmt where
  | k16 | k32
  deriving DecidableEq, Repr

/-- Mantissa width. -/
def Fmt.man : Fmt → Nat
  | .k16 => 8 | .k32 => 23
/-- Exponent bias. -/
def Fmt.bias : Fmt → Nat
  | .k16 => 63 | .k32 => 127
/-- Exponent field of all ones. -/
def Fmt.ones : Fmt → Nat
  | .k16 => 127 | .k32 => 255
/-- Position of the sign. -/
def Fmt.sign : Fmt → Nat
  | .k16 => 15 | .k32 => 31
/-- Bytes. -/
def Fmt.bytes : Fmt → Nat
  | .k16 => 2 | .k32 => 4
/-- The invalid code as written (R50). -/
def Fmt.inv (f : Fmt) : Nat := f.ones * 2 ^ f.man
/-- The largest finite code. -/
def Fmt.maxCode (f : Fmt) : Nat := f.inv - 1

/-- The value of a code: `none` is invalid (R49, R50). -/
def Fmt.dec (f : Fmt) (c : Nat) : Option Q :=
  let e := c / 2 ^ f.man % (f.ones + 1)
  if e = f.ones then none
  else if e = 0 then some Q.zero
  else
    let m : Int := Int.ofNat (2 ^ f.man + c % 2 ^ f.man)
    some { num := if bitN c f.sign then -m else m, exp := Int.ofNat e - Int.ofNat f.bias - Int.ofNat f.man }

/-- Round a value to the precision of a format with no exponent limit: mantissa and exponent (R59 stage 1). -/
def Fmt.round (f : Fmt) (mode u : Nat) (x : Q) : Nat × Int :=
  let e := x.log2 - Int.ofNat f.man
  let (n, d) := x.scaled e
  (roundInt mode u n d, e)

/-- The range of a format applied to a rounded magnitude q × 2^e, with the flags (R59 stage 2). -/
def Fmt.range (f : Fmt) (neg : Bool) (q : Nat) (e : Int) : Nat × Nat :=
  let (q, e) := if q = 2 ^ (f.man + 1) then (2 ^ f.man, e + 1) else (q, e)
  let ef := e + Int.ofNat f.man + Int.ofNat f.bias
  let sg := if neg then 2 ^ f.sign else 0
  if q = 0 then (0, 0)
  else if Int.ofNat f.ones ≤ ef then (sg + f.maxCode, fSat)
  else if ef ≤ 0 then (0, fFlush)
  else (sg + ef.toNat * 2 ^ f.man + (q - 2 ^ f.man), 0)

/-- A value written in a format: code and flags; invalid sets INV (R51, R59). -/
def Fmt.enc (f : Fmt) (mode u : Nat) (x : Option Q) : Nat × Nat :=
  match x with
  | none => (f.inv, fInv)
  | some v =>
    if v.num = 0 then (0, 0)
    else let (q, e) := f.round mode u v; f.range (decide (v.num < 0)) q e

/-! ### K4, K6, S8 (R45 to R48) -/

/-- The value of a K4 code (R46). -/
def decK4 (c : Nat) : Q :=
  let e := c / 2 % 4
  let m := c % 2
  let v : Int := if e = 0 then Int.ofNat m else Int.ofNat ((2 + m) * 2 ^ (e - 1))
  { num := if bitN c 3 then -v else v, exp := -1 }

/-- The value of a K6 code (R47). -/
def decK6 (c : Nat) : Q :=
  let e := c / 4 % 8
  let m := c % 4
  let v : Int := if e = 0 then Int.ofNat m else Int.ofNat ((4 + m) * 2 ^ (e - 1))
  { num := if bitN c 5 then -v else v, exp := -4 }

/-- The value of an S8 code other than 0x00 (R48). -/
def decS8 (c : Nat) : Q := { num := Int.ofNat (2 + c % 2), exp := Int.ofNat (c / 2) - 64 }

/-- The element formats of a block: K4 (false) and K6 (true). -/
def decElem (k6 : Bool) (c : Nat) : Q := if k6 then decK6 c else decK4 c

/-- Round a value to K4 or K6: code and flags (R59; a value that rounds to zero is the positive zero code). SAT is set where the
rounded value leaves the format, as in R59's example of 6.9; R66 step 4 and R546 step 2 speak of an element that exceeds V × s,
which may still round to the largest code (DESIGN CHOICE, log entry 75). -/
def encElem (k6 : Bool) (mode u : Nat) (x : Q) : Nat × Nat :=
  if x.num = 0 then (0, 0) else
  let w : Nat := if k6 then 2 else 1
  let emin : Int := if k6 then -4 else -1
  let top : Nat := if k6 then 31 else 7
  let e := max emin (x.log2 - Int.ofNat w)
  let (n, d) := x.scaled e
  let c := (e - emin).toNat * 2 ^ w + roundInt mode u n d
  let sg := if x.num < 0 then (if k6 then 32 else 8) else 0
  if c = 0 then (0, 0) else if top < c then (sg + top, fSat) else (sg + c, 0)

/-- Element `i` of packed K4 or K6 bytes (R45). -/
def elemAt (k6 : Bool) (l : List Byte) (i : Nat) : Nat :=
  if k6 then leAt l (6 * i / 8) 2 / 2 ^ (6 * i % 8) % 64 else (l.getD (i / 2) 0).toNat / 16 ^ (i % 2) % 16

/-- Pack codes: K4 two to a byte, K6 as a bit stream (R45). -/
def packElems (k6 : Bool) (cs : List Nat) : List Byte :=
  let w := if k6 then 6 else 4
  leBytes ((w * cs.length + 7) / 8) (cs.foldr (fun c a => a * 2 ^ w + c % 2 ^ w) 0)

/-- Bytes of `n` elements. -/
def elemBytes (k6 : Bool) (n : Nat) : Nat := ((if k6 then 6 else 4) * n + 7) / 8

/-! ### Block product (R55) -/

/-- The exact integer of an element: 2x for K4, 16x for K6. -/
def elemInt (k6 : Bool) (c : Nat) : Int := (decElem k6 c).num

/-- The block contribution of 32 element pairs under two S8 codes: nothing, or a K32 value and the scale flags. -/
def blockProduct (ka kb : Bool) (a b : List Nat) (sa sb : Nat) : Option (Q × Nat) :=
  if sa = 0 ∨ sb = 0 then none else
  let i := (List.zipWith (fun x y => elemInt ka x * elemInt kb y) a b).foldl (· + ·) 0
  if i = 0 then none else
  let q : Int := if ka then (if kb then 8 else 5) else (if kb then 5 else 2)
  let x : Q := {
    num := i * Int.ofNat ((2 + sa % 2) * (2 + sb % 2)),
    exp := Int.ofNat (sa / 2) + Int.ofNat (sb / 2) - 126 - q - 2 }
  let (m, e) := Fmt.k32.round 0 0 x
  let (c, fl) := Fmt.k32.range (decide (i < 0)) m e
  let v := ((Fmt.k32.dec c).getD Q.zero)
  some (v, if fl = fSat then fOvf else if fl = fFlush then fUnf else 0)

/-! ### Rounded arithmetic -/

/-- A result with its flags, INV also where an operand was invalid (R51). -/
def encOp (f : Fmt) (mode u : Nat) (invIn : Bool) (x : Option Q) : Nat × Nat :=
  let (c, fl) := f.enc mode u x
  (c, fl ||| (if invIn then fInv else 0))

/-- Lift a total binary operation to possibly invalid operands (R51). -/
def lift2 (g : Q → Q → Option Q) (a b : Option Q) : Option Q :=
  match a, b with
  | some x, some y => g x y
  | _, _ => none

/-- MAX and MIN: invalid if any operand is (R51). -/
def qMax (a b : Q) : Q := if a.lt b then b else a
/-- MIN. -/
def qMin (a b : Q) : Q := if b.lt a then b else a

/-- floor of the square root, bit by bit from bit `k`. -/
def isqrt (n : Nat) : Nat → Nat → Nat
  | 0, r => r
  | k + 1, r => if (r + 2 ^ k) * (r + 2 ^ k) ≤ n then isqrt n k (r + 2 ^ k) else isqrt n k r

/-- The transcendental functions of R70 whose inside the spec does not give. -/
inductive Trans where
  | exp | exp2 | log | log2 | tanh | sigmoid | silu | gelu | sin | cos
  deriving DecidableEq, Repr

/-- The number of a function. -/
def Trans.num : Trans → Nat
  | .exp => 0 | .exp2 => 1 | .log => 2 | .log2 => 3 | .tanh => 4 | .sigmoid => 5 | .silu => 6 | .gelu => 7
  | .sin => 8 | .cos => 9

/-- Clamp a value to [lo, hi]. -/
def qClamp (lo hi x : Q) : Q := qMax lo (qMin hi x)

/-- The value in units of 2^-160, rounded down. -/
def Q.fx (x : Q) : Int :=
  let n := x.num * Int.ofNat (pow2 (x.exp + 160))
  n / Int.ofNat (x.den * pow2 (-x.exp - 160))

/-- A fixed-point number as a value. -/
def Q.ofFx (x : Int) : Q := { num := x, exp := -160 }

/-- 1 / (1 + e^(-x)), to 100 bits and more after the point. -/
def fxSigmoid (x : Q) : Q :=
  if (Q.ofInt 120).lt x then Q.ofInt 1
  else if x.lt (Q.ofInt (-120)) then Q.zero
  else
    let (m, k) := fxExp (-x.fx)
    let e := m * pow2 k / pow2 (-k)
    Q.ofFx (Int.ofNat (fxOne * fxOne / (fxOne + e)))

/-- The exact value of a function of R70, to at least 60 bits: that of EXP and EXP2 beyond ±200 stands for one that overflows
or flushes. -/
def Trans.exact (t : Trans) (x : Q) : Q :=
  let big := (Q.ofInt 200).lt x.abs
  let far : Q := { num := 1, exp := if x.num < 0 then -250 else 250 }
  match t with
  | .exp => if big then far else let (m, k) := fxExp x.fx; { num := Int.ofNat m, exp := k - 160 }
  | .exp2 => if big then far else
    let (m, k) := fxExp (x.fx % Int.ofNat fxOne * Int.ofNat fxLn2 / Int.ofNat fxOne)
    { num := Int.ofNat m, exp := k - 160 + x.fx / Int.ofNat fxOne }
  | .log => Q.ofFx (fxLn (x.num.natAbs * pow2 x.exp) (x.den * pow2 (-x.exp)))
  | .log2 => Q.ofFx (fxLn (x.num.natAbs * pow2 x.exp) (x.den * pow2 (-x.exp)) * Int.ofNat fxOne / Int.ofNat fxLn2)
  | .sigmoid => fxSigmoid x
  | .tanh => ((fxSigmoid (x.add x)).add (fxSigmoid (x.add x))).sub (Q.ofInt 1)
  | .silu => x.mul (fxSigmoid x)
  | .gelu =>
    let z := if (Q.ofInt 16).lt x.abs then 16 * fxOne else x.abs.fx.toNat * fxRootHalf / fxOne
    let e := Int.ofNat (fxErf z)
    (x.mul (Q.ofFx (Int.ofNat fxOne + if x.num < 0 then -e else e))).mul { num := 1, exp := -1 }
  | .sin => Q.ofFx (fxSin x.fx)
  | .cos => Q.ofFx (fxCos x.fx)

/-- `n` half units in the last place of K32 at a value (R70). -/
def halfUlps (n : Nat) (y : Q) : Q := if y.num = 0 then Q.zero else { num := Int.ofNat n, exp := y.log2 - 24 }

/-- The bound of R70 for a function at operand x and exact value y, in K32 under RN. -/
def Trans.bound (t : Trans) (x y : Q) : Q :=
  match t with
  | .exp | .exp2 => halfUlps 4 y
  | .log | .log2 => if ({ num := 1, exp := -1 } : Q).le x && x.le (Q.ofInt 2) then { num := 1, exp := -22 } else halfUlps 4 y
  | .tanh | .sigmoid => { num := 1, exp := -22 }
  | .silu | .gelu => qMax (halfUlps 8 y) (x.abs.mul { num := 1, exp := -22 })
  | .sin | .cos => { num := 1, exp := -21 }

/-- The free value an operation of R70 computes, before its rounding: operation number and operand codes (log entry 9). -/
def freeQ (op code : Nat) : Q := { num := Config.transNum op code, exp := Config.transExp op code }

/-- A computed value written in a format and held to a bound about the exact value y (R70): the free value `v` is taken within
the bound and rounded once by the mode. In K32 the result lies within the bound, half an ulp more under RZ and RS; where the
rounding would lead out of it, y itself is rounded (log entry 9). In K16 the one rounding is added to the bound. -/
def encNear (f : Fmt) (mode u : Nat) (y b v : Q) : Nat × Nat :=
  let r := f.enc mode u (some (qClamp (y.sub b) (y.add b) v))
  let lim := if mode = 0 then b else b.add (halfUlps 1 y)
  match f, f.dec r.1 with
  | .k32, some z => if (z.sub y).abs.le lim then r else f.enc mode u (some y)
  | _, _ => r

/-- The computed value of a function of R70 before its rounding: a free value of function and operand, held to the bound of R70
about the exact value. SIN and COS beyond 2^17 lie from −1 to 1 (log entry 9). -/
def Trans.raw (t : Trans) (x : Q) (code : Nat) : Q :=
  let one := Q.ofInt 1
  if (t == .sin || t == .cos) && (Q.ofInt (2 ^ 17)).lt x.abs then qClamp one.neg one (freeQ t.num code)
  else
    let y := t.exact x
    let b := t.bound x y
    qClamp (y.sub b) (y.add b) (freeQ t.num code)

/-- A transcendental function written in a format, with the special inputs of R70. `code` names the operand. -/
def numTrans (t : Trans) (f : Fmt) (mode u : Nat) (a : Option Q) (code : Nat) : Nat × Nat :=
  match a with
  | none => (f.inv, fInv)
  | some x =>
    let y (_ : Unit) : Nat × Nat :=
      if (t == .sin || t == .cos) && (Q.ofInt (2 ^ 17)).lt x.abs then f.enc mode u (some (t.raw x code))
      else encNear f mode u (t.exact x) (t.bound x (t.exact x)) (freeQ t.num code)
    match t with
    | .log | .log2 =>
      if x.num = 0 then (2 ^ f.sign + f.maxCode, fSat)
      else if x.num < 0 then (f.inv, fInv) else y ()
    | _ => y ()

/-- The root of a positive value, to 60 bits. -/
def qRoot (sq : Q) : Q :=
  let e := sq.log2 / 2 - 60
  let (n, d) := sq.scaled (2 * e)
  { num := Int.ofNat (isqrt (n / d) 63 0), exp := e }

/-- A / B within 1 ulp, with its special inputs (R70). `v`: the free value. -/
def numDiv (f : Fmt) (mode u : Nat) (v : Q) (a b : Option Q) : Nat × Nat :=
  match a, b with
  | some x, some y =>
    if y.num = 0 then
      if x.num = 0 then (f.inv, fInv)
      else ((if x.num < 0 then 2 ^ f.sign else 0) + f.maxCode, fSat)
    else if x.num = 0 then (0, 0)
    else encNear f mode u (x.div y) (halfUlps 2 (x.div y)) v
  | _, _ => (f.inv, fInv)

/-- sqrt within 1 ulp (R70). -/
def numSqrt (f : Fmt) (mode u : Nat) (v : Q) (a : Option Q) : Nat × Nat :=
  match a with
  | some x => if x.num = 0 then (0, 0) else if x.num < 0 then (f.inv, fInv)
    else encNear f mode u (qRoot x) (halfUlps 2 (qRoot x)) v
  | none => (f.inv, fInv)

/-- 1 / sqrt within 2 ulp (R70). -/
def numRsqrt (f : Fmt) (mode u : Nat) (v : Q) (a : Option Q) : Nat × Nat :=
  match a with
  | some x =>
    if x.num = 0 then (f.maxCode, fSat) else if x.num < 0 then (f.inv, fInv)
    else let y := qRoot ((Q.ofInt 1).div x); encNear f mode u y (halfUlps 4 y) v
  | none => (f.inv, fInv)

/-- g(u) = −ln(−ln u) for the 32-bit draw d and u = (d + 0.5) / 2^32 (R159). -/
def gumbelExact (d : Nat) : Q := Q.ofFx (-(fxLn (-(fxLn (2 * d + 1) (2 ^ 33))).toNat fxOne))

/-! ### Integers and conversions (R52, R64) -/

/-- A value rounded to an n-bit two's complement integer and saturated; invalid becomes 0 and sets INV (R64). -/
def encInt (n mode u : Nat) (x : Option Q) : Nat × Nat :=
  match x with
  | none => (0, fInv)
  | some v =>
    let (p, d) := v.scaled 0
    let q : Int := Int.ofNat (roundInt mode u p d)
    let q := if v.num < 0 then -q else q
    if q < -(2 ^ (n - 1)) then (2 ^ (n - 1), fSat)
    else if 2 ^ (n - 1) - 1 < q then (2 ^ (n - 1) - 1, fSat)
    else (wrapI n q, 0)

/-- An integer result of n bits: wrapped, or saturated with SAT where the instruction selects it (R52; log entry 10). -/
def intResult (n : Nat) (sat : Bool) (x : Int) : Nat × Nat :=
  if sat then
    if x < -(2 ^ (n - 1)) then (2 ^ (n - 1), fSat)
    else if 2 ^ (n - 1) - 1 < x then (2 ^ (n - 1) - 1, fSat) else (wrapI n x, 0)
  else (wrapI n x, 0)

/-! ### Stochastic rounding (R61, R62) -/

/-- The 16-bit draw `n` of a unit (R61). -/
def drawRS (seed uid n : Nat) : Nat :=
  let x := Nat.xor (Nat.xor (seed % 2 ^ 64) (uid * 2 ^ 48 % 2 ^ 64)) (n % 2 ^ 48)
  let x := Nat.xor x (x / 2 ^ 32) * 0x9E6C63D0676A9A99 % 2 ^ 64
  let x := Nat.xor x (x / 2 ^ 29) * 0xA2F5C8B13D47E0F3 % 2 ^ 64
  Nat.xor x (x / 2 ^ 32) % 65536

/-! ### Quantization (R66, R546) -/

/-- The smallest S8 code other than 0x00 with M ≤ V × s, or 0xFF (R66 steps 3 and 4). -/
def genScale (k6 : Bool) (m : Q) : Nat :=
  let v : Q := Q.ofInt (if k6 then 28 else 6)
  let ok (c : Nat) : Bool := m.le (v.mul (decS8 c))
  ((List.range 255).find? (fun i => ok (i + 1))).elim 0xFF (· + 1)

/-- Elements as codes under a scale code other than 0x00: draw number `i` for the element at `i` (R66 step 5, R546). -/
def quantElems (k6 : Bool) (mode : Nat) (draw : Nat → Nat) (s : Nat) : Nat → List (Option Q) → List Nat × Nat
  | _, [] => ([], 0)
  | i, x :: l =>
    let (c, fl) := match x with
      | none => (0, fInv)
      | some v => encElem k6 mode (draw i) (v.div (decS8 s))
    let (cs, fs) := quantElems k6 mode draw s (i + 1) l
    (c :: cs, fl ||| fs)

/-- A block with a generated scale: scale code, element codes, flags (R66). -/
def quantGen (k6 : Bool) (mode : Nat) (draw : Nat → Nat) (xs : List (Option Q)) : Nat × List Nat × Nat :=
  let m := xs.foldl (fun m x => match x with | some v => qMax m v.abs | none => m) Q.zero
  let inv := if xs.any (·.isNone) then fInv else 0
  if m.num = 0 then (0, xs.map (fun _ => 0), inv)
  else
    let s := genScale k6 m
    let (cs, fl) := quantElems k6 mode draw s 0 xs
    if cs.all (· == 0) then (0, cs, fl ||| inv) else (s, cs, fl ||| inv)

/-- A block with an explicit scale code (R546). -/
def quantExp (k6 : Bool) (mode : Nat) (draw : Nat → Nat) (s : Nat) (xs : List (Option Q)) : List Nat × Nat :=
  if s = 0 then (xs.map (fun _ => 0), if xs.any (·.isNone) then fInv else 0)
  else quantElems k6 mode draw s 0 xs

/-- The value of an element under its block scale; scale 0x00 reads as zero (R48, R64). -/
def dequant (k6 : Bool) (c s : Nat) : Q := if s = 0 then Q.zero else (decElem k6 c).mul (decS8 s)

end Sys2Proof.Machine
end

