-- ==== Sys2Proof/Machine/FabOps.lean ====
section
/-! DEFINITION. The shared operations of the sheave fabric: slots, queues, routes, the instructions of a sheave, one round
of the static networks (04_sheave_fabric.md). -/

namespace Sys2Proof.Machine

/-! ### Access -/

/-- The fabric of a mast. -/
def State.fabric (s : State) (m : Nat) : Fabric := Tbl.get {} s.fab m
/-- Store the fabric of a mast. -/
def State.setFabric (s : State) (m : Nat) (x : Fabric) : State := { s with fab := Tbl.set s.fab m x }
/-- Sheave `n` of a mast. -/
def State.sheave (s : State) (m n : Nat) : Sheave := Tbl.get {} (s.fabric m).sheaves n
/-- Store sheave `n` of a mast. -/
def State.setSheave (s : State) (m n : Nat) (x : Sheave) : State :=
  s.setFabric m { s.fabric m with sheaves := Tbl.set (s.fabric m).sheaves n x }
/-- Something moved in the fabric (R134, R136). -/
def State.fabMoved (s : State) (m : Nat) : State := s.setFabric m { s.fabric m with moved := true }
/-- Edge port `p` of a mast. -/
def State.eport (s : State) (m p : Nat) : EdgePort := Tbl.get {} (s.fabric m).ports p
/-- Store edge port `p` of a mast. -/
def State.setEport (s : State) (m p : Nat) (x : EdgePort) : State :=
  s.setFabric m { s.fabric m with ports := Tbl.set (s.fabric m).ports p x }
/-- A field of edge port `p`. -/
def State.edge (s : State) (m p : Nat) (F : Field) : Nat := s.f (.fabEdge m p F.w) F
/-- A field of a slot header. -/
def State.hdr (s : State) (m n k : Nat) (F : Field) : Nat := s.f (.slot m n k 0) F
/-- The clock of a mast runs (R472, R476). -/
def State.fabClocked (s : State) (m : Nat) : Bool := s.mastClocked m

/-- Depth of a pool input queue (R103). -/
def iqDepth (q : Nat) : Nat := if q < 6 then 4 else if q < 10 then 8 else 16
/-- Depth of an output queue (R103). -/
def oqDepth (q : Nat) : Nat := if q < 2 then 2 else if q < 4 then 4 else 8
/-- The network of a pool input queue. -/
def iqNet (q : Nat) : Nat := if q < 6 then 0 else if q < 10 then 1 else 2
/-- The network of an output queue. -/
def oqNet (q : Nat) : Nat := if q < 2 then 0 else if q < 4 then 1 else 2

/-- Entries of a pool input queue. -/
def Sheave.inq (x : Sheave) (q : Nat) : List FabEntry := Tbl.get [] x.iq q
/-- Entries of an output queue. -/
def Sheave.outq (x : Sheave) (q : Nat) : List FabEntry := Tbl.get [] x.oq q
/-- A pool input queue has a free entry. -/
def Sheave.inFree (x : Sheave) (q : Nat) : Bool := decide ((x.inq q).length < iqDepth q)
/-- An output queue has a free entry. -/
def Sheave.outFree (x : Sheave) (q : Nat) : Bool := decide ((x.outq q).length < oqDepth q)
/-- Append to a pool input queue. -/
def Sheave.pushIn (x : Sheave) (q : Nat) (e : FabEntry) : Sheave := { x with iq := Tbl.set x.iq q (x.inq q ++ [e]) }
/-- Append to an output queue. -/
def Sheave.pushOut (x : Sheave) (q : Nat) (e : FabEntry) : Sheave := { x with oq := Tbl.set x.oq q (x.outq q ++ [e]) }
/-- Latch and pop the head of a pool input queue. -/
def Sheave.popIn (x : Sheave) (q : Nat) : Sheave :=
  match x.inq q with
  | [] => x
  | e :: l => { x with iq := Tbl.set x.iq q l, latch := Tbl.set x.latch q e }

/-! ### Selection and firing (R128, R130) -/

/-- The queues of a bit mask. -/
def queuesOf (n mask : Nat) : List Nat := (List.range n).filter (bitN mask)

/-- The pool input queues a slot binds. -/
def State.inBound (s : State) (m n k : Nat) : List Nat := queuesOf 12 (s.hdr m n k SLOT.INBIND)
/-- The output queues a slot binds. -/
def State.outBound (s : State) (m n k : Nat) : List Nat := queuesOf 5 (s.hdr m n k SLOT.OUTBIND)

/-- The roles of a steering slot (R130): data queues, token queue, data outputs, token output. -/
structure Roles where
  d : List Nat
  t : Option Nat
  o : List Nat
  c : Option Nat
  deriving DecidableEq, Repr

/-- The roles of a slot's queues, in ascending queue number (R130). -/
def State.roles (s : State) (m n k : Nat) : Roles :=
  let i := s.inBound m n k
  let o := s.outBound m n k
  let merge := s.hdr m n k SLOT.KIND == 3
  let data := i.filter (fun q => decide (q < 10))
  let ctl := i.filter (fun q => decide (10 ≤ q))
  let od := o.filter (fun q => decide (q < 4))
  if merge then
    { d := if data = [] then ctl else data, t := none, o := if od = [] then o else od
      c := if od = [] then none else if o.contains 4 then some 4 else none }
  else { d := if data = [] then ctl.drop 1 else data, t := ctl.head?, o := if od = [] then o else od, c := none }

/-- The token at the head of a queue: a poisoned one acts as token 0 (R131). -/
def tokenOf (e : FabEntry) : Nat := if e.p then 0 else e.v % 2

/-- The input a steering slot would take and the output it would write, if it is ready: data queue, output queue, and the
index MERGE reports (R130, R131). -/
def State.steer (s : State) (m n k : Nat) : Option (Nat × Nat × Nat) :=
  let x := s.sheave m n
  let r := s.roles m n k
  let tok := (r.t.bind (fun q => (x.inq q).head?)).map tokenOf
  match s.hdr m n k SLOT.KIND, r.d, r.o, tok with
  | 1, d :: _, o, some t => match o[t]? with
    | some q => if x.inq d ≠ [] ∧ x.outFree q then some (d, q, t) else none
    | none => none
  | 2, d, o :: _, some t => match d[t]? with
    | some q => if x.inq q ≠ [] ∧ x.outFree o then some (q, o, t) else none
    | none => none
  | 3, d0 :: l, o :: _, _ =>
    let cFree := match r.c with | some c => x.outFree c | none => true
    let d1 := l.headD d0
    if !(x.outFree o && cFree) then none
    else match (x.inq d0).head?, (if l = [] then none else (x.inq d1).head?) with
      | some a, some b => if b.at_ < a.at_ then some (d1, o, 1) else some (d0, o, 0)
      | some _, none => some (d0, o, 0)
      | none, some _ => some (d1, o, 1)
      | none, none => none
  | _, _, _, _ => none

/-- Every input a COMPUTE slot binds holds an entry. -/
def State.inputsReady (s : State) (m n k : Nat) : Bool :=
  if s.hdr m n k SLOT.KIND = 0 then (s.inBound m n k).all (fun q => (s.sheave m n).inq q != [])
  else
    let x := s.sheave m n
    let r := s.roles m n k
    match s.hdr m n k SLOT.KIND, r.t.bind (fun q => (x.inq q).head?) with
    | 1, some _ => r.d.head?.elim false (fun d => x.inq d != [])
    | 2, some e => (r.d[tokenOf e]?).elim false (fun d => x.inq d != [])
    | 3, _ => (r.d.take 2).any (fun d => x.inq d != [])
    | _, _ => false

/-- A slot's configuration is in force (R128, R141). -/
def State.slotLive (s : State) (m n k : Nat) : Bool :=
  s.hdr m n k SLOT.VALID == 1 && s.hdr m n k SLOT.GEN == s.f (.fabGen m) FAB_GEN.GEN && s.bit (.fabCtrl m) FAB_CTRL.ENABLE

/-- Slot `k` is ready (R128). -/
def State.slotReady (s : State) (m n k : Nat) : Bool :=
  s.slotLive m n k &&
  (if s.hdr m n k SLOT.KIND = 0 then
    s.inputsReady m n k && (s.outBound m n k).all (fun q => (s.sheave m n).outFree q)
  else (s.steer m n k).isSome)

/-- The slot the sheave selects: the first ready one after the slot that fired last (R128). -/
def State.slotPick (s : State) (m n : Nat) : Option Nat :=
  ((List.range 8).map (fun i => ((s.sheave m n).last + 1 + i) % 8)).find? (s.slotReady m n)

/-- Count a firing. FIRE counts the firing in progress: the first firing reads 1 (R123 does not say: DESIGN CHOICE, log entry
77). -/
def State.countFire (s : State) (m n k : Nat) : State :=
  let x := s.sheave m n
  let s := s.setSheave m n { x with last := k, fires := Tbl.set x.fires k (wrapAdd 32 (Tbl.get 0 x.fires k) 1) }
  (s.incSat (.fabStat m) FAB_STAT.FIRINGS).fabMoved m

/-- Store the flag byte of a slot's last firing (R127). -/
def State.fireFlags (s : State) (m n k fl : Nat) : State :=
  let r := Reg.shvFlags m n
  let s := s.wr r (BitVec.ofNat 64 (setBits (s.rd r).toNat (8 * k + 7) (8 * k) fl))
  s.setF (.fabStat m) FAB_STAT.FLAGS (s.f (.fabStat m) FAB_STAT.FLAGS ||| fl)

/-- A COMPUTE slot fires: it latches and pops its inputs and begins its program (R128, R129). -/
def State.fireCompute (s : State) (m n k : Nat) : State :=
  let x := s.sheave m n
  let qs := s.inBound m n k
  let bad := qs.any (fun q => ((x.inq q).head?).elim false (·.p))
  let x := qs.foldl Sheave.popIn x
  let s := (s.setSheave m n x).countFire m n k
  if s.hdr m n k SLOT.LENGTH = 0 then s.fireFlags m n k 0
  else s.setSheave m n { s.sheave m n with cur := some { slot := k, next := 0, bad := bad } }

/-- A steering slot fires (R130, R131). -/
def State.fireSteer (s : State) (m n k : Nat) : State :=
  match s.steer m n k with
  | none => s
  | some (d, o, i) =>
    let x := s.sheave m n
    let r := s.roles m n k
    match (x.inq d).head? with
    | none => s
    | some e =>
      let tp := (r.t.bind (fun q => (x.inq q).head?)).elim false (·.p)
      let x := x.popIn d
      let x := match r.t with
        | some t => x.popIn t
        | none => x
      let x := x.pushOut o { e with p := e.p || tp }
      let x := match r.c with
        | some c => x.pushOut c { v := i, p := e.p }
        | none => x
      ((s.setSheave m n x).countFire m n k).fireFlags m n k 0

/-- The sheave selects a slot of the given kind, if that is what it would fire in this cycle (R128). -/
def State.fire (s : State) (m n kind : Nat) : State :=
  if !s.fabClocked m || (s.sheave m n).cur.isSome then s
  else match s.slotPick m n with
  | none => s
  | some k =>
    if s.hdr m n k SLOT.KIND ≠ kind then s
    else if kind = 0 then s.fireCompute m n k else s.fireSteer m n k

/-! ### Instructions (R122 to R126) -/

/-- An instruction word: instruction `i` of slot `k`. -/
def State.shvWord (s : State) (m n k i : Nat) : Nat :=
  (s.rd (.slot m n k (4 + i / 2))).toNat / 2 ^ (32 * (i % 2)) % 2 ^ 32

/-- Lanes of a type (R103). -/
def tyLanes (t : Nat) : Nat := if t = 1 then 32 else 16
/-- Bits of a lane. -/
def tyBits (t : Nat) : Nat := if t = 1 then 16 else 32
/-- The float format of a type. -/
def tyFmt (t : Nat) : Fmt := if t = 1 then .k16 else .k32

/-- Lane `i` of a 512-bit value. -/
def laneAt (t v i : Nat) : Nat := v / 2 ^ (tyBits t * i) % 2 ^ tyBits t

/-- The value of a lane. -/
def laneDec (t c : Nat) : Option Q := if t = 2 then some (Q.ofInt (sext 32 c)) else (tyFmt t).dec c

/-- A 512-bit value from its lanes. -/
def packLanes (t : Nat) (l : List Nat) : Nat := l.foldr (fun c a => a * 2 ^ tyBits t + c % 2 ^ tyBits t) 0

/-- A source operand: its code in each lane, and its poison (R123). -/
structure ShvSrc where
  lane : Nat → Nat
  p : Bool

/-- Read a source operand: `scl` decodes codes 0x00 to 0x1F as S registers. -/
def Sheave.src (x : Sheave) (scl : Bool) (slot t c : Nat) : ShvSrc :=
  let all (v : Nat) (p : Bool) : ShvSrc := { lane := fun _ => v % 2 ^ tyBits t, p := p }
  let vec (v : Nat) (p : Bool) : ShvSrc := { lane := laneAt t v, p := p }
  if c < 0x20 then
    if scl then let y := Tbl.get (0, false) x.sc c; all y.1 y.2 else let y := Tbl.get (0, false) x.v c; vec y.1 y.2
  else if c < 0x26 then let e := Tbl.get { v := 0 } x.latch (c - 0x20); vec e.v e.p
  else if c < 0x2A then let e := Tbl.get { v := 0 } x.latch (c - 0x20); all e.v e.p
  else if c < 0x2C then let e := Tbl.get { v := 0 } x.latch (c - 0x20); all (e.v % 2 + 2 * (e.tag % 128)) e.p
  else if c = 0x3D then all (Tbl.get 0 x.fires slot) false
  else if c = 0x3E then { lane := fun i => i, p := false }
  else all 0 false

/-- Predicate `p` as a mask, with its poison (R103). -/
def Sheave.pred (x : Sheave) (p : Nat) : Nat × Bool := if p = 0 then (2 ^ 32 - 1, false) else Tbl.get (0, false) x.pr p

/-- An instruction's result: the code of each lane it computes, flags, and how many draws it takes. -/
structure ShvRes where
  codes : List Nat
  flags : Nat := 0
  draws : Nat := 0
  deriving DecidableEq, Repr

/-- A float lane result (R51, R126). -/
def shvEnc (t rnd u : Nat) (inv : Bool) (v : Option Q) : Nat × Nat :=
  if t = 2 then (wrapI 32 ((v.getD Q.zero).num), 0) else encOp (tyFmt t) rnd u inv v

/-- The value of an arithmetic operation on lanes a, b and d (R124). -/
def shvVal (op : Nat) (a b d : Option Q) : Option Q :=
  match op with
  | 0x01 => a
  | 0x02 => lift2 (fun p q => some (p.add q)) a b
  | 0x03 => lift2 (fun p q => some (p.sub q)) a b
  | 0x04 => lift2 (fun p q => some (p.mul q)) a b
  | 0x05 => lift2 (fun p q => some (p.add q)) (lift2 (fun p q => some (p.mul q)) a b) d
  | 0x06 => lift2 (fun p q => some (qMax p q)) a b
  | 0x07 => lift2 (fun p q => some (qMin p q)) a b
  | 0x08 => a.map Q.abs
  | 0x09 => a.map Q.neg
  | _ => a

/-- A bitwise or shift operation on 32-bit lanes (R124). -/
def shvBits (op a b : Nat) : Nat :=
  match op with
  | 0x0A => Nat.land a b
  | 0x0B => Nat.lor a b
  | 0x0C => Nat.xor a b
  | 0x0D => a * 2 ^ (b % 32) % 2 ^ 32
  | 0x0E => a / 2 ^ (b % 32)
  | _ => wrapI 32 (sext 32 a / Int.ofNat (2 ^ (b % 32)))

/-- A relation; false with an invalid operand (R51). -/
def shvRel (op : Nat) (a b : Option Q) : Bool :=
  match a, b with
  | some p, some q => if op = 0x10 then p.eq q else if op = 0x11 then p.lt q else p.le q
  | _, _ => false

/-- One level of the tree of RSUM or RMAX: neighbours combine, a float sum in K32 by `rnd`; `draw i` serves the addition of
number `i` on. -/
def shvPairs (op t rnd : Nat) (draw : Nat → Nat) : Nat → List (Option Q) → List (Option Q) × Nat
  | i, a :: b :: l =>
    let r := lift2 (fun p q => some (if op = 0x15 then p.add q else qMax p q)) a b
    let (c, f) := if t = 2 then (r, 0) else
      let (c, f) := encOp .k32 rnd (draw i) (a.isNone || b.isNone) r
      (Fmt.k32.dec c, f)
    let (cs, fs) := shvPairs op t rnd draw (i + 1) l
    (c :: cs, f ||| fs)
  | _, l => (l, 0)

/-- The sum or the maximum of lanes by pairs, level by level (R126). Under RS the additions draw in the order in which the
levels and, within one, the lanes stand (R126 gives one draw a lane and no order within the tree: DESIGN CHOICE, log entry
77). -/
def shvTree (op t rnd : Nat) (draw : Nat → Nat) : Nat → Nat → List (Option Q) → Option Q × Nat
  | 0, _, l => (l.headD (some Q.zero), 0)
  | k + 1, i, l =>
    let (l', f) := shvPairs op t rnd draw i l
    let (v, g) := shvTree op t rnd draw k (i + l.length / 2) l'
    (v, f ||| g)

/-- An operation that rounds (R126). -/
def shvRounds (op t : Nat) : Bool := (t != 2 && ((decide (2 ≤ op) && decide (op ≤ 5)) || op == 0x15)) || op == 0x14

/-- What an instruction computes from its sources: the lanes of the result (one lane in the scalar form), for CVT the
half of the K16 lanes it names (R124, R126). `draw` is the generator of the sheave from its present counter. Lanes that the
predicate disables are computed too: they take their draws (R126), and their events count in the flags, which R67 calls the OR
of all events in all lanes (DEDUCED, log entry 77). Of CVT the spec leaves open, and the model settles (log entry 79): SrcB[2]
names the half of the K16 lanes for int32 too; the counter advances by the lanes of the instruction's Type also where 16 are
converted or none can round, and lane i of the half named takes draw i. LANE of a lane beyond the type's gives 0. -/
def shvCompute (scl : Bool) (op t rnd sb : Nat) (draw : Nat → Nat) (a b d : Nat → Nat) (pr : Nat → Bool) : ShvRes :=
  let n := if scl then 1 else tyLanes t
  let lanes (f : Nat → Nat × Nat) : ShvRes :=
    let l := (List.range n).map f
    { codes := l.map (·.1), flags := l.foldl (fun x y => x ||| y.2) 0, draws := if shvRounds op t then n else 0 }
  let one (c f : Nat) : ShvRes := { codes := [c], flags := f, draws := if shvRounds op t then n else 0 }
  let val (f : Nat → Nat) (i : Nat) : Option Q := laneDec t (f i)
  if op ≤ 0x09 then lanes (fun i =>
    let v := shvVal op (val a i) (val b i) (val d i)
    shvEnc t rnd (draw i) v.isNone v)
  else if op ≤ 0x0F then lanes (fun i => (shvBits op (a i) (b i), 0))
  else if op ≤ 0x12 then lanes (fun i => ((if shvRel op (val a i) (val b i) then 1 else 0),
    if (val a i).isNone ∨ (val b i).isNone then fInv else 0))
  else match op with
  | 0x13 => lanes (fun i => let v := if pr i then val a i else val b i; shvEnc t 0 0 v.isNone v)
  | 0x14 =>
    let dt := sb % 4
    let half := sb / 4 % 2
    let cnt := if scl then 1 else if t = 1 ∧ dt = 1 then 32 else 16
    let l := (List.range cnt).map (fun i =>
      let v := val a (if t = 1 ∧ dt ≠ 1 ∧ !scl then i + 16 * half else i)
      if dt = 2 then (if t = 2 then (wrapI 32 ((v.getD Q.zero).num), 0) else encInt 32 rnd (draw i) v)
      else encOp (tyFmt dt) rnd (draw i) v.isNone v)
    { codes := l.map (·.1), flags := l.foldl (fun x y => x ||| y.2) 0, draws := n }
  | 0x15 =>
    let (v, f) := shvTree 0x15 t rnd draw (if t = 1 then 5 else 4) 0 ((List.range n).map (val a))
    let (c, g) := shvEnc t rnd (draw (n - 1)) v.isNone v
    one c (f ||| g)
  | 0x16 =>
    let (v, _) := shvTree 0x16 2 0 draw (if t = 1 then 5 else 4) 0 ((List.range n).map (val a))
    let (c, g) := shvEnc t 0 0 v.isNone v
    one c g
  | _ =>
    -- LANE and INS hand on one lane, in its canonical code (R50, R51)
    let v := val a (if op = 0x17 then sb % 32 else 0)
    let (c, g) := shvEnc t 0 0 v.isNone v
    one c g

/-- Issue the next instruction of a sheave's firing, if its Op is `op` (R122 to R127, R129). Latencies and interlocks are
timing and left out. Where d of FMA or the other lanes of INS and CVT name an output operand, which has no old value, and
for the tag of a scalar output, the spec states no value: free values (log entry 19). SEL has no write guard, and is written
to an output whatever bit 0 of the predicate is; INS names its lane modulo the lanes of the type; a vector result that no lane
of the predicate writes poisons its register where an operand is poisoned (log entry 79). -/
def State.shvIssue (s : State) (m n op : Nat) : State :=
  let x := s.sheave m n
  match x.cur with
  | none => s
  | some c =>
    let w := s.shvWord m n c.slot c.next
    if !s.fabClocked m || fld w 30 26 != op then s
    else
      let scl := bitN w 31
      let t := fld w 25 24
      let dst := fld w 23 18
      let rnd := s.hdr m n c.slot SLOT.RND
      let (pm, pp) := x.pred (fld w 5 2)
      let pr (i : Nat) : Bool := bitN pm i != bitN w 1
      let a := x.src (scl || op == 0x18) c.slot t (fld w 17 12)
      let immB := op == 0x14 || op == 0x17 || op == 0x18
      let b := if immB then { lane := fun _ => 0, p := false } else x.src scl c.slot t (fld w 11 6)
      let sclD := scl || op == 0x15 || op == 0x16 || op == 0x17
      let cmp := decide (0x10 ≤ op) && decide (op ≤ 0x12)
      let out := decide (0x30 ≤ dst) && !cmp
      let free := Config.freeNat s.free
      let old : Nat × Bool :=
        if out then (free % 2 ^ 512, false)
        else if sclD then Tbl.get (0, false) x.sc dst else Tbl.get (0, false) x.v dst
      let uid := uSheave (256 * m + n)
      let draw (i : Nat) : Nat := drawRS (s.seedOf uid) uid (x.rs + i)
      let usesB := (decide (2 ≤ op) && decide (op ≤ 7)) || (decide (0x0A ≤ op) && decide (op ≤ 0x13))
      let r : ShvRes :=
        if op = 0 then { codes := [] }
        else if op = 0x19 then
          { codes := [(Tbl.get { v := 0 } x.latch (fld w 17 12 - 0x20)).tag] }
        else shvCompute scl op t rnd (fld w 11 6) draw a.lane b.lane (laneAt t old.1) pr
      let p := pp || a.p || (usesB && b.p) || ((op == 0x05 || op == 0x18) && old.2)
      let p := if op = 0 then false else p
      let x := { x with rs := (x.rs + if rnd = 2 then r.draws else 0) % 2 ^ 48 }
      let write (x : Sheave) : Sheave :=
        if op = 0 then x
        else if cmp then
          let d := dst % 16
          let (o, op_) := x.pred d
          if d = 0 then x
          else if scl then
            if pr 0 then { x with pr := Tbl.set x.pr d (if r.codes = [1] then 2 ^ 32 - 1 else 0, p) } else x
          else
            let k := tyLanes t
            let v := maskOf 32 (fun i => if i < k ∧ pr i then r.codes.getD i 0 == 1 else bitN o i)
            let full := k == 32 && (List.range 32).all pr
            { x with pr := Tbl.set x.pr d (v, p || (op_ && !full)) }
        else if sclD then
          let v := r.codes.headD 0
          if !(pr 0 || op == 0x13) then x
          else if out then
            if dst = 0x34 then x.pushOut 4 { v := v % 2, tag := v / 2 % 128, p := p || c.bad }
            else x.pushOut (dst - 0x30) { v := v, tag := free / 2 ^ 512 % 16, p := p || c.bad }
          else { x with sc := Tbl.set x.sc dst (v, p) }
        else
          -- the lanes of d: type, value and whether each is written
          let td := if op = 0x14 then fld w 11 6 % 4 else t
          let k := tyLanes td
          let half := if op = 0x14 ∧ td = 1 ∧ t ≠ 1 then some (fld w 11 6 / 4 % 2) else none
          let new (i : Nat) : Option Nat :=
            if op = 0x18 then (if i = fld w 11 6 % 32 % k then r.codes.head? else none)
            else match half with
              | some h => if 16 * h ≤ i ∧ i < 16 * h + 16 then r.codes[i - 16 * h]? else none
              | none => r.codes[i]?
          let full := (List.range k).all (fun i => (new i).isSome && (pr i || op == 0x13 || out))
          let v := packLanes td ((List.range k).map (fun i =>
            match new i with
            | some y => if pr i || op == 0x13 || out then y else laneAt td old.1 i
            | none => laneAt td old.1 i))
          if out then (if pr 0 || op == 0x13 then x.pushOut (dst - 0x30) { v := v, p := p || c.bad } else x)
          else { x with v := Tbl.set x.v dst (v, p || (old.2 && !full)) }
      let x := write x
      let fl := c.flags ||| r.flags
      let s := s.tickFree
      if c.next + 1 < s.hdr m n c.slot SLOT.LENGTH then
        s.setSheave m n { x with cur := some { c with next := c.next + 1, flags := fl } }
      else (s.setSheave m n { x with cur := none }).fireFlags m n c.slot fl

/-! ### The static networks (R107 to R113) -/

/-- The route-plane group of input `g` on lane `k` of router `n`: its target bits (R119). Directions 0 to 3 come first. -/
def State.route (s : State) (m n k net g : Nat) : Nat :=
  let w := if net = 0 then 10 else if net = 1 then 8 else 6
  (s.rd (.slot m n k (1 + net))).toNat / 2 ^ (w * g) % 2 ^ w

/-- Where a direction leads from a sheave: a neighbour, or off the grid. -/
def neighbour (n d : Nat) : Option Nat :=
  match d with
  | 0 => if 16 ≤ n then some (n - 16) else none
  | 1 => if n < 240 then some (n + 16) else none
  | 2 => if n % 16 ≠ 0 then some (n - 1) else none
  | _ => if n % 16 ≠ 15 then some (n + 1) else none

/-- The side by which a neighbour in direction `d` is entered. -/
def opposite : Nat → Nat
  | 0 => 1 | 1 => 0 | 2 => 3 | _ => 2

/-- The sheave at an edge port's position (R114). -/
def edgeSheave (side pos : Nat) : Nat :=
  match side with
  | 0 => pos | 1 => 240 + pos | 2 => 16 * pos | _ => 16 * pos + 15

/-- The sink port off the grid at a sheave, side, network and lane. -/
def State.sinkAt (s : State) (m n side net lane : Nat) : Option Nat :=
  (List.range 64).find? (fun p => s.edge m p FAB_EDGE.VALID == 1 && decide (4 ≤ s.edge m p FAB_EDGE.KIND) &&
    s.edge m p FAB_EDGE.SIDE == side && edgeSheave side (s.edge m p FAB_EDGE.POS) == n &&
    s.edge m p FAB_EDGE.NET == net && s.edge m p FAB_EDGE.LANE == lane)

/-- The lane buffer a flit in direction `d` enters. -/
def State.linkTo (s : State) (m n d net lane : Nat) : Option LaneKey :=
  match neighbour n d with
  | some k => some { node := k, net := net, side := opposite d, lane := lane }
  | none => (s.sinkAt m n d net lane).map (fun p => { node := 256 + p, net := net, side := 0, lane := lane })

/-- Flits of a lane buffer. -/
def State.laneBuf (s : State) (m : Nat) (k : LaneKey) : List FabEntry := Tbl.get [] (s.fabric m).lanes k
/-- Store a lane buffer. -/
def State.setLane (s : State) (m : Nat) (k : LaneKey) (l : List FabEntry) : State :=
  s.setFabric m { s.fabric m with lanes := Tbl.set (s.fabric m).lanes k l }

/-- Where a flit stands: a lane buffer, or an output queue of a sheave. -/
inductive FlitAt where
  | lane (k : LaneKey)
  | out (n q lane : Nat)
  deriving DecidableEq, Repr

/-- The slot that binds an output queue: the lane of its channel (R109). A record that is not valid binds nothing. -/
def State.outSlot (s : State) (m n q : Nat) : Option Nat :=
  (List.range 8).find? (fun k => s.hdr m n k SLOT.VALID == 1 && (s.outBound m n k).contains q)

/-- A flit that could move: where it stands, its router, network, lane, target directions and target pool queues. -/
structure Flit where
  at_ : FlitAt
  node : Nat
  net : Nat
  lane : Nat
  dirs : List Nat
  queues : List Nat
  e : FabEntry
  deriving DecidableEq, Repr

/-- The targets of a group: directions and pool queues. -/
def targetsOf (net bits : Nat) : List Nat × List Nat :=
  let base := if net = 0 then 0 else if net = 1 then 6 else 10
  ((List.range 4).filter (bitN bits), ((List.range 6).filter (fun i => bitN bits (4 + i))).map (base + ·))

/-- The flits at the head of every lane buffer of a router and of every output queue. -/
def State.flits (s : State) (m : Nat) : List Flit :=
  let x := s.fabric m
  let fromLane := x.lanes.filterMap (fun y => match y.2 with
    | [] => none
    | e :: _ =>
      if 256 ≤ y.1.node then none
      else
        let t := targetsOf y.1.net (s.route m y.1.node y.1.lane y.1.net y.1.side)
        some { at_ := .lane y.1, node := y.1.node, net := y.1.net, lane := y.1.lane, dirs := t.1, queues := t.2, e := e })
  let fromOut := x.sheaves.flatMap (fun y => y.2.oq.filterMap (fun z => match z.2, s.outSlot m y.1 z.1 with
    | e :: _, some k =>
      let net := oqNet z.1
      let g := if net = 2 then 4 else 4 + z.1 % 2
      let t := targetsOf net (s.route m y.1 k net g)
      some { at_ := .out y.1 z.1 k, node := y.1, net := net, lane := k, dirs := t.1, queues := t.2, e := e }
    | _, _ => none))
  fromLane ++ fromOut

/-- The spill coil of a queue (R132). -/
def State.spillOf (s : State) (m n q : Nat) : Option Nat :=
  ((List.range 64).find? (fun e => s.bit (.fabSpill m e) FAB_SPILL.VALID && s.f (.fabSpill m e) FAB_SPILL.SHEAVE == n &&
    s.f (.fabSpill m e) FAB_SPILL.QUEUE == q)).map (fun e => s.f (.fabSpill m e) FAB_SPILL.COIL)

end Sys2Proof.Machine
end

