-- ==== Sys2Proof/Machine/Coils.lean ====
section
/-! DEFINITION. The coil units: records and their pointers, the requests that wait at a coil, and their service
(06_onchip_memory.md R183 to R187). -/

namespace Sys2Proof.Machine

/-! ### Registers and pointers -/

/-- A field of coil `k` of mast `m`. -/
def State.co (s : State) (m k : Nat) (F : Field) : Nat := s.f (.coil m k F.w) F
/-- Store a field of a coil. -/
def State.setCo (s : State) (m k : Nat) (F : Field) (v : Nat) : State := s.setF (.coil m k F.w) F v

/-- The records in flight of a coil. -/
def State.coilSt (s : State) (m k : Nat) : CoilSt := Tbl.get {} s.chip.coils (m, k)
/-- Store the records in flight of a coil. -/
def State.setCoilSt (s : State) (m k : Nat) (x : CoilSt) : State :=
  { s with chip := { s.chip with coils := Tbl.set s.chip.coils (m, k) x } }

/-- a − b of record numbers (R183). -/
def recDiff (a b : Nat) : Nat := (a + 2 ^ 32 - b % 2 ^ 32) % 2 ^ 32

/-- Bytes of a record. -/
def State.recSize (s : State) (m k : Nat) : Nat := 8 * 2 ^ s.co m k COIL.RECSZ

/-- The address of record `n` (R183). -/
def State.recAddr (s : State) (m k n : Nat) : Nat :=
  (if s.co m k COIL.MEM = 1 then psumBase (16 * m + s.co m k COIL.SAIL) else actBase m) + s.co m k COIL.BASE +
  n % max 1 (s.co m k COIL.CAP) * s.recSize m k

/-- Record `n` of a coil lies in tile slots of a sail that executes a macro-instruction (R186). -/
def State.coilBusy (s : State) (m k n : Nat) : Bool :=
  s.co m k COIL.MEM == 1 && s.slotHeld (16 * m + s.co m k COIL.SAIL) (s.recAddr m k n)

/-- The record a reader claims next is out of reach (R186). -/
def State.claimBusy (s : State) (m k : Nat) : Bool := s.coilBusy m k (s.co m k COIL.CLAIM)
/-- The record a writer reserves next is out of reach (R186). -/
def State.resvBusy (s : State) (m k : Nat) : Bool := s.coilBusy m k (s.co m k COIL.RESV)

/-- The coil is full (R183). -/
def State.coilFull (s : State) (m k : Nat) : Bool :=
  recDiff (s.co m k COIL.RESV) (s.co m k COIL.HEAD) == s.co m k COIL.CAP

/-- The coil is empty to readers. -/
def State.coilEmpty (s : State) (m k : Nat) : Bool := s.co m k COIL.CLAIM == s.co m k COIL.TAIL

/-- Reserve the next record (R184): its number, unless the coil is full. -/
def State.coilReserve (s : State) (m k : Nat) : Option (Nat × State) :=
  if s.coilFull m k then none
  else let n := s.co m k COIL.RESV; some (n, s.setCo m k COIL.RESV (wrapAdd 32 n 1))

/-- Claim the next committed record (R184). -/
def State.coilClaim (s : State) (m k : Nat) : Option (Nat × State) :=
  if s.coilEmpty m k then none
  else let n := s.co m k COIL.CLAIM; some (n, s.setCo m k COIL.CLAIM (wrapAdd 32 n 1))

/-- TAIL advances over the records marked written, signalling the coil's cleat (R184). -/
def State.coilTail (s : State) (m k : Nat) : Nat → State
  | 0 => s
  | j + 1 =>
    let x := s.coilSt m k
    let t := s.co m k COIL.TAIL
    if x.written.contains t then
      let t' := wrapAdd 32 t 1
      let s := (s.setCoilSt m k { x with written := setDel x.written t }).setCo m k COIL.TAIL t'
      let c := s.co m k COIL.CLEAT
      let e := s.co m k COIL.EVERY
      let s := if c ≠ 0xFFFF ∧ 0 < e ∧ t' % e = 0 then s.signal (uCoil m) c .done else s
      State.coilTail s m k j
    else s

/-- HEAD advances over the records marked read. -/
def State.coilHead (s : State) (m k : Nat) : Nat → State
  | 0 => s
  | j + 1 =>
    let x := s.coilSt m k
    let h := s.co m k COIL.HEAD
    if x.read.contains h then
      State.coilHead ((s.setCoilSt m k { x with read := setDel x.read h }).setCo m k COIL.HEAD (wrapAdd 32 h 1)) m k j
    else s

/-- Return a record's address to a requester of the coil unit. -/
def State.coilGive (s : State) (unit a : Nat) : State :=
  { s with chip := { s.chip with coilAddr := Tbl.set s.chip.coilAddr unit a } }

/-- Requests that wait at a coil contend in the cycle in which it can serve them, in requester order (R177, R185). -/
def byRequester : List Nat → Nat → List Nat
  | [], u => [u]
  | x :: l, u => if u < x then u :: x :: l else x :: byRequester l u

/-! ### Requests that wait (R185, R199) -/

/-- Fairlead `f`. -/
def State.fl (s : State) (f : Nat) : Fairlead := Tbl.get {} s.fair.fls f
/-- The mast whose section the fairlead works for (R205). -/
def State.flMast (s : State) (f : Nat) : Nat := s.f (.flStep f) FL_STEP.MAST
/-- The fairlead works: the section of its mast runs (R224). -/
def State.flRuns (s : State) (f : Nat) : Bool := s.mastRuns (s.flMast f)

/-- Bits `hi` to `lo` of word `i`. -/
def FlDesc.g (d : FlDesc) (i hi lo : Nat) : Nat := fld (d.w.getD i 0) hi lo
def FlDesc.srcKind (d : FlDesc) : Nat := d.g 0 1 0
def FlDesc.dstKind (d : FlDesc) : Nat := d.g 0 3 2
/-- The coil of the source or the destination: mast and number. -/
def FlDesc.coil (d : FlDesc) (dst : Bool) : Nat × Nat :=
  let w := if dst then 3 else 2
  (d.g w 2 0, d.g w 10 3)

/-- An edge port is configured as kind `k` and its mast is clocked. -/
def State.edgeIs (s : State) (m p k : Nat) : Bool :=
  s.fabClocked m && s.edge m p FAB_EDGE.VALID == 1 && s.edge m p FAB_EDGE.KIND == k

/-- The lane buffer a source port injects into. -/
def State.injectKey (s : State) (m p : Nat) : LaneKey where
  node := edgeSheave (s.edge m p FAB_EDGE.SIDE) (s.edge m p FAB_EDGE.POS)
  net := s.edge m p FAB_EDGE.NET
  side := s.edge m p FAB_EDGE.SIDE
  lane := s.edge m p FAB_EDGE.LANE

/-- The first lane buffer of a source port has room. -/
def State.injectRoom (s : State) (m p : Nat) : Bool := decide ((s.laneBuf m (s.injectKey m p)).length < 2)

/-- Source ports run: they are not stopped and their section runs (R138). -/
def State.srcRuns (s : State) (m : Nat) : Bool := s.mastRuns m && !s.bit (.fabCtrl m) FAB_CTRL.STOP_SRC

/-- A spill coil holds no record. -/
def State.coilIdle (s : State) (m k : Nat) : Bool := s.co m k COIL.RESV == s.co m k COIL.HEAD

/-- The claims, or the reservations, of the fairleads that stand at coil `k` of mast `m` (R219): a descriptor that delivers and is
at the start of a record; one that waits for both claims first. -/
def State.flWants (s : State) (m k : Nat) (rd : Bool) : List Nat :=
  s.fair.fls.flatMap (fun (e : Nat × Fairlead) => (e.2.slots.filter (fun (y : Nat × FlDesc) =>
    let d := y.2
    let a := d.coil false
    let b := d.coil true
    let new (c : Nat × Nat) : Bool := d.pos % s.recSize c.1 c.2 == 0
    let src := d.srcKind == 1 && new a
    let dst := d.dstKind == 1 && new b
    d.deliver && d.fail.isNone && decide (d.pos < d.total) && s.flRuns e.1 &&
    (if rd then src && a == (m, k) && (s.coilEmpty m k || !(dst && s.coilFull b.1 b.2))
     else dst && b == (m, k) && !(src && s.coilEmpty a.1 a.2)))).map (fun _ => uFairlead e.1))

/-- The edge ports of a mast that a register names. -/
def State.portsOf (s : State) (m : Nat) : List Nat :=
  s.regs.filterMap (fun e => match e.1 with | .fabEdge i p 0 => if i = m then some p else none | _ => none)

/-- The claims, or the reservations, of the edge and spill ports that stand at coil `k` of mast `m` (R114, R116, R132). -/
def State.portWants (s : State) (m k : Nat) (rd : Bool) : List Nat :=
  ((s.portsOf m).filter (fun p =>
    let n := s.edge m p FAB_EDGE.STEP_COUNT
    s.edge m p FAB_EDGE.COIL == k &&
    (if rd then s.edgeIs m p 0 && s.srcRuns m && s.injectRoom m p && (n == 0 || decide ((s.eport m p).inj < n))
     else s.edgeIs m p 4 && s.laneBuf m { node := 256 + p, net := s.edge m p FAB_EDGE.NET, side := 0,
                                          lane := s.edge m p FAB_EDGE.LANE } != []))).map (uEdge m) ++
  (if !s.fabClocked m then [] else s.regs.filterMap (fun e => match e.1 with
    | .fabSpill i x =>
      let n := s.f (.fabSpill m x) FAB_SPILL.SHEAVE
      let q := s.f (.fabSpill m x) FAB_SPILL.QUEUE
      let free := (s.sheave m n).inFree q
      if i = m ∧ s.bit (.fabSpill m x) FAB_SPILL.VALID ∧ s.f (.fabSpill m x) FAB_SPILL.COIL = k ∧
         (if rd then free && !s.coilIdle m k
          else !(free && s.coilIdle m k) && (s.flits m).any (fun y => y.node == n && y.queues.contains q))
      then some (uSheave (256 * m + n)) else none
    | _ => none))

/-- The units of the device that stand at a coil with a claim, or a reservation, of their own. -/
def State.coilWants (s : State) (m k : Nat) (rd : Bool) : List Nat := s.flWants m k rd ++ s.portWants m k rd

/-- The records a coil can give now: to readers, or to writers (R183). -/
def State.coilLeft (s : State) (m k : Nat) (rd : Bool) : Nat :=
  if rd then recDiff (s.co m k COIL.TAIL) (s.co m k COIL.CLAIM)
  else s.co m k COIL.CAP - recDiff (s.co m k COIL.RESV) (s.co m k COIL.HEAD)

/-- A unit's request is served now: in requester order the requests that stand at the coil before it leave a record for it
(R177, R185). -/
def State.coilTurn (s : State) (m k unit : Nat) (rd : Bool) : Bool :=
  decide (((s.coilWants m k rd).filter (fun u => decide (u < unit))).length < s.coilLeft m k rd)

/-- The claims and reservations that wait at the coils of a mast (R199). -/
def State.coilWaits (s : State) (m : Nat) : Nat :=
  let ks := (s.regs.filterMap (fun e => match e.1 with | .coil i k 0 => if i = m then some k else none | _ => none)).filter
    (fun k => s.co m k COIL.VALID == 1)
  ks.foldl (fun n k =>
    let x := s.coilSt m k
    n + (if s.coilEmpty m k then (s.coilWants m k true).length else 0) + (if s.coilFull m k then (s.coilWants m k false).length else 0) +
      x.resWait.length + x.clmWait.length) 0

/-! ### Service -/

/-- A unit obtains record `n` for writing, or for reading where `rd`: the coil unit returns its address (R184). -/
def State.coilGrant (s : State) (m k unit n : Nat) (rd : Bool) : State :=
  let x := s.coilSt m k
  let x := if rd then { x with clmBy := x.clmBy ++ [(n, unit)] } else { x with resBy := x.resBy ++ [(n, unit)] }
  (s.setCoilSt m k x).coilGive unit (s.recAddr m k n)

/-- Reservations that wait are served while the coil has room, in requester order (R184, R185). -/
def State.serveRes (s : State) (m k : Nat) : List Nat → State
  | [] => s
  | u :: l => match (if s.coilTurn m k u false then s.coilReserve m k else none) with
    | none => s
    | some (n, s) =>
      State.serveRes ((s.setCoilSt m k { s.coilSt m k with resWait := l }).coilGrant m k u n false) m k l

/-- Claims that wait are served while the coil has records, in requester order. -/
def State.serveClm (s : State) (m k : Nat) : List Nat → State
  | [] => s
  | u :: l => match (if s.coilTurn m k u true then s.coilClaim m k else none) with
    | none => s
    | some (n, s) =>
      State.serveClm ((s.setCoilSt m k { s.coilSt m k with clmWait := l }).coilGrant m k u n true) m k l

/-- The write of record `n` is accepted (R184). -/
def State.coilCommit (s : State) (m k n : Nat) : State :=
  let x := s.coilSt m k
  let s := s.setCoilSt m k { x with written := setIns x.written n, resBy := x.resBy.filter (fun e => e.1 != n) }
  let s := s.coilTail m k (x.written.length + 1)
  s.serveClm m k (s.coilSt m k).clmWait

/-- The read of record `n` has returned (R184). -/
def State.coilRelease (s : State) (m k n : Nat) : State :=
  let x := s.coilSt m k
  let s := s.setCoilSt m k { x with read := setIns x.read n, clmBy := x.clmBy.filter (fun e => e.1 != n) }
  let s := s.coilHead m k (x.read.length + 1)
  s.serveRes m k (s.coilSt m k).resWait

/-- An access to record `n` ends with BUSY: no pointer moves, and the unit that holds the record is told (R186). -/
def State.coilDenied (s : State) (m k n : Nat) (rd : Bool) : State :=
  let x := s.coilSt m k
  match (if rd then x.clmBy else x.resBy).find? (fun e => e.1 == n) with
  | some e => s.readFail e.2 .busy
  | none => s

/-- A record that the coil unit has given a unit for writing and that is not written (R184). -/
def State.coilMine (s : State) (m k unit : Nat) : Option Nat :=
  ((s.coilSt m k).resBy.find? (fun e => e.2 == unit)).map (·.1)

/-- A unit reserves the next record, or joins the requests that wait at the coil (R184, R185). -/
def State.coilReserveBy (s : State) (m k unit : Nat) : State :=
  let x := s.coilSt m k
  match (if x.resWait = [] ∧ s.coilTurn m k unit false then s.coilReserve m k else none) with
  | some (n, s) => s.coilGrant m k unit n false
  | none =>
    let l := byRequester x.resWait unit
    (s.setCoilSt m k { x with resWait := l }).serveRes m k l

/-- A unit claims the next record, or joins the requests that wait at the coil. -/
def State.coilClaimBy (s : State) (m k unit : Nat) : State :=
  let x := s.coilSt m k
  match (if x.clmWait = [] ∧ s.coilTurn m k unit true then s.coilClaim m k else none) with
  | some (n, s) => s.coilGrant m k unit n true
  | none =>
    let l := byRequester x.clmWait unit
    (s.setCoilSt m k { x with clmWait := l }).serveClm m k l

/-- The requests that wait at the coils are served in every cycle (R185): those that an earlier one, since withdrawn, had held
back. -/
def State.coilClock (s : State) : State :=
  s.chip.coils.foldl (fun (s : State) (e : (Nat × Nat) × CoilSt) =>
    let s := if e.2.resWait = [] then s else s.serveRes e.1.1 e.1.2 (s.coilSt e.1.1 e.1.2).resWait
    if e.2.clmWait = [] then s else s.serveClm e.1.1 e.1.2 (s.coilSt e.1.1 e.1.2).clmWait) s

/-- Records a reader has not claimed (R183). -/
def State.coilCount (s : State) (m k : Nat) : Nat := recDiff (s.co m k COIL.TAIL) (s.co m k COIL.HEAD)

end Sys2Proof.Machine
end

