-- ==== Sys2Proof/Machine/HbmOps.lean ====
section
/-! DEFINITION. The shared operations of the HBM controllers and of slice maintenance: CLEAN, errors, changes of mapping and
keys (07_fairleads.md R215, 14_hbm.md). -/

namespace Sys2Proof.Machine

/-! ### Maintenance (R215) -/

/-- Write back every dirty line of a slice whose device-local address satisfies `p`, and with `inv` invalidate those lines. -/
def State.scClean (s : State) (h tag : Nat) (inv : Bool) (p : Nat → Bool) : State :=
  let x := s.slice h
  let hit (w : ScLine) : Bool := p (s.lineAddr h w.line)
  let dirty := x.sets.flatMap (fun (e : Nat × ScSet) => e.2.ways.filter (fun w => w.dirty && hit w))
  let clean (w : ScLine) : ScLine := if hit w then { w with dirty := false } else w
  let sets := x.sets.map (fun (e : Nat × ScSet) =>
    (e.1, { e.2 with ways := if inv then e.2.ways.filter (fun w => !hit w) else e.2.ways.map clean }))
  let reqs : List MissReq := dirty.map (fun w => { kind := .writeBack, line := w.line, tag := tag, slot := w.slot })
  s.setSlice h { x with sets := sets, miss := x.miss ++ reqs }

/-- Some slice still owes a write-back of a maintenance operation. -/
def State.scOwes (s : State) (tag : Nat) : Bool := s.hbm.slices.any (fun (e : Nat × Slice) => e.2.miss.any (fun r => r.tag == tag))

/-- CLEAN_INV of every slice (R380, R389, R473). -/
def State.scCleanAll (s : State) (tag : Nat) (p : Nat → Bool) : State :=
  s.fuses.stacks.foldl (fun s h => s.scClean h tag true p) s

/-- SC_OP: `op` 1 CLEAN, 2 CLEAN_INV, on the whole slice or the range of SC_RANGE and SC_LEN (R215, R225). -/
def State.scOp (s : State) (h op : Nat) (all : Bool) : State :=
  let lo := s.f (.scRange h) SC_RANGE.BASE
  let n := s.f (.scLen h) SC_LEN.LEN
  if (op ≠ 1 ∧ op ≠ 2) ∨ s.bit (.scOp h) SC_OP.BUSY then s
  else
    let s := s.scClean h 1 (op == 2) (fun a => all || (decide (lo ≤ a) && decide (a < lo + n)))
    s.setF (.scOp h) SC_OP.BUSY (if (s.slice h).miss.any (fun r => r.tag == 1) then 1 else 0)

/-! ### Errors (R215, R386) -/

/-- An error of a slice line: 1 correctable, 2 uncorrectable (R197, R215). `k` is the 64 B unit of the line. -/
def State.scError (s : State) (h line k ecc : Nat) : State :=
  if ecc = 1 then (s.incSat (.scErr h) SC_ERR.CE).ceAdd 1
  else if ecc = 2 then
    let a := s.lineAddr h line + 64 * k
    let s := s.incSat (.scErr h) SC_ERR.UE
    { s with poison := setIns s.poison a }.logEvent 0x0003 .uncorrectable (uFairlead h) 0xFF a
  else s

/-- Record a bit of HBM_ERR with its HBM_EVENT record (R490, R491). -/
def State.hbmErr (s : State) (h : Nat) (F : Field) : State :=
  if s.bit (.hbmErr h) F then s
  else
    let s := s.setF (.hbmErr h) F 1
    s.logEvent 0x0053 .done (uHbmAcc h) 0xFF ((s.rd (.hbmErr h)).toNat % 32 + s.f (.hbmTemp h) HBM_TEMP.TEMP * 256)

/-- An error met when sector `x` of stack `h` is read: 1 corrected by the controller, 2 uncorrectable: the poison bit of that
sector is set in the stack (R386). -/
def State.hbmEcc (s : State) (h x ecc : Nat) : State :=
  if ecc = 1 then
    let s := (s.incSat (.hbmCe h) HBM_CE.CTRL).ceAdd 1
    { s with hbm := { s.hbm with rewrite := s.hbm.rewrite ++ [(h, x)] } }
  else if ecc = 2 then
    let s := s.incSat (.hbmUe h) HBM_UE.CNT
    let s := s.wr (.hbmUeAddr h) (BitVec.ofNat 64 (x * 32 + 2 ^ 63))
    let sick := s.hbm.sick.filter (· != (h, x)) ++ [(h, x)]
    let s := { s with hbm := { s.hbm with sick := sick } }.logEvent 0x0002 .uncorrectable (uHbmAcc h) 0xFF (x * 32)
    s.hbmErr h HBM_ERR.UE
  else s

/-! ### Key and mapping changes (R380, R389) -/

/-- The contents of a range become undefined: every byte is a free value (R342). -/
def State.undefine (s : State) (a n : Nat) : State :=
  let go (s : State) (i : Nat) : State :=
    let s := s.openSectors (a + i) 1
    { s with mem := memPut s.mem (a + i) (Config.freeByte s.free), free := s.free + 1 }
  (List.range n).foldl go s

/-- Put a new mapping in force: stored bytes, their keys and the poison of slices appear at their new addresses (R380). -/
def State.remap (s : State) (map : Nat × Nat) : State :=
  let s := s.sealBase
  let move (a : Nat) : Nat :=
    let p := s.fuses.hbmPlace s.hbm.map a
    s.fuses.hbmAddr map p.1 p.2
  let hbm (a : Nat) : Bool := decide (a < s.fuses.hbmSize)
  let mem := s.mem.foldl (fun (m : List Host.Cell) (c : Host.Cell) => if hbm c.1 then memPut m (move c.1) c.2 else m)
    (memClear s.mem hbm)
  let pois := s.poison.foldl (fun (l : List Nat) a => setIns l (if hbm a then move a else a)) []
  let seals := s.hbm.seals.map (fun (e : Nat × List Byte) => (move (32 * e.1) / 32, e.2))
  { s with mem := mem, poison := pois, hbm := { s.hbm with map := map, seals := seals } }

/-- Put key regions in force (R389). -/
def State.rekey (s : State) (kr : List (Nat × Nat × Nat)) : State :=
  let s := s.sealBase
  { s with hbm := { s.hbm with kr := kr } }

/-- The addresses whose lines a change of region `k` writes back: its old range, and its new one where it is valid (R389). -/
def State.krRange (s : State) (k a : Nat) : Bool :=
  (s.bit (.hbmKr k 0) HBM_KR.VALID && decide (s.f (.hbmKr k 0) HBM_KR.BASE ≤ a) &&
    decide (a < s.f (.hbmKr k 0) HBM_KR.BASE + s.f (.hbmKr k 1) HBM_KR.LENGTH)) ||
  s.hbm.kr.any (fun (r : Nat × Nat × Nat) => r.1 == k && decide (r.2.1 ≤ a) && decide (a < r.2.1 + r.2.2))

/-- An HBM key enters its slot: the slices write back and invalidate the lines of the slot, which were stored under its former key
(R388, R455; log entry 25). -/
def State.putKey (s : State) (k : Nat) (keys : List (Nat × List Byte)) : State :=
  let kr := s.hbm.kr
  let s := s.sealBase.scCleanAll 0 (fun a => slotOf kr a == k)
  { s with sec := { s.sec with hbm := keys } }

/-! ### Rows and activations (R381, R384) -/

/-- A bank opens the row of a line, where another is open: an activation. One that reaches the threshold the stack reports has
RFM issued, which blocks the bank for at most 160 ns and closes its row (R384). -/
def State.activate (s : State) (h line : Nat) : State :=
  let b := (h, bankOfLine line)
  let row := (placeOfLine line).row
  if s.hbm.rows.contains (b, row) then s
  else
    let n := Tbl.get 0 s.hbm.acts b + 1
    if Config.rfmThreshold h ≤ n then
      { s with free := s.free + 1
               hbm := { s.hbm with
                 rows := s.hbm.rows.filter (fun e => e.1 != b), acts := s.hbm.acts.filter (fun e => e.1 != b)
                 blocked := s.hbm.blocked.filter (fun e => e.1 != b) ++ [(b, s.now + Config.freeNat s.free % 161)] } }
    else { s with hbm := { s.hbm with rows := Tbl.set s.hbm.rows b row, acts := Tbl.set s.hbm.acts b n } }

end Sys2Proof.Machine
end

