-- ==== Sys2Proof/Machine/Completion.lean ====
section
/-! DEFINITION. The completion of a macro-instruction, and of an operation whose parts on other devices and whose contributions
end one by one (03_sails.md R85, R96 to R98, R102; 12_reductions.md R332). -/

namespace Sys2Proof.Machine

/-- Precedence of a macro-instruction's status (R96; a transport status ranks after POISONED, log entry 13). -/
def mmaRank : Status → Nat
  | .badDescriptor => 0 | .outOfBounds => 1 | .shapeOverflow => 2 | .poisoned => 3 | .scaleRange => 20 | .done => 30
  | _ => 10

/-- The status of higher precedence. -/
def mmaWorse (a b : Status) : Status := if mmaRank b < mmaRank a then b else a

/-- The SEQ_ERR bit of a status (R102). -/
def seqErrField : Status → Option Field
  | .badDescriptor => some SEQ_ERR.BAD_DESC
  | .outOfBounds => some SEQ_ERR.OOB
  | .shapeOverflow => some SEQ_ERR.SHAPE_OVF
  | .poisoned => some SEQ_ERR.POISON
  | .scaleRange => some SEQ_ERR.SCALE_RANGE
  | .unsupported => some SEQ_ERR.UNSUPPORTED
  | _ => none

/-- No sail, slot or buffer of a mast holds a macro-instruction (R85, R87, R102). RESIDENT and the slots keep what the last
pass left. -/
def State.sailsFree (s : State) (m : Nat) : State :=
  let s := (List.range 16).foldl (fun (s : State) (i : Nat) => s.setF (.sailStat m i) SAIL_STAT.BUSY 0) s
  { s with sail := { s.sail with tap := s.sail.tap.filter (fun t => t.mast != m)
                                 runs := s.sail.runs.filter (fun r => r.mast != m)
                                 bufs := s.sail.bufs.filter (fun b => b.1 / 16 != m) } }

/-- A macro-instruction completes on its mast: record, DoneCleat, registers, EndStep (R85, R97, R98). -/
def State.seqDone (s : State) (f : Finish) (st : Status) : State :=
  let m := f.mast
  let rst := s.recStatus f.unit st
  let s := (s.sailsFree m).finishOp f st
  let s := s.wr (.seqLast m) (BitVec.ofNat 64 (leAt (putAt f.recBytes 0 [BitVec.ofNat 8 rst.code]) 0 8))
  let s := s.setF (.seqStat m) SEQ_STAT.LAST_STATUS rst.code
  let s := s.setF (.seqStat m) SEQ_STAT.BUSY 0
  let s := match seqErrField st with
    | some F => s.engineErr (.seqErr m) F st f.unit f.descIdx
    | none => s
  let s := s.setF (.seqStat m) SEQ_STAT.PC (f.descIdx + 1)
  if f.endStep then (s.setF (.seqStat m) SEQ_STAT.STEP_DONE 1).report f.unit else s

/-- Complete a macro-instruction. Where its record does not lie in memory that the mast may write, no record is written (R93
gives such a RecOff no status: DESIGN CHOICE, log entry 73). -/
def State.seqComplete (s : State) (f : Finish) (st : Status) : State :=
  let f := match f.recAt with
    | some a => if s.access (.unit f.unit) true a 16 = .done then f else { f with recAt := none }
    | none => f
  (s.seqDone f st).tickFree

/-- One part of a pending engine operation has ended with a status; the last one completes it (R97). -/
def State.pendStep (s : State) (id : Nat) (st : Status) : State :=
  match s.net.pends.find? (fun p => p.id == id) with
  | none => s
  | some p =>
    let p' := { p with left := p.left - 1, st := mmaWorse p.st st }
    if p'.left = 0 then
      State.seqComplete { s with net := { s.net with pends := s.net.pends.filter (fun q => q.id != id) } } p.fin p'.st
    else { s with net := { s.net with pends := updFirst (fun q => q.id == id) (fun _ => p') s.net.pends } }

/-- A part of a pending operation begins. -/
def State.pendMore (s : State) (id : Nat) : State :=
  let up (p : PendOp) : PendOp := { p with left := p.left + 1 }
  { s with net := { s.net with pends := updFirst (fun q => q.id == id) up s.net.pends } }

/-- A part of a pending operation ends with a status before anything of it is on its way. -/
def State.pendWorse (s : State) (id : Nat) (st : Status) : State :=
  let up (p : PendOp) : PendOp := { p with st := mmaWorse p.st st }
  { s with net := { s.net with pends := updFirst (fun q => q.id == id) up s.net.pends } }

end Sys2Proof.Machine
end

