-- ==== Sys2Proof/Machine/RxOps.lean ====
section
/-! DEFINITION. The receiving side of a connection: sequence numbers, completion of frames, ACK and NAK
(13_ghenko_ethernet.md R360 to R363). -/

namespace Sys2Proof.Machine

/-- RCVNXT of connection `c`: the lowest number not received. -/
def State.rcvNxt (s : State) (c : Nat) : Nat := s.cn c CN.RCVNXT

/-- Distance from `b` up to `a` in serial order. -/
def serDist (a b : Nat) : Nat := (a + 2 ^ 32 - b % 2 ^ 32) % 2 ^ 32

/-- How far the oldest frame that is not complete lies below RCVNXT. -/
def State.heldBack (s : State) (c : Nat) : Nat :=
  (s.conn c).held.foldl (fun (m : Nat) (h : Nat × Bool) =>
    let d := serDist (s.rcvNxt c) h.1
    if d < 2 ^ 31 then max m d else m) 0

/-- Cum: every sequence number below it is complete (R353). -/
def State.cumOf (s : State) (c : Nat) : Nat := (s.rcvNxt c + 2 ^ 32 - s.heldBack c) % 2 ^ 32

/-- Number `q` has been received and is complete. -/
def State.frameDone (s : State) (c q : Nat) : Bool :=
  let x := s.conn c
  (decide (2 ^ 31 ≤ serDist q (s.rcvNxt c)) || x.marked.contains q) && !(x.held.any (fun h => h.1 == q))

/-- Join ascending numbers into ranges with exclusive ends. -/
def joinRanges : List Nat → List (Nat × Nat)
  | [] => []
  | a :: l => match joinRanges l with
    | (b, e) :: r => if b = (a + 1) % 2 ^ 32 then (a, e) :: r else (a, (a + 1) % 2 ^ 32) :: (b, e) :: r
    | [] => [(a, (a + 1) % 2 ^ 32)]

/-- The SACK blocks of an ACK: the lowest complete ranges above Cum, at most four (R353). -/
def State.sackBlocks (s : State) (c : Nat) : List (Nat × Nat) :=
  if (s.conn c).marked = [] ∧ (s.conn c).held = [] then []
  else
    let cum := s.cumOf c
    let l := ((List.range (s.heldBack c + 4096)).map (fun i => (cum + i) % 2 ^ 32)).filter (s.frameDone c)
    (joinRanges l).take 4

/-- Send an ACK (R353, R363); a CE mark received since the last ACK sets ECE (R369). -/
def State.sendAck (s : State) (c : Nat) : State :=
  let x := s.conn c
  let b := s.sackBlocks c
  let sub := leBytes 4 (s.cumOf c) ++ leBytes 1 b.length ++ zeros 3 ++
    b.flatMap (fun (r : Nat × Nat) => leBytes 4 r.1 ++ leBytes 4 r.2)
  let s := s.setConn c { x with ackPend := 0, ackSince := none, ece := false }
  s.sendUnseq c tAck (if x.ece then 16 else 0) sub

/-- Send a NAK for one frame (R353). -/
def State.sendNak (s : State) (c q : Nat) (st : Status) : State :=
  s.sendUnseq c tNak 0 (leBytes 1 1 ++ zeros 7 ++ leBytes 4 q ++ leBytes 1 st.code ++ zeros 3)

/-- RCVNXT passes over received numbers. -/
def rcvAdvance : Nat → Nat → List Nat → Nat × List Nat
  | 0, n, l => (n, l)
  | k + 1, n, l => if l.contains n then rcvAdvance k ((n + 1) % 2 ^ 32) (l.filter (· != n)) else (n, l)

/-- A frame is marked as received; it is not complete yet (R361). -/
def State.markFrame (s : State) (c q : Nat) (ackReq : Bool) : State :=
  let x := s.conn c
  let l := x.marked ++ [q]
  let (n, l) := rcvAdvance (l.length + 1) (s.rcvNxt c) l
  (s.setConn c { x with marked := l, held := x.held ++ [(q, ackReq)] }).setCn c CN.RCVNXT n

/-- A frame is complete with a status (R362, R363): one refused is answered with a NAK first. -/
def State.completeFrame (s : State) (c q : Nat) (st : Status) : State :=
  let x := s.conn c
  match x.held.find? (fun h => h.1 == q) with
  | none => s
  | some h =>
    let n := x.ackPend + 1
    let since := match x.ackSince with
      | some t => some t
      | none => some s.now
    let s := s.setConn c { x with held := x.held.filter (fun h => h.1 != q), ackPend := n, ackSince := since }
    let s := if st = .done then s else s.sendNak c q st
    if h.2 || decide (s.f .tpTimer TP_TIMER.ACKN ≤ n) then s.sendAck c else s

end Sys2Proof.Machine
end

