-- ==== Sys2Proof/Machine/RedOps.lean ====
section
/-! DEFINITION. The shared operations of near-memory reduction: entries, messages, rounds, contributions
(12_reductions.md). An entry is a bucket tag, or 4,096 + o for ordered channel o. -/

namespace Sys2Proof.Machine

/-- The entry is an ordered channel. -/
def isOrd (e : Nat) : Bool := decide (4096 ≤ e)

/-- A field of entry `e`: `B` for a bucket, `O` for an ordered channel. -/
def State.ent (s : State) (e : Nat) (B O : Field) : Nat :=
  if isOrd e then s.f (.ord (e - 4096) O.w) O else s.f (.bkt e B.w) B

/-- Store a field of entry `e`. -/
def State.setEnt (s : State) (e : Nat) (B O : Field) (v : Nat) : State :=
  if isOrd e then s.setF (.ord (e - 4096) O.w) O v else s.setF (.bkt e B.w) B v

/-- State of an entry: 0 INVALID, 1 CLOSED, 2 ARMING, 3 OPEN (R329). -/
def State.entState (s : State) (e : Nat) : Nat := s.ent e BKT.STATE ORD.STATE
/-- Base address of the range. -/
def State.entBase (s : State) (e : Nat) : Nat := s.ent e BKT.BASE ORD.BASE
/-- Bytes of the range. -/
def State.entLen (s : State) (e : Nat) : Nat := s.ent e BKT.LENGTH ORD.LENGTH
/-- The element type is K16. -/
def State.entK16 (s : State) (e : Nat) : Bool := s.ent e BKT.TYPE ORD.TYPE == 1
/-- Owner section ID. -/
def State.entSection (s : State) (e : Nat) : Nat := s.ent e BKT.SECTION ORD.SECTION
/-- Arm cleat. -/
def State.entArm (s : State) (e : Nat) : Nat := s.ent e BKT.ARMCLEAT ORD.ARMCLEAT

/-- The round of an entry. -/
def State.round (s : State) (e : Nat) : RoundSt := Tbl.get {} s.red.rounds e

/-- Store the round of an entry. -/
def State.setRound (s : State) (e : Nat) (x : RoundSt) : State :=
  { s with red := { s.red with rounds := Tbl.set s.red.rounds e x } }

/-- The entries that have been declared or written, ascending. -/
def State.entList (s : State) : List Nat :=
  s.regs.foldl (fun l e => match e.1 with
    | .bkt t 0 => setIns l t
    | .ord o 0 => setIns l (4096 + o)
    | _ => l) []

/-- The engine key of an entry's arm wait. -/
def entKey (e : Nat) : EngKey := if isOrd e then .ordered (e - 4096) else .bucket e

/-- The format of an entry's elements. -/
def State.entFmt (s : State) (e : Nat) : Fmt := if s.entK16 e then .k16 else .k32

/-- t1 is later than t2 in serial order (R331). -/
def laterTick (t1 t2 : Nat) : Bool :=
  let d := (t1 + 2 ^ 32 - t2 % 2 ^ 32) % 2 ^ 32
  decide (1 ≤ d) && decide (d < 2 ^ 31)

/-- The checksum function of an element code (R333). -/
def ckElem (f : Fmt) (scale c : Nat) : Nat :=
  match f.dec c with
  | none => 2 ^ 63
  | some x =>
    let (n, d) := ({ x with exp := x.exp + Int.ofNat scale } : Q).scaled 0
    let v : Int := Int.ofNat (roundInt 0 0 n d)
    wrapI 64 (if x.num < 0 then -v else v)

/-- The element codes of a payload. -/
def elemCodes (f : Fmt) (d : List Byte) : List Nat := (List.range (d.length / f.bytes)).map (fun i => leAt d (f.bytes * i) f.bytes)

/-- The checksum of a payload (R333). -/
def ckSum (f : Fmt) (scale : Nat) (d : List Byte) : Nat :=
  (elemCodes f d).foldl (fun a c => (a + ckElem f scale c) % 2 ^ 64) 0

/-- The accumulator that holds the first line of a range (R325, R490). -/
def State.accUnit (s : State) (e : Nat) : Nat :=
  let a := s.entBase e
  if 0x020100000000 ≤ a then uActAcc ((a - 0x020100000000) / 0x04000000) (a % 0x04000000 / 64 % 64 / 8)
  else uHbmAcc (s.hbmLine a).1

/-- The Detail of RED_ERROR and RED_EXTRA (R490). -/
def State.redDetail (s : State) (e : Nat) : Nat :=
  if isOrd e then (e - 4096) + 2 ^ 16 else e + s.f (.bkt e 0) BKT.EPOCH * 4096

/-- Apply one element: y = RN(y + x), flags, checksum of the change (R326, R337). Answers the new code and flags. -/
def applyElem (f : Fmt) (y x : Nat) : Nat × Nat :=
  let a := f.dec y
  let b := f.dec x
  encOp f 0 0 (a.isNone || b.isNone) (lift2 (fun p q => some (p.add q)) a b)

/-- Apply the elements of an accepted element message to a bucket's range, in order (R326, R333, R337). -/
def State.applyBkt (s : State) (e : Nat) (f : Fmt) (mask : Nat) : Nat → Nat → List Nat → State
  | _, _, [] => s
  | a, i, x :: l =>
    let y := s.num a f.bytes
    let (y', fl) := applyElem f y x
    let sc := s.f (.bkt e 0) BKT.F
    let p := bitN mask (i * f.bytes / 64)
    let s := s.store a (leBytes f.bytes y') (p || s.poisonedAt a f.bytes)
    let s := s.setEnt e BKT.FLAGS ORD.FLAGS (s.ent e BKT.FLAGS ORD.FLAGS ||| fl)
    let s := s.setF (.bkt e 4) BKT.SHADOW (wrapAdd 64 (s.f (.bkt e 4) BKT.SHADOW) (ckElem f sc x))
    let s := if s.f (.bkt e 0) BKT.CHK = 2 then
        s.setF (.bkt e 6) BKT.RESULT (wrapAdd 64 (s.f (.bkt e 6) BKT.RESULT) (ckElem f sc y' + 2 ^ 64 - ckElem f sc y))
      else s
    let s := s.setF (.bkt e 7) BKT.APPLIED (wrapAdd 32 (s.f (.bkt e 7) BKT.APPLIED) 1)
    let r := s.round e
    let s := if p then s.setRound e { r with poison := true } else s
    State.applyBkt s e f mask (a + f.bytes) (i + 1) l

/-- A contribution has been refused with BUSY for a tick period since its first refusal (R332). -/
def State.raddOver (s : State) (c : Contrib) : Bool :=
  match c.firstBusy with
  | some (t0, p) => decide (t0 + p ≤ s.now)
  | none => false

/-- A contribution ends with a status: what is left of it is not sent, and its part of its operation ends. -/
def State.contribEnds (s : State) (c : Contrib) (st : Status) : State :=
  State.pendStep { s with red := { s.red with
    contribs := s.red.contribs.filter (fun x => x.id != c.id)
    retries := s.red.retries.filter (fun r => r.contrib != c.id) } } c.pend st

/-- One message of a contribution is answered with a status other than BUSY: any but DONE ends the contribution (R332), and so
does the answer to the last message. -/
def State.contribStep (s : State) (id : Nat) (st : Status) : State :=
  match s.red.contribs.find? (fun c => c.id == id) with
  | none => s
  | some c =>
    let st := if s.raddOver c then .busy else st
    if st ≠ .done ∨ c.left ≤ 1 then s.contribEnds c st
    else
      let upd (c : Contrib) : Contrib := { c with left := c.left - 1 }
      { s with red := { s.red with contribs := updFirst (fun c => c.id == id) upd s.red.contribs } }

/-- A message is answered once it has been applied or its round has ended (R331). -/
def State.raddAnswer (s : State) (a : RaddAck) (st : Status) : State :=
  match a with
  | .contrib id => s.contribStep id st
  | .frame c q => s.completeFrame c q st

/-- Staged element messages that will not be applied are answered with the status that ends their round; the spec gives no
answer (DESIGN CHOICE, log entry 81). -/
def State.dropStaged (s : State) (e : Nat) (st : Status) : State :=
  ((s.round e).staged.filter (fun x => decide (s.f (.ord (e - 4096) 4) ORD.APPLIED ≤ x.1))).foldl
    (fun (s : State) (x : Nat × List Byte × Nat × RaddAck) => s.raddAnswer x.2.2.2 st) s

/-- Close a round with its status: the bucket records it and signals DONECLEAT (R334). -/
def State.closeRound (s : State) (e : Nat) (st : Status) (tol : Bool) : State :=
  let s := if isOrd e then s.dropStaged e st else s
  let r := s.round e
  let tick := s.ent e BKT.ROUND ORD.ROUND
  let s := s.setRound e { last := if r.ticked then some tick else r.last }
  let s := s.setEnt e BKT.LAST_STATUS ORD.LAST_STATUS st.code
  let s := s.setEnt e BKT.STATE ORD.STATE 1
  let s := if tol then s.setF (.bkt e 3) BKT.TOLFAIL 1 else s
  let err (s : State) (F : Field) : State := s.sticky .redErr F 0x0030 st (s.accUnit e) (s.entSection e) (s.redDetail e)
  let s := match st with
    | .checksumMismatch => if tol then (err s RED_ERR.TOLFAIL).setF .redErr RED_ERR.MISMATCH 1 else err s RED_ERR.MISMATCH
    | .timeout => err s RED_ERR.TIMEOUT
    | .poisoned => err s RED_ERR.POISON
    | _ => s
  let s := s.signal uRed (s.ent e BKT.DONECLEAT ORD.DONECLEAT) st
  let ac := s.entArm e
  if ac = 0xFFFF then s
  else s.cltOp { op := 1, index := ac, operand := 1, consume := true } (s.gid uRed) (.eng (entKey e)) false

/-- The tolerance check of R337 passes. -/
def State.tolPass (s : State) (e : Nat) : Bool :=
  let d := sext 64 (s.f (.bkt e 6) BKT.RESULT + 2 ^ 64 - s.f (.bkt e 4) BKT.SHADOW)
  decide (d.natAbs ≤ s.entLen e / (s.entFmt e).bytes * (s.f (.bkt e 2) BKT.EXPECTED + 1))

/-- The contributions and applications of a round are all in (R334, R340). -/
def State.roundFull (s : State) (e : Nat) : Bool :=
  s.entState e == 3 &&
  (if isOrd e then
    let o := e - 4096
    let n := s.f (.ord o 1) ORD.RANKS
    s.f (.ord o 4) ORD.APPLIED == n && (s.round e).trailers.length == n
  else s.f (.bkt e 2) BKT.ARRIVED == s.f (.bkt e 2) BKT.EXPECTED &&
    decide (s.f (.bkt e 7) BKT.CLAIMED_N ≤ s.f (.bkt e 7) BKT.APPLIED))

/-- The status of a full round (R334, R341), and whether the tolerance check failed. -/
def State.roundStatus (s : State) (e : Nat) : Status × Bool :=
  let r := s.round e
  if isOrd e then
    let bad := r.trailers.any (fun t => !(r.sums.contains t))
    if s.f (.ord (e - 4096) 0) ORD.CHK = 1 ∧ bad then (.checksumMismatch, false)
    else if r.poison then (.poisoned, false) else (.done, false)
  else
    let chk := s.f (.bkt e 0) BKT.CHK
    if chk ≠ 0 ∧ (s.f (.bkt e 4) BKT.SHADOW ≠ s.f (.bkt e 5) BKT.CLAIMED ∨
        s.f (.bkt e 7) BKT.APPLIED ≠ s.f (.bkt e 7) BKT.CLAIMED_N) then (.checksumMismatch, false)
    else if chk = 2 ∧ !s.tolPass e then (.checksumMismatch, true)
    else if r.poison then (.poisoned, false) else (.done, false)

/-- Complete a round that is full (R334). -/
def State.settleRound (s : State) (e : Nat) : State :=
  if s.roundFull e then let (st, tol) := s.roundStatus e; s.closeRound e st tol else s

/-- Arm a CLOSED entry (R330): its wait on ARMCLEAT, which it holds only while CLOSED, ends; counters, sums and flags are
cleared; INIT ZERO enters ARMING, INIT NONE opens. -/
def State.armEntry (s : State) (e : Nat) : State :=
  if s.entState e ≠ 1 then s else
  let s := s.dropWait (entKey e)
  let r := s.round e
  let s := s.setRound e { last := r.last }
  let s := s.setEnt e BKT.FLAGS ORD.FLAGS 0
  let s := s.setEnt e BKT.EXTRA ORD.EXTRA 0
  let s := if isOrd e then
      let o := e - 4096
      (s.setF (.ord o 3) ORD.RECEIVED 0).setF (.ord o 4) ORD.APPLIED 0
    else
      let s := s.setF (.bkt e 2) BKT.ARRIVED 0
      let s := s.setF (.bkt e 3) BKT.TOLFAIL 0
      (((s.wr (.bkt e 4) 0).wr (.bkt e 5) 0).wr (.bkt e 6) 0).wr (.bkt e 7) 0
  if s.ent e BKT.INIT ORD.INIT = 1 then s.setEnt e BKT.STATE ORD.STATE 2 else s.setEnt e BKT.STATE ORD.STATE 3

/-- A range is written with zero by its accumulators, its poison clear: through the slices where it lies in HBM, else at banks
where older writes come first and the merge windows of its lines close (R177, R179, R210, R325, R330). -/
def State.zeroRange (s : State) (a n : Nat) : State :=
  let s := s.scPass a n 0 true
  let s := (if s.chip.writes.any (fun w => !w.waiting && w.meets a n) then s.acceptWrites else s).wipe a n
  { s with chip := { s.chip with
    merges := s.chip.merges.filter (fun w => decide (w.line < a / 64) || decide ((a + n + 63) / 64 ≤ w.line)) } }

/-- An ARMING range is zeroed with its poison clear, once its memory takes the lines, and the entry opens
(R330, R331). -/
def State.armDone (s : State) (e : Nat) : State :=
  if s.entState e = 2 ∧ (s.entBase e < 0x018000000000 → s.hbmStatus = .done) then
    (s.zeroRange (s.entBase e) (s.entLen e)).setEnt e BKT.STATE ORD.STATE 3
  else s

/-- Count a message that was not accepted (R331, R335). -/
def State.redRefuse (s : State) (e : Nat) (st : Status) (extra : Bool) : State :=
  let s := match st with
    | .staleEpoch => s.incSat .redDrop RED_DROP.STALE
    | .busy => s
    | _ => s.incSat .redDrop RED_DROP.REFUSED
  if extra then
    let s := s.setEnt e BKT.EXTRA ORD.EXTRA 1
    s.sticky .redErr RED_ERR.EXTRA 0x0031 .staleEpoch (s.accUnit e) (s.entSection e) (s.redDetail e)
  else s

/-- The rank of a sending device at an ordered channel, if it has one (R340). -/
def State.ordRank (s : State) (o dev : Nat) : Option Nat :=
  let b := s.f (.ord o 1) ORD.RANKBASE
  let k := s.f (.ord o 1) ORD.RANKSTRIDE
  if dev < b ∨ k = 0 then none
  else if (dev - b) % k ≠ 0 then none
  else if (dev - b) / k < s.f (.ord o 1) ORD.RANKS then some ((dev - b) / k) else none

/-- What names the contribution of a message: sending device and unit, tick, tag, epoch. -/
def RaddMsg.key (m : RaddMsg) : Nat × Nat × Nat × Nat × Nat := (m.dev, m.unit, m.tick, m.tag, m.epoch)

/-- The ordered channel a message goes to (R340): an element's destination lies in the range of a declared channel. A trailer
carries no address: it goes where the last element message of its contribution went (DEDUCED, log entry 11). -/
def State.ordFor (s : State) (m : RaddMsg) : Option Nat :=
  if m.trailer then (s.red.routes.find? (fun e => e.1 == m.key)).map (·.2)
  else (List.range 8).find? (fun o => s.entState (4096 + o) != 0 &&
    decide (s.entBase (4096 + o) ≤ m.addr) && decide (m.addr < s.entBase (4096 + o) + s.entLen (4096 + o)))

/-- Note where the contribution of a message goes; a trailer ends it. -/
def State.setRoute (s : State) (m : RaddMsg) (o : Option Nat) : State :=
  let l := s.red.routes.filter (fun e => e.1 != m.key)
  { s with red := { s.red with routes := match o with
    | some o => l ++ [(m.key, o)]
    | none => l } }

/-- A trailer has come before frames of its connection, and one of these can be the element message that says where it goes: no
element message of its contribution has come, and its sender has a rank at a declared ordered channel (R327, R340; DEDUCED, log
entry 11). -/
def State.trailerEarly (s : State) (m : RaddMsg) : Bool :=
  m.trailer && (s.ordFor m).isNone && (List.range 8).any (fun o => s.entState (4096 + o) != 0 && (s.ordRank o m.dev).isSome)

/-- Steps 1 to 7 of R331 with the changes of R341: the status, and whether EXTRA is set. -/
def State.raddCheck (s : State) (e : Nat) (m : RaddMsg) : Status × Bool :=
  let r := s.round e
  let f := s.entFmt e
  let n := m.data.length
  let base := s.entBase e
  let o := e - 4096
  let old := match r.last with
    | some l => !laterTick m.tick l
    | none => false
  let hbm := if decide (base < 0x018000000000) && !m.trailer then s.hbmStatus else .done
  let rank := s.ordRank o m.dev
  if !isOrd e && s.entState e == 0 then (.denied, false)
  else if !isOrd e && m.epoch != s.f (.bkt e 0) BKT.EPOCH then (.staleEpoch, false)
  else if old then (.staleEpoch, true)
  else if m.trailer && m.f != s.ent e BKT.F ORD.F then (.badDescriptor, false)
  else if !m.trailer && (m.k16 != s.entK16 e || n == 0 || n % f.bytes != 0 || m.addr % f.bytes != 0) then
    (.badDescriptor, false)
  else if isOrd e && !m.trailer && (m.addr != base || n != s.entLen e) then (.badDescriptor, false)
  else if !m.trailer && !(decide (base ≤ m.addr) && decide (m.addr + n ≤ base + s.entLen e)) then (.outOfBounds, false)
  else if isOrd e && rank.isNone then (.denied, false)
  else if isOrd e && s.entState e == 3 && r.ticked && !laterTick m.tick (s.ent e BKT.ROUND ORD.ROUND) &&
      (if m.trailer then r.trailers.any (fun x => some x.1 == rank)
       else bitN (s.f (.ord o 3) ORD.RECEIVED) (rank.getD 0)) then (.staleEpoch, true)
  else if hbm ≠ .done then (hbm, false)
  else if s.entState e ≠ 3 then (.busy, false)
  else if r.ticked && laterTick m.tick (s.ent e BKT.ROUND ORD.ROUND) then (.busy, false)
  else (.done, false)

/-- An accepted message acts on its round: the round tick, the elements applied or staged, the trailer's claims
(R331, R333, R340). An accumulator of HBM works through its slice (R325). -/
def State.raddAccept (s : State) (e : Nat) (m : RaddMsg) (ack : RaddAck) : State :=
  let r := s.round e
  let f := s.entFmt e
  let s := if r.ticked then s
    else (s.setEnt e BKT.ROUND ORD.ROUND m.tick).setRound e { r with ticked := true, edges := 0, first := s.tbNs }
  let r := s.round e
  if isOrd e then
    let o := e - 4096
    let k := (s.ordRank o m.dev).getD 0
    if m.trailer then s.setRound e { r with trailers := r.trailers ++ [(k, m.cksum, m.count)] }
    else
      let sum := (k, ckSum f (s.f (.ord o 0) ORD.F) m.data, m.data.length / f.bytes)
      let s := s.setRound e { r with staged := r.staged ++ [(k, m.data, m.mask, ack)], sums := r.sums ++ [sum] }
      s.setF (.ord o 3) ORD.RECEIVED (s.f (.ord o 3) ORD.RECEIVED ||| 2 ^ k)
  else if m.trailer then
    let s := s.setF (.bkt e 2) BKT.ARRIVED (wrapAdd 16 (s.f (.bkt e 2) BKT.ARRIVED) 1)
    let s := s.setF (.bkt e 5) BKT.CLAIMED (wrapAdd 64 (s.f (.bkt e 5) BKT.CLAIMED) m.cksum)
    s.setF (.bkt e 7) BKT.CLAIMED_N (wrapAdd 32 (s.f (.bkt e 7) BKT.CLAIMED_N) m.count)
  else (s.scAccum m.addr m.data.length).applyBkt e f m.mask m.addr 0 (elemCodes f m.data)

/-- A RADD message reaches its bucket or ordered channel (R331, R341): the status it is answered with, or none where it is
answered later, when a staged element message has been applied. -/
def State.raddTake (s : State) (m : RaddMsg) (ack : RaddAck) : Option Status × State :=
  let o := s.ordFor m
  let e := match o with
    | some o => 4096 + o
    | none => m.tag
  let s := (if m.trailer then s else s.setRoute m o).settleRound e
  let (st, extra) := s.raddCheck e m
  let s := if m.trailer && st != .busy then s.setRoute m none else s
  if st = .done then (if isOrd e && !m.trailer then none else some .done, s.raddAccept e m ack)
  else (some st, s.redRefuse e st extra)

/-- Apply the staged contribution of the next rank of an ordered channel, and answer its message (R331, R340). -/
def State.ordApply (s : State) (o : Nat) : State :=
  let e := 4096 + o
  let r := s.round e
  let k := s.f (.ord o 4) ORD.APPLIED
  let f := s.entFmt e
  match r.staged.find? (fun x => x.1 == k) with
  | none => s
  | some (_, d, mask, ack) =>
    if s.entState e ≠ 3 then s else
    let s := s.scAccum (s.entBase e) d.length
    let step (s : State) (i : Nat) : State :=
      let a := s.entBase e + i * f.bytes
      let (y', fl) := applyElem f (s.num a f.bytes) (leAt d (i * f.bytes) f.bytes)
      let p := bitN mask (i * f.bytes / 64)
      let s := s.store a (leBytes f.bytes y') (p || s.poisonedAt a f.bytes)
      let s := s.setF (.ord o 4) ORD.FLAGS (s.f (.ord o 4) ORD.FLAGS ||| fl)
      if p then let r := s.round e; s.setRound e { r with poison := true } else s
    let s := (List.range (d.length / f.bytes)).foldl step s
    (s.setF (.ord o 4) ORD.APPLIED (k + 1)).raddAnswer ack .done

/-! ### Senders -/

/-- The subheader and payload of a message (R353). -/
def RaddMsg.frame (m : RaddMsg) : List Byte × List Byte :=
  ((if m.trailer then leBytes 4 m.count ++ zeros 4 else leBytes 8 m.addr) ++
    leBytes 2 (m.tag + m.epoch * 4096) ++ leBytes 1 (if m.trailer then 1 else 0) ++
    leBytes 1 (if m.trailer then m.f else if m.k16 then 1 else 0) ++ leBytes 4 m.tick ++
    leBytes 8 (if m.trailer then m.cksum else m.mask), if m.trailer then [] else m.data)

/-- A message of a contribution is refused with BUSY: it is repeated after a wait that starts at 256 ns and doubles to
4,096 ns, until one tick period has passed since the first refusal (R332). -/
def State.raddBusy (s : State) (id wait : Nat) (m : RaddMsg) : State :=
  match s.red.contribs.find? (fun c => c.id == id) with
  | none => s
  | some c =>
    if s.raddOver c then s.contribEnds c .busy
    else
      let upd (c : Contrib) : Contrib := { c with firstBusy := some (c.firstBusy.getD (s.now, s.f .stkPeriod STK_PERIOD.P)) }
      { s with red := { s.red with contribs := updFirst (fun c => c.id == id) upd s.red.contribs,
                                   retries := s.red.retries ++ [{ contrib := id, msg := m, due := s.now + wait, wait := wait }] } }

/-- Send one message of a contribution: to the own device at once, else as a frame, DENIED while no device ID is assigned (R41,
R327, R332). `wait` is the back-off its refusal would start; of a contribution that has ended nothing is sent. -/
def State.raddSend (s : State) (id wait : Nat) (m : RaddMsg) : State :=
  match s.red.contribs.find? (fun x => x.id == id) with
  | none => s
  | some c =>
    if c.dst = s.dev then
      match s.raddTake m (.contrib id) with
      | (none, s) => s
      | (some .busy, s) => s.raddBusy id wait m
      | (some st, s) => s.contribStep id st
    else if !s.devAssigned then s.contribStep id .denied
    else match s.connFor c.dst c.unit with
    | none => s.contribStep id .peerLost
    | some cn =>
      let op := s.net.nextId
      let s := s.startOp cn tRadd c.unit false [m.frame] (.radd id)
      { s with red := { s.red with inflight := s.red.inflight ++ [(op, { contrib := id, msg := m, due := 0, wait := wait })] } }

/-- A contribution to a device begins under pending operation `pend`; its trailer is still to come (R327, R328). -/
def State.contribOpen (s : State) (unit dst pend tag epoch : Nat) (k16 : Bool) : State :=
  let c : Contrib := {
    id := s.net.nextId, pend := pend, left := 1, dst := dst, unit := unit, tag := tag, epoch := epoch, k16 := k16
    tick := s.unitTick unit, f := s.f .redCtrl RED_CTRL.SENDF }
  State.pendMore { s.newId with red := { s.red with contribs := s.red.contribs ++ [c] } } pend

/-- An element message of a contribution (R327). -/
def State.elemMsg (s : State) (c : Contrib) (a : Nat) (d : List Byte) (mask : Nat) : RaddMsg where
  trailer := false
  tag := c.tag
  epoch := c.epoch
  tick := c.tick
  k16 := c.k16
  addr := a
  data := d
  mask := mask
  f := 0
  count := 0
  cksum := 0
  dev := s.dev
  unit := c.unit

/-- Element messages of a contribution leave: runs of bytes with their poison masks, cut to what a frame carries; they count
in its trailer as they were sent, poisoned ones included (R327, R328, R333). -/
def State.contribSend (s : State) (id : Nat) (runs : List (Nat × List Byte × Nat)) : State :=
  match s.red.contribs.find? (fun c => c.id == id) with
  | none => s
  | some c =>
    let f : Fmt := if c.k16 then .k16 else .k32
    let mp := if c.dst = s.dev then 4096 else match s.connFor c.dst c.unit with
      | some cn => (s.conn cn).maxpay
      | none => 4096
    let cut := runs.flatMap (fun r => (pieces mp (r.2.1.length + 1) 0 r.2.1).map (fun (o, b) =>
      (r.1 + o, b, maskPiece r.2.2 o b.length)))
    let all := cut.flatMap (fun r => r.2.1)
    let upd (c : Contrib) : Contrib := { c with
      left := c.left + cut.length, count := c.count + all.length / f.bytes, sum := (c.sum + ckSum f c.f all) % 2 ^ 64 }
    let s := { s with red := { s.red with contribs := updFirst (fun c => c.id == id) upd s.red.contribs } }
    cut.foldl (fun s r => s.raddSend id 256 (s.elemMsg c r.1 r.2.1 r.2.2)) s

/-- The trailer of a contribution leaves (R327, R333). -/
def State.contribClose (s : State) (id : Nat) : State :=
  match s.red.contribs.find? (fun c => c.id == id) with
  | none => s
  | some c => s.raddSend id 256 { s.elemMsg c 0 [] 0 with trailer := true, f := c.f, count := c.count, cksum := c.sum }

end Sys2Proof.Machine
end

