-- ==== Sys2Proof/Machine/SailOps.lean ====
section
/-! DEFINITION. The tile sequencer's macro-instruction: fields, shapes, checks, the walk over tiles and its output
(03_sails.md R72 to R101). -/

namespace Sys2Proof.Machine

/-- Bits `hi` to `lo` of word `i` of a descriptor. -/
def wf (w : List Word) (i hi lo : Nat) : Nat := fld (w.getD i 0).toNat hi lo
/-- Bit `b` of word `i`. -/
def wb (w : List Word) (i b : Nat) : Bool := bitN (w.getD i 0).toNat b
/-- A signed 32-bit field. -/
def ws (w : List Word) (i hi lo : Nat) : Int := sext (hi + 1 - lo) (wf w i hi lo)

/-- The bases of the macro-instruction itself. -/
def mmaBases (w : List Word) : MmaBases where
  a := wf w 5 46 0
  asc := wf w 6 46 0
  b := wf w 8 46 0
  bsc := wf w 9 46 0
  c := wf w 11 63 0
  csc := wf w 12 46 0
  mOver := none

/-- The bases a 64 B list entry gives (R89). -/
def listBases (d : List Byte) : MmaBases where
  a := leAt d 0 8 % 2 ^ 47
  asc := leAt d 8 8 % 2 ^ 47
  b := leAt d 16 8 % 2 ^ 47
  bsc := leAt d 24 8 % 2 ^ 47
  c := leAt d 32 8
  csc := leAt d 40 8 % 2 ^ 47
  mOver := if bitN (leAt d 0x30 4) 17 then some (leAt d 0x30 4 % 2 ^ 17) else none

/-- The sails of a mask, ascending (R82). -/
def bitsOf (n mask : Nat) : List Nat := (List.range n).filter (bitN mask)

/-- The shape words are poisoned (R484). -/
def State.shapePoison (s : State) (m : Nat) (w : List Word) : Bool :=
  let a := actBase m + wf w 2 25 0
  (wb w 1 17 && s.poisonedAt a 4) || (wb w 1 39 && s.poisonedAt (a + 4) 4) || (wb w 1 62 && s.poisonedAt (a + 8) 4)

/-- The status of reading the shape words, where the shape comes from them (R38, R77, R93 step 2). -/
def State.shapeWords (s : State) (m : Nat) (w : List Word) : Status :=
  if !(wb w 1 17 || wb w 1 39 || wb w 1 62) then .done
  else
    let st := s.access (.unit (uSeq m)) false (actBase m + wf w 2 25 0) 12
    if st ≠ .done then st else if s.shapePoison m w then .poisoned else .done

/-- The shape: immediate, or from the shape words in the own mast's activation memory (R77). -/
def State.mmaShape (s : State) (m : Nat) (w : List Word) (x : MmaBases) : Shape where
  m := match x.mOver with
    | some v => v
    | none => if wb w 1 17 then s.num (actBase m + wf w 2 25 0) 4 else wf w 1 16 0
  n := if wb w 1 39 then s.num (actBase m + wf w 2 25 0 + 4) 4 else wf w 1 38 18
  k := if wb w 1 62 then s.num (actBase m + wf w 2 25 0 + 8) 4 else wf w 1 61 40

/-- A run of bytes at a signed offset: its first address and length. -/
structure Run where
  at_ : Int
  len : Nat
  deriving DecidableEq, Repr

/-- `n` runs of `len` bytes from a base at a stride. -/
def strided (base : Nat) (stride : Int) (n len : Nat) : List Run :=
  (List.range n).map (fun i => { at_ := Int.ofNat base + Int.ofNat i * stride, len := len })

/-- Two runs share a byte. -/
def Run.meets (a b : Run) : Bool :=
  decide (a.at_ < b.at_ + Int.ofNat b.len) && decide (b.at_ < a.at_ + Int.ofNat a.len)

/-- The smallest run that covers a list of runs. -/
def hull : List Run → Run
  | [] => { at_ := 0, len := 0 }
  | [r] => r
  | r :: l =>
    let h := hull l
    let lo := min r.at_ h.at_
    { at_ := lo, len := (max (r.at_ + Int.ofNat r.len) (h.at_ + Int.ofNat h.len) - lo).toNat }

/-- Two footprints share a byte. -/
def overlaps (a b : List Run) : Bool := (hull a).meets (hull b) && a.any (fun x => b.any (fun y => x.meets y))

/-- The check of a footprint: it lies in one region that the unit may access (R38, R39). -/
def State.footprint (s : State) (u : Nat) (write : Bool) (l : List Run) : Status :=
  if l = [] then .done else
  let h := hull l
  if h.at_ < 0 then .outOfBounds else s.access (.unit u) write h.at_.toNat h.len

/-- Output formats: 0 K32, 1 K16, 2 K6, 3 K4 (R77). -/
def outBytes (cf : Nat) : Nat := if cf = 0 then 4 else 2

/-- The runs of C (R79). -/
def cRuns (w : List Word) (x : MmaBases) (sh : Shape) : List Run :=
  let cf := wf w 14 50 48
  let base := x.c % 2 ^ 47
  if cf ≤ 1 then
    (strided base (ws w 13 31 0) sh.n (outBytes cf)).flatMap (fun r =>
      (List.range sh.m).map (fun j => { r with at_ := r.at_ + Int.ofNat j * ws w 13 63 32 }))
  else strided base (ws w 13 63 32) sh.m (elemBytes (cf == 2) sh.n)

/-- The runs of C's scales (R79). -/
def cscRuns (w : List Word) (x : MmaBases) (sh : Shape) : List Run :=
  strided x.csc (ws w 14 31 0) sh.m ((sh.n + 31) / 32)

/-- The runs of A and of its scales (R78). -/
def aRuns (w : List Word) (x : MmaBases) (sh : Shape) : List Run :=
  strided x.a (ws w 7 31 0) sh.n (elemBytes (wf w 5 48 47 == 1) sh.k)
/-- The runs of A's scales. -/
def ascRuns (w : List Word) (x : MmaBases) (sh : Shape) : List Run := strided x.asc (ws w 7 63 32) sh.n (sh.k / 32)
/-- The runs of B. -/
def bRuns (w : List Word) (x : MmaBases) (sh : Shape) : List Run :=
  strided x.b (ws w 10 31 0) sh.m (elemBytes (wf w 8 48 47 == 1) sh.k)
/-- The runs of B's scales. -/
def bscRuns (w : List Word) (x : MmaBases) (sh : Shape) : List Run := strided x.bsc (ws w 10 63 32) sh.m (sh.k / 32)

/-- A comes from a fairlead stream. -/
def aStream (w : List Word) : Bool := wf w 5 50 49 == 1

/-- The writes of C stay on the device: CMode 0b00, or 0b01 with the own ID (R92). -/
def State.cLocal (s : State) (w : List Word) (x : MmaBases) : Bool :=
  wf w 14 52 51 == 0 || (wf w 14 52 51 == 1 && gDev x.c == s.dev)

/-- The part of C that a walk reads or writes is on this device: for CMode 0b00, and where the device ID in CAddr is the own
one (R92). -/
def State.cHere (s : State) (w : List Word) (x : MmaBases) : Bool := wf w 14 52 51 == 0 || gDev x.c == s.dev

/-- Step 1 of R93 for the fields that every macro-instruction has. -/
def State.mmaBad (s : State) (m : Nat) (w : List Word) : Bool :=
  let mm := wf w 0 31 24
  let cf := wf w 14 50 48
  let cm := wf w 14 52 51
  let sec := match s.mastSection m with
    | some x => s.sectionMasts x
    | none => []
  decide (4 < wf w 0 16 14) || decide (1 < wf w 5 48 47) || decide (1 < wf w 5 50 49) || decide (1 < wf w 8 48 47) ||
  decide (3 < cf) || cm == 3 || wf w 0 9 8 == 3 || mm == 0 || !((bitsOf 8 mm).all (sec.contains ·)) ||
  (decide (49152 ≤ wf w 0 63 48) && wf w 0 63 48 != 0xFFFF) || (decide (cleatMax < wf w 4 15 0) && wf w 4 31 16 != 0) ||
  decide (65536 < wf w 3 16 0) || decide (1048576 < wf w 3 37 17) || decide (2097152 < wf w 3 59 38) ||
  wf w 3 59 38 % 32 != 0 || (wb w 0 10 && decide (2 ≤ cf)) || (wb w 0 13 && (decide (cf ≤ 1) || cm == 2)) ||
  (cm == 2 && decide (2 ≤ cf)) || wf w 4 58 33 % 16 != 0

/-- Step 1 of R93, for a NOP too; the list's fields are those of MMA_LIST (R77). -/
def State.mmaCheck1 (s : State) (m op : Nat) (w : List Word) : Status :=
  let sm := wf w 0 47 32
  let act := match s.fuses.region (wf w 15 46 0) 1 with
    | some (.act _) => true
    | _ => false
  if (op ≠ 0 ∧ op ≠ 0x10 ∧ op ≠ 0x11) ∨ s.mmaBad m w then .badDescriptor
  else if sm = 0 ∨ (bitsOf 16 sm).length % 2 ^ wf w 0 16 14 ≠ 0 then .badDescriptor
  else if op = 0x11 ∧ (!act ∨ 4096 < wf w 15 59 47) then .badDescriptor
  else .done

/-- AStream names a slot whose descriptor has another destination (R220). -/
def State.aStreamBad (s : State) (w : List Word) : Bool :=
  aStream w && (match (Tbl.get ({} : Fairlead) s.fair.fls (wf w 5 60 57)).slots.find? (fun e => e.1 == wf w 5 56 51) with
    | some (_, d) => fld (d.w.getD 0 0) 3 2 != 2
    | none => false)

/-- Where the row scales begin (R77). -/
def rowScaleBase (w : List Word) (m : Nat) : Nat := (if wb w 2 26 then weightBase m else actBase m) + wf w 2 54 27

/-- The check of the row scales: they lie in the memory of the own mast that RsMem selects (R77, R93 step 5). -/
def State.rowScaleCheck (s : State) (w : List Word) (m n : Nat) : Status :=
  if !wb w 0 12 then .done
  else if s.fuses.region (rowScaleBase w m) (2 * n) = some (if wb w 2 26 then .weight m else .act m) then
    s.access (.unit (uSeq m)) false (rowScaleBase w m) (2 * n)
  else .outOfBounds

/-- An address lies in activation memory, or in no region. -/
def State.notOutsideAct (s : State) (a : Nat) : Bool :=
  match s.fuses.region a 1 with
  | some (.act _) => true
  | none => true
  | _ => false

/-- Steps 2 to 5 of R93 for one walk: the status, and whether the walk is empty. Step 4 binds the places of A, B, C and, with C,
of its scales: the scales of A and of B may lie in any region that the sequencer may read (DESIGN CHOICE, log entry 73). The
UNSUPPORTED of a disabled fairlead stands between steps 4 and 5 (DESIGN CHOICE, log entry 73). -/
def State.mmaCheck (s : State) (m : Nat) (w : List Word) (x : MmaBases) (sh : Shape) : Status × Bool :=
  let u := uSeq m
  let cf := wf w 14 50 48
  let cm := wf w 14 52 51
  let rg (a : Nat) : Option Region := s.fuses.region a 1
  let here := s.cLocal w x
  let zeroStride := decide (cm ≤ 1) && ((ws w 13 31 0 == 0 && decide (1 < sh.n)) || (ws w 13 63 32 == 0 && decide (1 < sh.m)))
  let aBad := !aStream w && (match rg x.a with
    | some (.weight k) => k != m
    | some (.act k) => k != m
    | some _ => true
    | none => false)
  let cAct := match rg (x.c % 2 ^ 47) with
    | some (.act _) => true
    | _ => false
  let scales := decide (2 ≤ cf)
  let reads := (if aStream w then [] else [aRuns w x sh, ascRuns w x sh]) ++ [bRuns w x sh, bscRuns w x sh] ++
    (if wb w 0 10 && s.cHere w x && !here then [cRuns w x sh] else [])
  let oob := reads.foldl (fun st l => Status.or st (s.footprint u false l)) .done
  let oob := Status.or oob (s.rowScaleCheck w m sh.n)
  let oob := if here then
      Status.or (Status.or oob (s.footprint u true (cRuns w x sh)))
        (if scales then s.footprint u true (cscRuns w x sh) else .done)
    else oob
  if sh.k % 32 ≠ 0 then (.badDescriptor, false)
  else if wf w 3 16 0 < sh.m ∨ wf w 3 37 17 < sh.n ∨ wf w 3 59 38 < sh.k then (.shapeOverflow, false)
  else if sh.m = 0 ∨ sh.n = 0 ∨ sh.k = 0 then (.done, true)
  else if aBad || !s.notOutsideAct x.b || s.aStreamBad w || (here && !cAct) || (here && scales && !s.notOutsideAct x.csc) ||
      zeroStride || (scales && sh.n % 32 != 0) || (cm == 0 && gDev x.c != 0) then
    (.badDescriptor, false)
  else if aStream w ∧ s.fuses.a12 ∧ wf w 5 60 57 % 4 = 3 then (.unsupported, false)
  else if oob ≠ .done then (oob, false)
  else if here ∧ ((!aStream w && overlaps (cRuns w x sh) (aRuns w x sh)) ∨ overlaps (cRuns w x sh) (bRuns w x sh)) then
    (.badDescriptor, false)
  else (.done, false)

/-- What the checks make of one walk (R93 steps 2 to 5, R484). -/
def State.mmaEntry (s : State) (m : Nat) (w : List Word) (x : MmaBases) : MmaEntry :=
  if s.shapeWords m w ≠ .done then { st := s.shapeWords m w, walk := none }
  else
    let sh := s.mmaShape m w x
    match s.mmaCheck m w x sh with
    | (.done, false) => { st := .done, walk := some (x, sh) }
    | (st, _) => { st := st, walk := none }

/-- The checks of R93 at issue: the status of the macro-instruction itself, and what they make of its walk or of the entries
of its list. A list that leaves its region cannot be read: no entry of it executes (DEDUCED, log entry 73). -/
def State.mmaPlan (s : State) (m op : Nat) (w : List Word) : Status × List MmaEntry :=
  let n := wf w 15 59 47
  let list : List Run := [{ at_ := Int.ofNat (wf w 15 46 0), len := 64 * n }]
  let st := s.mmaCheck1 m op w
  if st ≠ .done ∨ op = 0 then (st, [])
  else if op = 0x10 then (.done, [s.mmaEntry m w (mmaBases w)])
  else if n = 0 then (.done, [])
  else if s.footprint (uSeq m) false list ≠ .done then (s.footprint (uSeq m) false list, [])
  else (.done, (List.range n).map (fun i =>
    let a := wf w 15 46 0 + 64 * i
    if s.poisonedAt a 64 then { st := .poisoned, walk := none } else s.mmaEntry m w (listBases (s.bytes a 64))))

/-- The row tiles a mast walks (R83). -/
def mmaTiles (w : List Word) (m n : Nat) : List Nat :=
  let mm := wf w 0 31 24
  let g := (bitsOf 8 mm).length
  let q := ((bitsOf 8 mm).filter (· < m)).length
  (List.range ((n + 63) / 64)).filter (fun t => t % g == q)

/-- The tiles of sail group `x` of `g` groups (R83). -/
def groupTiles (tiles : List Nat) (g x : Nat) : List Nat :=
  ((List.range tiles.length).filter (fun u => u % g == x)).map (fun u => tiles.getD u 0)

/-- Read block `b` of row `i` of an operand in memory (R78). -/
def State.block (s : State) (k6 : Bool) (base sbase : Nat) (stride sstride : Int) (i b : Nat) : Block :=
  let n := elemBytes k6 32
  let a := (Int.ofNat base + Int.ofNat i * stride).toNat + n * b
  let sa := (Int.ofNat sbase + Int.ofNat i * sstride).toNat + b
  let d := s.bytes a n
  let sc := s.num sa 1
  { codes := (List.range 32).map (elemAt k6 d), scale := sc, ep := s.poisonedAt a n, sp := s.poisonedAt sa 1 }

/-- Block `b` of row `n` of A in memory. -/
def State.aBlock (s : State) (w : List Word) (x : MmaBases) (n b : Nat) : Block :=
  s.block (wf w 5 48 47 == 1) x.a x.asc (ws w 7 31 0) (ws w 7 63 32) n b
/-- Block `b` of token `c` of B. -/
def State.bBlock (s : State) (w : List Word) (x : MmaBases) (c b : Nat) : Block :=
  s.block (wf w 8 48 47 == 1) x.b x.bsc (ws w 10 31 0) (ws w 10 63 32) c b

/-- The chunks of part `p` of `nb` blocks in `parts` parts: first block and count (R82, R86). -/
def partChunks (nb parts p : Nat) : List (Nat × Nat) :=
  let per := (nb + parts - 1) / parts
  let lo := min nb (p * per)
  let hi := min nb ((p + 1) * per)
  (List.range ((hi - lo + 15) / 16)).map (fun c => (lo + 16 * c, min 16 (hi - (lo + 16 * c))))

/-- The blocks of part `p`, ascending. -/
def partBlocks (nb parts p : Nat) : List Nat := (partChunks nb parts p).flatMap (fun c => (List.range c.2).map (c.1 + ·))

/-- The tiles of one pass (R83). -/
def passTiles (mine : List Nat) (pass : Nat) : List Nat := (mine.drop (16 * pass)).take 16

/-- Passes of a sail group. -/
def passCount (mine : List Nat) : Nat := (mine.length + 15) / 16

/-- The chunks of B of a walk, in the order in which the tap reads them: column tile, pass, chunk, part (R83, R88). -/
def walkChunks (w : List Word) (m walk : Nat) (sh : Shape) : List BChunk :=
  let parts := 2 ^ wf w 0 16 14
  let sails := bitsOf 16 (wf w 0 47 32)
  let tiles := mmaTiles w m sh.n
  let mine (x : Nat) : List Nat := groupTiles tiles (sails.length / parts) x
  (List.range ((sh.m + 63) / 64)).flatMap (fun j =>
    (List.range (passCount tiles)).flatMap (fun pass =>
      (List.range (((sh.k / 32 + parts - 1) / parts + 15) / 16)).flatMap (fun c =>
        (List.range parts).flatMap (fun p =>
          let l := (List.range sails.length).filter (fun i => i % parts == p && decide (pass < passCount (mine (i / parts))))
          match (partChunks (sh.k / 32) parts p)[c]? with
          | none => []
          | some (b0, nb) =>
            if l = [] then []
            else [{ walk := walk, j := j, pass := pass, part := p, b0 := b0, nb := nb
                    targets := l.map (fun i => sails.getD i 0) }]))))

/-- The tap reads a chunk once: the 64 tokens of a column tile, or those there are (R86, R87). -/
def State.readChunk (s : State) (w : List Word) (x : MmaBases) (sh : Shape) (c : BChunk) : ChunkData :=
  (List.range (min 64 (sh.m - 64 * c.j))).map (fun t => (List.range c.nb).map (fun i => s.bBlock w x (64 * c.j + t) (c.b0 + i)))

/-- The tiles that are resident on a sail while it computes on a chunk. -/
def chunkTiles (w : List Word) (m : Nat) (sh : Shape) (c : BChunk) (sail : Nat) : List Nat :=
  let parts := 2 ^ wf w 0 16 14
  let sails := bitsOf 16 (wf w 0 47 32)
  passTiles (groupTiles (mmaTiles w m sh.n) (sails.length / parts) (sails.idxOf sail / parts)) c.pass

/-- Bytes of A per tile for a chunk of `nb` blocks: the scales and the elements of 64 rows (R78). -/
def chunkBytes (k6 : Bool) (nb : Nat) : Nat := 64 * nb + 64 * nb * elemBytes k6 32

/-! ### Computing on a chunk -/

/-- The value an accumulator holds. -/
def Accum.v (a : Accum) : Option Q := Fmt.k32.dec a.code

/-- One walk of a macro-instruction of a mast. -/
structure Walk where
  w : List Word
  m : Nat
  x : MmaBases
  sh : Shape
  deriving DecidableEq, Repr

/-- The rows of tile `t` that exist. -/
def Walk.rows (k : Walk) (t : Nat) : Nat := min 64 (k.sh.n - 64 * t)
/-- The tokens of column tile `j` that exist. -/
def Walk.toks (k : Walk) (j : Nat) : Nat := min 64 (k.sh.m - 64 * j)

/-- A block that no operand has. -/
def noBlock : Block := { codes := [], scale := 0, ep := false, sp := false }

/-- The blocks `b0` to `b0 + nb - 1` of the rows of tile `t` of A in memory. -/
def State.memTile (s : State) (k : Walk) (t b0 nb : Nat) : List (List Block) :=
  (List.range (k.rows t)).map (fun r => (List.range nb).map (fun i => s.aBlock k.w k.x (64 * t + r) (b0 + i)))

/-- The blocks of the rows of the `i`-th resident tile of A, of a chunk of `nb` blocks, in the bytes a stream delivers for the
chunk and a sail: for each tile the scales of its 64 rows, then their elements (R78). -/
def streamTile (k6 : Bool) (rows nb i : Nat) (d : List (Byte × Bool)) : List (List Block) :=
  let n := elemBytes k6 32
  let d := d.drop (i * chunkBytes k6 nb)
  (List.range rows).map (fun r => (List.range nb).map (fun b =>
    let sc := d.getD (r * nb + b) (0, false)
    let e := (d.drop (64 * nb + (r * nb + b) * n)).take n
    { codes := (List.range 32).map (elemAt k6 (e.map (·.1))), scale := sc.1.toNat, ep := e.any (·.2), sp := sc.2 }))

/-- Which blocks of a chunk a tile skips: those whose scales are 0x00 for every row of the tile in A, or for every token in B
(R73). Of a partial tile the rows and tokens that exist are asked (DESIGN CHOICE, log entry 74). -/
def skips (a b : List (List Block)) (nb : Nat) : List Bool :=
  (List.range nb).map (fun i => a.all (fun r => (r.getD i noBlock).scale == 0) || b.all (fun c => (c.getD i noBlock).scale == 0))

/-- Add to an accumulator in K32 with RN, saturating and flushing (R56). -/
def Accum.plus (a : Accum) (x : Option Q) (fl : Nat) (p : Bool) : Accum :=
  let (c, f) := encOp .k32 0 0 (a.v.isNone || x.isNone) (lift2 (fun y z => some (y.add z)) a.v x)
  { code := c, fl := a.fl ||| f ||| fl, poison := a.poison || p }

/-- Accumulate blocks in ascending order (R56, R83). The elements of a skipped block are not read, so their poison reaches
nothing (R73, R96). -/
def Accum.walk (ka kb : Bool) (fa fb : Nat → Block) (skip : Nat → Bool) (a : Accum) : List Nat → Accum
  | [] => a
  | b :: l =>
    let x := fa b
    let y := fb b
    let p := x.sp || y.sp || ((x.ep || y.ep) && !skip b)
    let a := match blockProduct ka kb x.codes y.codes x.scale y.scale with
      | none => { a with poison := a.poison || p }
      | some (v, fl) => a.plus (some v) fl p
    Accum.walk ka kb fa fb skip a l

/-- A tile takes a chunk: each of its accumulators, token by token, adds the blocks of its row and token (R83). -/
def tileStep (ka kb : Bool) (a b : List (List Block)) (nb : Nat) (acc : List Accum) : List Accum :=
  let sk := skips a b nb
  (List.range acc.length).map (fun i =>
    let r := a.getD (i % a.length) []
    let c := b.getD (i / a.length) []
    Accum.walk ka kb (fun x => r.getD x noBlock) (fun x => c.getD x noBlock) (fun x => sk.getD x false)
      (acc.getD i { code := 0, fl := 0, poison := false }) (List.range nb))

/-- One finished element: the accumulators of the parts, and of the whole. -/
structure Cell where
  parts : List Accum
  acc : Accum
  deriving DecidableEq, Repr

/-- An accumulator of value zero. -/
def Accum.zero : Accum := { code := 0, fl := 0, poison := false }

/-- The parts of a cell combine in ascending order (R84). -/
def combine : List Accum → Cell
  | [] => { parts := [], acc := Accum.zero }
  | a :: l => { parts := a :: l, acc := l.foldl (fun x y => x.plus y.v y.fl y.poison) a }

/-- Bytes at an address with one poison bit. -/
def putCells (a : Nat) (d : List Byte) (p : Bool) : List (Nat × Byte × Bool) :=
  (List.range d.length).map (fun i => (a + i, d.getD i 0, p))

/-! ### The plan of a run (R75, R78, R83, R86 to R88) -/

/-- The computations of a run in walk order: chunk by chunk as the tap reads them (R88), within a chunk the sails ascending. A
stream delivers the bytes of A in this order, for each sail its resident tiles one after the other (R78). R78 says walk order,
and R83 walks the groups in parallel; an order that served one group's later chunks before another's earlier ones could not
be consumed from four retention slots (DEDUCED, log entry 74). -/
def chunkUses (w : List Word) (m : Nat) (plan : List MmaEntry) (cs : List BChunk) : List ChunkUse :=
  (List.range cs.length).flatMap (fun no =>
    match cs[no]? with
    | none => []
    | some c =>
      match (plan[c.walk]?).bind (·.walk) with
      | none => []
      | some (_, sh) => c.targets.map (fun i =>
        let n := (chunkTiles w m sh c i).length
        { no := no, sail := i, walk := c.walk, j := c.j, pass := c.pass
          grp := (bitsOf 16 (wf w 0 47 32)).idxOf i / 2 ^ wf w 0 16 14, tiles := n
          left := if aStream w then n * chunkBytes (wf w 5 48 47 == 1) c.nb else 0 }))

/-- The chunks of every walk of a plan. -/
def planChunks (w : List Word) (m : Nat) (plan : List MmaEntry) : List BChunk :=
  (List.range plan.length).flatMap (fun i =>
    match (plan[i]?).bind (·.walk) with
    | none => []
    | some (_, sh) => walkChunks w m i sh)

/-- The run of a mast. -/
def State.mmaRun (s : State) (m : Nat) : Option MmaRun := s.sail.runs.find? (fun r => r.mast == m)

/-- Store the run of a mast. -/
def State.putRun (s : State) (r : MmaRun) : State :=
  { s with sail := { s.sail with runs := updFirst (fun x => x.mast == r.mast) (fun _ => r) s.sail.runs } }

/-- A walk of a run. -/
def MmaRun.walkOf (r : MmaRun) (i : Nat) : Option Walk :=
  ((r.plan[i]?).bind (·.walk)).map (fun y => { w := r.w, m := r.mast, x := y.1, sh := y.2 })

/-- The B buffers of a sail of mast `m`. -/
def State.bBufs (s : State) (m sail : Nat) : List BBuf := Tbl.get [] s.sail.bufs (16 * m + sail)

/-- The bytes of B that the tap reads for a chunk: each token's elements and scales, those of skipped blocks too (R86, R87). -/
def Walk.chunkReads (k : Walk) (c : BChunk) : List (Nat × Nat) :=
  (List.range (k.toks c.j)).flatMap (fun t =>
    let at_ (base : Nat) (st : Int) : Nat := (Int.ofNat base + Int.ofNat (64 * c.j + t) * st).toNat
    let n := elemBytes (wf k.w 8 48 47 == 1) 32
    [(at_ k.x.b (ws k.w 10 31 0) + n * c.b0, n * c.nb), (at_ k.x.bsc (ws k.w 10 63 32) + c.b0, c.nb)])

/-- The B tap reads chunks into its free slots, in walk order (R87, R88). It reads the chunks of one walk while the tiles of that
walk are computed: a later entry of a list comes after the writes of an earlier one (R83, R89). -/
def State.tapRead (s : State) (r : MmaRun) : Nat → State × MmaRun
  | 0 => (s, r)
  | n + 1 =>
    match r.chunks, (List.range 4).find? (fun i => !s.sail.tap.any (fun t => t.mast == r.mast && t.slot == i)) with
    | c :: l, some i =>
      match r.walkOf c.walk with
      | none => (s, r)
      | some k =>
        if r.uses.head?.map (·.walk) ≠ some c.walk then (s, r)
        else
          let d := s.readChunk k.w k.x k.sh c
          let t : TapSlot := { mast := r.mast, slot := i, no := r.next, chunk := c, data := d, targets := c.targets }
          let s := s.readPass (uSeq r.mast) (k.chunkReads c)
          State.tapRead { s with sail := { s.sail with tap := s.sail.tap ++ [t] } }
            { r with next := r.next + 1, chunks := l } n
    | _, _ => (s, r)

end Sys2Proof.Machine
end

