-- ==== Sys2Proof/Machine/Sails.lean ====
section
/-! DEFINITION. Macro-instructions and the B tap (03_sails.md). One command is one macro-instruction of one mast, with
its sixteen words; `poisoned` says that its words carried poison when they were fetched (19_faults_and_dump.md R484). -/

namespace Sys2Proof.Machine

/-- The output of one tile: cells of C in an order that runs along the denser stride, flags, poison, elements rounded (R79,
R90, R91). `cnt` is the sail's rounding counter before the tile; every element of the tile takes its place in the order of
R91, those of a zero block too, for which no quotient is formed (DESIGN CHOICE, log entry 75). The scales of C on another
device cannot be read: free values (log entry 12). -/
def State.tileOut (s : State) (k : Walk) (sail t j cnt : Nat) (cell : Nat → Nat → Cell) :
    List (Nat × Byte × Bool) × Nat × Bool × Nat :=
  let w := k.w
  let x := k.x
  let rows := min 64 (k.sh.n - 64 * t)
  let toks := min 64 (k.sh.m - 64 * j)
  let cf := wf w 14 50 48
  let rnd := wf w 0 9 8
  let cbase := x.c % 2 ^ 47
  let u := unitId 1 (16 * k.m + sail)
  let seed := s.seedOf u
  let draw (c r : Nat) : Nat := drawRS seed u (cnt + c * rows + r)
  let rsBase := rowScaleBase w k.m
  -- the accumulator after the row scale (R54, R90)
  let scaled (r c : Nat) : Accum :=
    let a := (cell r c).acc
    if wb w 0 12 then
      let n := 64 * t + r
      let q := Fmt.k16.dec (s.num (rsBase + 2 * n) 2)
      let (v, f) := encOp .k32 0 0 (a.v.isNone || q.isNone) (lift2 (fun y z => some (y.mul z)) a.v q)
      { code := v, fl := a.fl ||| f, poison := a.poison || s.poisonedAt (rsBase + 2 * n) 2 }
    else a
  let inv (a : Accum) : Nat := if a.v.isNone then fInv else 0
  if cf ≤ 1 then
    let f : Fmt := if cf = 0 then .k32 else .k16
    let one (r c : Nat) : List (Nat × Byte × Bool) × Nat × Bool :=
      let a := scaled r c
      let (v, fl) := f.enc rnd (draw c r) a.v
      let ad := (Int.ofNat cbase + Int.ofNat (64 * t + r) * ws w 13 31 0 + Int.ofNat (64 * j + c) * ws w 13 63 32).toNat
      (putCells ad (leBytes f.bytes v) a.poison, a.fl ||| fl ||| inv a, a.poison)
    let l := if (ws w 13 63 32).natAbs < (ws w 13 31 0).natAbs
      then (List.range rows).flatMap (fun r => (List.range toks).map (fun c => one r c))
      else (List.range toks).flatMap (fun c => (List.range rows).map (fun r => one r c))
    (l.flatMap (·.1), l.foldl (fun a y => a ||| y.2.1) 0, l.any (·.2.2), rows * toks)
  else
    let k6 := cf == 2
    let one (c b : Nat) : List (Nat × Byte × Bool) × Nat × Bool :=
      let as := (List.range 32).map (fun i => scaled (32 * b + i) c)
      let p := as.any (·.poison)
      let fl0 := as.foldl (fun a y => a ||| y.fl) 0
      let tok := 64 * j + c
      let blk := (64 * t) / 32 + b
      let sa := (Int.ofNat x.csc + Int.ofNat tok * ws w 14 31 0 + Int.ofNat blk).toNat
      let ea := (Int.ofNat cbase + Int.ofNat tok * ws w 13 63 32).toNat + elemBytes k6 32 * blk
      let dr (i : Nat) : Nat := draw c (32 * b + i)
      if wb w 0 13 then
        let (sc, cs, fl) := quantGen k6 rnd dr (as.map (·.v))
        (putCells ea (packElems k6 cs) p ++ putCells sa [BitVec.ofNat 8 sc] p, fl0 ||| fl, p)
      else
        let here := s.cLocal w x
        let p := p || (here && s.poisonedAt sa 1)
        let sc := if here then s.num sa 1 else Config.freeNat (s.free + 1 + tok * 2 ^ 20 + blk) % 256
        let (cs, fl) := quantExp k6 rnd dr sc (as.map (·.v))
        (putCells ea (packElems k6 cs) p, fl0 ||| fl, p)
    let l := (List.range toks).flatMap (fun c => (List.range (rows / 32)).map (fun b => one c b))
    (l.flatMap (·.1), l.foldl (fun a y => a ||| y.2.1) 0, l.any (·.2.2), rows * toks)

/-- The address of element (n, c) of a C in K32 or K16 (R79). -/
def cAddr (w : List Word) (x : MmaBases) (n c : Nat) : Nat :=
  (Int.ofNat (x.c % 2 ^ 47) + Int.ofNat n * ws w 13 31 0 + Int.ofNat c * ws w 13 63 32).toNat

/-- The accumulators' start for a cell: C where Acc is 1, else zero (R56, R83). C on another device cannot be read: a
free value (log entry 12). -/
def State.accInit (s : State) (w : List Word) (x : MmaBases) (n c : Nat) : Accum :=
  if !wb w 0 10 then Accum.zero
  else
    let f : Fmt := if wf w 14 50 48 = 0 then .k32 else .k16
    let a := cAddr w x n c
    let k32 (v : Option Q) : Nat := (Fmt.k32.enc 0 0 v).1
    if s.cHere w x then { code := k32 (f.dec (s.num a f.bytes)), fl := 0, poison := s.poisonedAt a f.bytes }
    else { code := k32 (Fmt.k32.dec (Config.freeNat (s.free + 1 + n * 2 ^ 20 + c) % 2 ^ 32)), fl := 0, poison := false }

/-- The cells as they are issued: all poisoned where the step is marked (R318). -/
def State.issued (s : State) (u : Nat) (cs : List (Nat × Byte × Bool)) : List (Nat × Byte × Bool) :=
  if s.marked u then cs.map (fun c => (c.1, c.2.1, true)) else cs

/-- Cells as runs of at most 4 KiB with their poison masks (R353). -/
def cellRuns (cs : List (Nat × Byte × Bool)) : List (Nat × List Byte × Nat) :=
  (coalesce cs).flatMap (fun r => (pieces 4096 (r.2.length + 1) 0 (r.2.map (·.1))).map (fun (o, b) =>
    (r.1 + o, b, runMask ((r.2.drop o).take b.length))))

/-- Write the cells of a finished tile: to memory, to another device, or into the contribution to one, which begins with its
first tile (R92, R97, R327, R339). -/
def State.tileWrite (s : State) (r : MmaRun) (x : MmaBases) (cells : List (Nat × Byte × Bool)) : State × MmaRun :=
  let w := r.w
  let u := uSeq r.mast
  if s.cLocal w x then (s.storeCells u cells, r)
  else if wf w 14 52 51 = 2 then
    let runs := cellRuns (s.issued u cells)
    match r.radd.find? (fun e => e.1 == gDev x.c) with
    | some e => (s.contribSend e.2 runs, r)
    | none =>
      let id := s.net.nextId
      ((s.contribOpen u (gDev x.c) r.pend (wf w 14 43 32) (wf w 14 47 44) (wf w 14 50 48 == 1)).contribSend id runs,
        { r with radd := r.radd ++ [(gDev x.c, id)] })
  else
    ((cellRuns (s.issued u cells)).foldl (fun (s : State) (c : Nat × List Byte × Nat) =>
      match s.remoteWrite u (gDev x.c) c.1 c.2.1 c.2.2 (.part r.pend) with
      | (.done, s) => s.pendMore r.pend
      | (st, s) => s.pendWorse r.pend st) s, r)

/-- The image of a finished tile in the partial-sum memory of the sails of its group: element (row r, token c) at
4 × (64c + r) of its 16 KiB slot (R85 gives no layout: DESIGN CHOICE, log entry 76); the first sail holds the whole, the
others their parts. -/
def tileImage (k : Walk) (sails : List Nat) (gx slot t j : Nat) (cell : Nat → Nat → Cell) : List (Nat × Byte × Bool) :=
  let parts := 2 ^ wf k.w 0 16 14
  (List.range parts).flatMap (fun p =>
    let base := psumBase (16 * k.m + sails.getD (gx * parts + p) 0) + 16384 * slot
    (List.range (k.toks j)).flatMap (fun c => (List.range (k.rows t)).flatMap (fun r =>
      let a := if p = 0 then (cell r c).acc else (cell r c).parts.getD p Accum.zero
      putCells (base + 4 * (64 * c + r)) (leBytes 4 a.code) a.poison)))

/-- The sail that holds part `p` of group `gx` (R82). -/
def sailOf (w : List Word) (gx p : Nat) : Nat := (bitsOf 16 (wf w 0 47 32)).getD (gx * 2 ^ wf w 0 16 14 + p) 0

/-- The cell (row `r`, token `c`) of the tile in slot `i` of a group, of the parts its sails have accumulated (R84); the
accumulators of a part without blocks are zero. -/
def MmaRun.cell (a : MmaRun) (k : Walk) (gx i t r c : Nat) : Cell :=
  combine ((List.range (2 ^ wf a.w 0 16 14)).map (fun p =>
    ((Tbl.get [] a.accs (sailOf a.w gx p)).getD i []).getD (c * k.rows t + r) Accum.zero))

/-- Finish a tile of a pass: image, row scale, conversion, rounding counter, write (R83, R90, R91). -/
def State.tileEnd (s : State) (r : MmaRun) (k : Walk) (gx i t j : Nat) : State × MmaRun :=
  let conv := sailOf k.w gx 0
  let g := 16 * k.m + conv
  let cell := r.cell k gx i t
  let s := s.storeCells (uSeq k.m) (tileImage k (bitsOf 16 (wf k.w 0 47 32)) gx i t j cell)
  let s := s.readPass (uSeq k.m) (if wb k.w 0 12 then [(rowScaleBase k.w k.m + 128 * t, 2 * k.rows t)] else [])
  let cnt := Tbl.get 0 s.sail.rs g
  let (cs, fl, p, n) := s.tileOut k conv t j cnt cell
  let s := if wf k.w 0 9 8 = 2 then
    { s with sail := { s.sail with rs := Tbl.set s.sail.rs g ((cnt + n) % 2 ^ 48) } } else s
  s.tickFree.tileWrite { r with flags := r.flags ||| fl, poison := r.poison || p } k.x cs

/-- A pass of a sail group has computed on its last chunk: its tiles are finished in order (R83). -/
def State.passEnd (s : State) (r : MmaRun) (k : Walk) (gx j : Nat) (ts : List Nat) : State × MmaRun :=
  let (s, r) := (List.range ts.length).foldl (fun (y : State × MmaRun) (i : Nat) =>
    y.1.tileEnd y.2 k gx i (ts.getD i 0) j) (s, r)
  let own := (List.range (2 ^ wf r.w 0 16 14)).map (sailOf r.w gx)
  (s, { r with accs := r.accs.filter (fun e => !own.contains e.1) })

/-- The bytes of A in memory that a tile reads for a chunk: the scales, and the elements of the blocks it does not skip (R73,
R78). -/
def Walk.tileReads (k : Walk) (t b0 : Nat) (sk : List Bool) : List (Nat × Nat) :=
  let at_ (base r : Nat) (st : Int) : Nat := (Int.ofNat base + Int.ofNat (64 * t + r) * st).toNat
  let n := elemBytes (wf k.w 5 48 47 == 1) 32
  (List.range (k.rows t)).flatMap (fun r => (at_ k.x.asc r (ws k.w 7 63 32) + b0, sk.length) ::
    ((List.range sk.length).filter (fun i => !sk.getD i false)).map (fun i => (at_ k.x.a r (ws k.w 7 31 0) + n * (b0 + i), n)))

/-- The accumulators a sail starts a pass with, and the bytes of C it reads for them: C for part 0 where Acc is 1, else zero
(R83, R84). -/
def State.passStart (s : State) (k : Walk) (part j : Nat) (ts : List Nat) : List (List Accum) × List (Nat × Nat) :=
  let cells (t : Nat) : List (Nat × Nat) := (List.range (k.toks j)).flatMap (fun c =>
    (List.range (k.rows t)).map (fun r => (64 * t + r, 64 * j + c)))
  (ts.map (fun t => (cells t).map (fun y => if part = 0 then s.accInit k.w k.x y.1 y.2 else Accum.zero)),
    if wb k.w 0 10 && part == 0 && s.cHere k.w k.x then
      ts.flatMap (fun t => (cells t).map (fun y => (cAddr k.w k.x y.1 y.2, outBytes (wf k.w 14 50 48)))) else [])

/-- A sail computes on a chunk in its buffer, with the bytes `d` of A where A comes from a stream: its resident tiles in order,
their block steps counted (R73, R83, R102). -/
def State.sailStep (s : State) (r : MmaRun) (k : Walk) (u : ChunkUse) (e : BBuf) (d : List (Byte × Bool)) : State × MmaRun :=
  let c := e.chunk
  let ts := chunkTiles r.w r.mast k.sh c u.sail
  let s := s.setF (.sailStat r.mast u.sail) SAIL_STAT.RESIDENT u.tiles
  let accs := Tbl.get [] r.accs u.sail
  let (accs, cs) := if accs = [] then s.passStart k c.part c.j ts else (accs, [])
  let k6 := wf r.w 5 48 47 == 1
  let as := (List.range ts.length).map (fun i => if aStream r.w then streamTile k6 (k.rows (ts.getD i 0)) c.nb i d
    else s.memTile k (ts.getD i 0) c.b0 c.nb)
  let sk := as.map (fun a => skips a e.data c.nb)
  let rd := if aStream r.w then [] else (List.range ts.length).flatMap (fun i => k.tileReads (ts.getD i 0) c.b0 (sk.getD i []))
  let s := (s.readPass (uSeq r.mast) (cs ++ rd)).tickFree
  let n := (sk.flatMap (·.filter id)).length
  let s := s.incWrap (.sailBlocks r.mast u.sail) SAIL_BLOCKS.ALL (ts.length * c.nb - n)
  let s := s.incWrap (.sailSkips r.mast u.sail) SAIL_SKIPS.ALL n
  let new := (List.range ts.length).map (fun i =>
    tileStep k6 (wf r.w 8 48 47 == 1) (as.getD i []) e.data c.nb (accs.getD i []))
  (s, { r with accs := Tbl.set r.accs u.sail new })

/-- The computation at the front is done, `l` being those that remain: where it was the last of its sail group's pass, the
tiles are finished (R83). -/
def State.useChunk (s : State) (r : MmaRun) (u : ChunkUse) (l : List ChunkUse) (e : BBuf) (d : List (Byte × Bool)) :
    State × MmaRun :=
  match r.walkOf u.walk with
  | none => (s, { r with uses := l, got := [] })
  | some k =>
    let (s, r) := s.sailStep { r with uses := l, got := [] } k u e d
    if l.any (fun v => v.walk == u.walk && v.j == u.j && v.pass == u.pass && v.grp == u.grp) then (s, r)
    else s.passEnd r k u.grp u.j (chunkTiles r.w r.mast k.sh e.chunk u.sail)

/-- A sail takes the chunk that a slot retains into its next B buffer; the slot is freed when every target has taken its chunk
(R87). -/
def State.tapGive (s : State) (m : Nat) (t : TapSlot) (sail : Nat) : State :=
  let t' := { t with targets := t.targets.filter (fun x => x != sail) }
  let tap := if t'.targets = [] then s.sail.tap.filter (fun x => x != t)
    else updFirst (fun x => x == t) (fun _ => t') s.sail.tap
  let b : BBuf := { no := t.no, chunk := t.chunk, data := t.data }
  { s with sail := { s.sail with tap := tap, bufs := Tbl.set s.sail.bufs (16 * m + sail) (s.bBufs m sail ++ [b]) } }

/-- A sail of mast `m` frees the B buffer of chunk `no` (R83). -/
def State.bFree (s : State) (m sail no : Nat) : State :=
  { s with sail := { s.sail with bufs := Tbl.set s.sail.bufs (16 * m + sail) ((s.bBufs m sail).filter (fun y => y.no != no)) } }

/-- The sails compute on what they hold: the next computation takes the bytes of A that have arrived; when it has them all,
its sail's buffer is free, and the tap goes on (R83, R88, R220). -/
def State.streamDrain (s : State) (r : MmaRun) : Nat → State × MmaRun
  | 0 => (s, r)
  | n + 1 =>
    match r.uses with
    | [] => (s, r)
    | u :: l =>
      let key := (r.mast, r.fl, r.stream)
      let d := Tbl.get [] s.fair.sbuf key
      match (s.bBufs r.mast u.sail).find? (fun e => e.no == u.no) with
      | none => (s, r)
      | some e =>
        let s := { s with fair := { s.fair with sbuf := Tbl.set s.fair.sbuf key (d.drop u.left) } }
        let got := r.got ++ d.take u.left
        if d.length < u.left then (s, { r with got := got, uses := { u with left := u.left - d.length } :: l })
        else
          let (s, r) := s.useChunk r u l e got
          let (s, r) := (s.bFree r.mast u.sail u.no).tapRead r 4
          State.streamDrain s r n

/-- A run whose A lies in memory: each computation in turn, its sail taking the chunk from the tap's slot, where the tap has it
by then (R87, R88). -/
def State.memDrain (s : State) (r : MmaRun) : List ChunkUse → State × MmaRun
  | [] => (s, r)
  | u :: l =>
    let (s, r) := s.tapRead r 4
    let s := match s.sail.tap.find? (fun t => t.mast == r.mast && t.no == u.no) with
      | some t => s.tapGive r.mast t u.sail
      | none => s
    match (s.bBufs r.mast u.sail).find? (fun e => e.no == u.no) with
    | some e =>
      let (s, r) := s.useChunk r u l e []
      (s.bFree r.mast u.sail u.no).memDrain r l
    | none => s.memDrain { r with uses := l } l

/-- The 16 B completion record but for its status (R97). Cycles is a free value (log entry 4). -/
def State.seqRecord (s : State) (m q op flags firstBad entries : Nat) : List Byte :=
  [0] ++ leBytes 1 flags ++ leBytes 1 q ++ leBytes 1 op ++ leBytes 4 (Config.freeNat s.free % 2 ^ 32) ++
  leBytes 2 firstBad ++ leBytes 2 entries ++ leBytes 4 (s.unitTick (uSeq m))

/-- What is left of a macro-instruction at its completion. -/
def State.seqFinish (s : State) (m op : Nat) (w : List Word) (flags firstBad entries : Nat) : Finish :=
  let q := ((bitsOf 8 (wf w 0 31 24)).filter (· < m)).length
  { key := .seq m, unit := uSeq m, mast := m, recAt := some (actBase m + wf w 4 58 33 + 16 * q),
    recBytes := s.seqRecord m q op flags firstBad entries, recSt := 0, cleat := wf w 0 63 48, endStep := wb w 0 17,
    descIdx := s.f (.seqStat m) SEQ_STAT.PC }

/-- Where the next macro-instruction of a mast stands (R76). -/
def State.seqAt (s : State) (m : Nat) : Nat := actBase m + s.f (.seqProg m) SEQ_PROG.BASE + 128 * s.f (.seqStat m) SEQ_STAT.PC

/-- The sequencer reads its next macro-instruction, unless it has it and waits (R190). -/
def State.seqTake (s : State) (m : Nat) : State :=
  s.fetchPass (uSeq m) (s.bit (.seqStat m) SEQ_STAT.WAITING) (s.seqAt m) 128

/-- The macro-instruction that the sequencer of a mast fetches next: its words, and whether they carry poison (R76, R484). -/
def State.seqFetch (s : State) (m : Nat) : List Word × Bool :=
  let a := s.seqAt m
  ((List.range 16).map (fun i => BitVec.ofNat 64 (s.num (a + 8 * i) 8)), s.poisonedAt a 128)

/-- The macro-instruction starts: its sails are BUSY, in their mode, and hold the tiles of their first pass (R85, R102). -/
def State.mmaStart (s : State) (m : Nat) (w : List Word) (plan : List MmaEntry) : State :=
  let s := s.setF (.seqStat m) SEQ_STAT.BUSY 1
  match plan.filterMap (·.walk) with
  | [] => s
  | (_, sh) :: _ =>
    let sails := bitsOf 16 (wf w 0 47 32)
    let parts := 2 ^ wf w 0 16 14
    let mode := match wf w 5 48 47, wf w 8 48 47 with
      | 0, 0 => 0
      | 1, 1 => 1
      | _, _ => 2
    (List.range sails.length).foldl (fun (s : State) (i : Nat) =>
      let r := Reg.sailStat m (sails.getD i 0)
      let n := (passTiles (groupTiles (mmaTiles w m sh.n) (sails.length / parts) (i / parts)) 0).length
      ((s.setF r SAIL_STAT.BUSY 1).setF r SAIL_STAT.RESIDENT n).setF r SAIL_STAT.MODE mode) s

/-- The status of a run whose walks are done, beside those of its entries (R57, R96). -/
def MmaRun.status (r : MmaRun) : Status :=
  mmaWorse (if r.poison then .poisoned else .done)
    (if wb r.w 0 11 ∧ r.flags &&& (fOvf ||| fUnf) ≠ 0 then .scaleRange else .done)

/-- FirstBad and EntriesDone of a list's plan: a failing entry is skipped, an empty one counts (R89, R94, R95, R97). -/
def listCounts (plan : List MmaEntry) : Nat × Nat :=
  (((List.range plan.length).find? (fun i => ((plan[i]?).map (·.st)) != some Status.done)).getD 0xFFFF,
    (plan.filter (fun e => e.st == .done)).length)

/-- A macro-instruction begins as the pending operation of the next number: its status so far is what its checks gave (R93,
R95, R96). -/
def State.mmaOpen (s : State) (m op : Nat) (w : List Word) (st1 : Status) (plan : List MmaEntry) : State × MmaRun :=
  let cs := planChunks w m plan
  let p : PendOp := {
    id := s.net.nextId, left := 1, st := plan.foldl (fun st e => mmaWorse st e.st) st1, fin := s.seqFinish m op w 0 0xFFFF 0 }
  let r : MmaRun := {
    mast := m, op := op, w := w, fl := wf w 5 60 57, stream := wf w 5 56 51, plan := plan, pend := s.net.nextId, next := 0
    chunks := cs, uses := chunkUses w m plan cs }
  ({ s.newId with net := { s.newId.net with pends := s.net.pends ++ [p] } }, r)

/-- The walks of a macro-instruction are done: its trailers leave, and it completes once nothing of it is outstanding (R96, R97,
R327). -/
def State.mmaEnd (s : State) (r : MmaRun) : State :=
  let s := r.radd.foldl (fun (s : State) (e : Nat × Nat) => s.contribClose e.2) s
  let (fb, dn) := if r.op = 0x11 then listCounts r.plan else (0xFFFF, 0)
  let f := s.seqFinish r.mast r.op r.w r.flags fb dn
  let up (p : PendOp) : PendOp := { p with fin := f, st := mmaWorse p.st r.status }
  State.pendStep { s with
    net := { s.net with pends := updFirst (fun p => p.id == r.pend) up s.net.pends }
    sail := { s.sail with runs := s.sail.runs.filter (fun x => x.mast != r.mast) } } r.pend .done

/-- The sails of mast `m` compute as far as their data goes, and the macro-instruction ends after the last computation (R83,
R88). Their clock runs while the mast is not asleep. -/
def State.drain (s : State) (m : Nat) : State :=
  match s.mmaRun m with
  | none => s
  | some r =>
    if !s.mastClocked m then s
    else
      let (s, r) := s.streamDrain r (r.uses.length + 1)
      if r.uses = [] then s.mmaEnd r else s.putRun r

/-- The macro-instruction has read its pointer list and the shape words its fields name, and its sails start (R81, R89). -/
def State.mmaBegin (s : State) (m op : Nat) (w : List Word) (plan : List MmaEntry) : State :=
  let list : List (Nat × Nat) := if op = 0x11 ∧ plan ≠ [] then [(wf w 15 46 0, 64 * wf w 15 59 47)] else []
  let shape : List (Nat × Nat) :=
    if plan ≠ [] ∧ (wb w 1 17 ∨ wb w 1 39 ∨ wb w 1 62) then [(actBase m + wf w 2 25 0, 12)] else []
  (s.readPass (uSeq m) (list ++ shape)).mmaStart m w plan

/-- Begin a macro-instruction whose wait has ended: the checks at issue, then the walks; where A comes from a stream, the
sails wait for it and for their chunks (R75, R83, R87, R93). -/
def State.mmaGo (s : State) (m op : Nat) (w : List Word) (st0 : Status) : State :=
  let (st1, plan) := if st0 = .done then s.mmaPlan m op w else (st0, [])
  let (s, r) := (s.mmaBegin m op w plan).mmaOpen m op w st1 plan
  if aStream w ∧ r.uses ≠ [] then
    let (s, r) := s.tapRead r 4
    { s with sail := { s.sail with runs := s.sail.runs ++ [r] } }
  else
    let (s, r) := s.memDrain r r.uses
    s.mmaEnd r

/-- Issue one macro-instruction on a mast: the mast takes part and its sequencer executes a step, the words are those that
stand at PC in its program, its sequencer is free, its wait has ended (R76, R81, R98, R99, R102, R138). One that waits for
its stream goes on as far as its data reaches, and completes when its sails have computed on all of it. -/
def State.mmaIssue (s : State) (m op : Nat) (w : List Word) (poisoned : Bool) : State :=
  let pc := s.f (.seqStat m) SEQ_STAT.PC
  match s.mmaRun m with
  | some r => if r.w != w || r.op != op then s else s.drain m
  | none =>
    if !s.mastRuns m || s.bit (.fabCtrl m) FAB_CTRL.DRAIN || !s.stepping (uSeq m) || s.bit (.seqStat m) SEQ_STAT.STEP_DONE ||
       s.engPending (.seq m) || decide (s.f (.seqProg m) SEQ_PROG.LENGTH ≤ pc) || s.seqFetch m != (w, poisoned) then s
    else if !poisoned && wf w 0 31 24 != 0 && !bitN (wf w 0 31 24) m then (s.seqTake m).setF (.seqStat m) SEQ_STAT.PC (pc + 1)
    else
      let s := s.seqTake m
      let wc := if wf w 4 31 16 = 0 ∨ poisoned ∨ cleatMax < wf w 4 15 0 then 0xFFFF else wf w 4 15 0
      match s.engineWait (.seq m) (uSeq m) wc (wf w 4 31 16) (wb w 4 32) with
      | .wait s => s.setF (.seqStat m) SEQ_STAT.WAITING 1
      | .go st s =>
        let s := s.setF (.seqStat m) SEQ_STAT.WAITING 0
        s.mmaGo m op w (if poisoned then .poisoned else st)

/-- A row issues the macro-instructions of its own opcode; one of no opcode of R77 goes by any row, and fails its checks. -/
def State.mmaRow (s : State) (m row : Nat) (w : List Word) (poisoned : Bool) : State :=
  let o := wf w 0 7 0
  if o = row ∨ (o ≠ 0 ∧ o ≠ 0x10 ∧ o ≠ 0x11) then s.mmaIssue m o w poisoned else s

/-- NOP: its wait, DoneCleat, record and EndStep; no sail (R80). -/
def execMmaNop (m : Fin 8) (w : List Word) (poisoned : Bool) (s : State) : Host.Outcome State Fault Refusal :=
  .next (s.mmaRow m 0 w poisoned)

/-- MMA: the mast's share of C = A × B (R82 to R97). -/
def execMma (m : Fin 8) (w : List Word) (poisoned : Bool) (s : State) : Host.Outcome State Fault Refusal :=
  .next (s.mmaRow m 0x10 w poisoned)

/-- MMA_LIST: one walk for each pointer-list entry, in order (R89, R95). -/
def execMmaList (m : Fin 8) (w : List Word) (poisoned : Bool) (s : State) : Host.Outcome State Fault Refusal :=
  .next (s.mmaRow m 0x11 w poisoned)

/-- The B tap delivers the chunk a slot retains to a target sail that has a free B buffer. A sail takes its chunks in the
order in which the tap reads them; the slot is freed when every target has taken its chunk, and the tap reads the walk's next
chunk into it (R87, R88). -/
def execBTapDeliver (m : Fin 8) (slot : Fin 4) (sail : Fin 16) (s : State) : Host.Outcome State Fault Refusal :=
  .next <|
  match s.sail.tap.find? (fun t => t.mast == m.val && t.slot == slot.val && t.targets.contains sail.val) with
  | none => s
  | some t =>
    if 2 ≤ (s.bBufs m sail).length ∨
        s.sail.tap.any (fun x => x.mast == m.val && decide (x.no < t.no) && x.targets.contains sail.val) then s
    else
      let s := s.tapGive m t sail
      match s.mmaRun m with
      | some r =>
        let (s, r) := s.tapRead r 1
        (s.putRun r).drain m
      | none => s

end Sys2Proof.Machine
end

