-- ==== Sys2Proof/Machine/FairOps.lean ====
section
/-! DEFINITION. The shared operations of the fairleads: descriptors, footprints, pieces of a stream, delivery
(07_fairleads.md). -/

namespace Sys2Proof.Machine

/-! ### Access -/

/-- Store fairlead `f`. -/
def State.setFl (s : State) (f : Nat) (x : Fairlead) : State :=
  { s with fair := { s.fair with fls := Tbl.set s.fair.fls f x } }
/-- The descriptor in a slot. -/
def State.flSlot (s : State) (f k : Nat) : Option FlDesc := ((s.fl f).slots.find? (fun e => e.1 == k)).map (·.2)
/-- Store the descriptor of a slot. -/
def State.setSlotD (s : State) (f k : Nat) (d : FlDesc) : State :=
  s.setFl f { s.fl f with slots := Tbl.set (s.fl f).slots k d }
/-- Free a slot. -/
def State.freeSlot (s : State) (f k : Nat) : State :=
  s.setFl f { s.fl f with slots := (s.fl f).slots.filter (fun e => e.1 != k) }
/-! ### Fields of a descriptor (R203) -/

def FlDesc.mode (d : FlDesc) : Nat := d.g 0 5 4
def FlDesc.pol (d : FlDesc) : Nat := d.g 0 7 6
def FlDesc.len (d : FlDesc) : Nat := d.g 4 31 0
def FlDesc.rows (d : FlDesc) : Nat := d.g 4 63 32
def FlDesc.src (d : FlDesc) : Nat := d.g 2 46 0
def FlDesc.dst (d : FlDesc) : Nat := if d.dstKind = 3 then d.g 3 63 0 else d.g 3 46 0
def FlDesc.sStride (d : FlDesc) : Int := sext 32 (d.g 5 31 0)
def FlDesc.dStride (d : FlDesc) : Int := sext 32 (d.g 5 63 32)
def FlDesc.esize (d : FlDesc) : Nat := 2 ^ d.g 6 2 0
def FlDesc.estride (d : FlDesc) : Int := sext 32 (d.g 6 34 3)
/-! ### Footprints (R204, R221) -/

/-- The lowest and the highest offset, end exclusive, of one row of the source. -/
def FlDesc.rowHull (d : FlDesc) : Int × Int :=
  let n : Int := Int.ofNat (d.len / d.esize) - 1
  match d.mode with
  | 1 => (min 0 (n * d.estride), max 0 (n * d.estride) + Int.ofNat d.esize)
  | 2 => (min 0 (63 * d.estride), max 0 (63 * d.estride) + 128)
  | _ => (0, Int.ofNat d.len)

/-- A range from a base over all rows at a stride. -/
def rowsHull (base : Nat) (stride : Int) (rows : Nat) (h : Int × Int) : Int × Int :=
  let e := (Int.ofNat rows - 1) * stride
  (Int.ofNat base + min 0 e + h.1, Int.ofNat base + max 0 e + h.2)

/-- The bytes of a coil. -/
def State.coilHull (s : State) (c : Nat × Nat) : Int × Int :=
  let a := s.recAddr c.1 c.2 0
  (Int.ofNat a, Int.ofNat (a + s.co c.1 c.2 COIL.CAP * s.recSize c.1 c.2))

/-- The extents of a list (R204). -/
def State.extents (s : State) (d : FlDesc) (n : Nat) : List Nat :=
  (List.range n).map (fun i => s.num (d.src + 8 * i) 8 % 2 ^ 47)

/-- The source ranges of a descriptor. -/
def State.flSrc (s : State) (d : FlDesc) : List (Int × Int) :=
  match d.srcKind with
  | 0 => [rowsHull d.src d.sStride d.rows d.rowHull]
  | 1 => [s.coilHull (d.coil false)]
  | _ => d.list.map (fun a => (Int.ofNat a, Int.ofNat (a + d.len)))

/-- The destination is an address of this device: its first device-local address (R40, R200). -/
def State.flDstBase (s : State) (d : FlDesc) : Option Nat :=
  if d.dstKind = 0 then some d.dst
  else if d.dstKind = 3 ∧ s.isLocal d.dst then some (gLocal d.dst) else none

/-- The destination range of a descriptor, where it lies on this device. -/
def State.flDst (s : State) (d : FlDesc) : Option (Int × Int) :=
  if d.dstKind = 1 then some (s.coilHull (d.coil true))
  else (s.flDstBase d).map (fun a => rowsHull a d.dStride (if d.srcKind = 2 then 1 else d.rows)
    (0, Int.ofNat (if d.srcKind = 2 then d.list.length * d.len else d.len)))

/-- The check of a range (R38). -/
def State.rangeCheck (s : State) (u : Nat) (write : Bool) (r : Int × Int) : Status :=
  if r.1 < 0 then .outOfBounds else s.access (.unit u) write r.1.toNat (r.2 - r.1).toNat

/-- The first failing check of a list of ranges. -/
def State.rangesCheck (s : State) (u : Nat) (write : Bool) (l : List (Int × Int)) : Status :=
  l.foldl (fun st r => Status.or st (s.rangeCheck u write r)) .done

/-! ### Checks at installation (R221) -/

/-- A cleat field names a cleat or none. -/
def cleatOk (c : Nat) : Bool := decide (c < 49152) || c == 0xFFFF

/-- The region of the source is one an address source reads: activation and partial-sum memory, and HBM for linear reads
(R200, R221; log entry 26). -/
def State.flSrcOk (s : State) (d : FlDesc) : Bool :=
  match s.fuses.region d.src 1 with
  | some .hbm => d.mode == 0
  | some (.act _) => true
  | some (.psum _) => true
  | none => d.mode == 0
  | _ => false

/-- A strided or transposed read keeps the limits of R180 and returns Length bytes. -/
def FlDesc.readOk (d : FlDesc) : Bool :=
  let a (k : Nat) : Bool := d.src % k == 0 && (d.rows ≤ 1 || decide (d.sStride % Int.ofNat k = 0))
  match d.mode with
  | 1 => decide (d.len ≤ 256) && d.len % d.esize == 0 && a d.esize && decide (d.estride % Int.ofNat d.esize = 0)
  | 2 => d.len == 8192 && a 64 && decide (d.estride % 64 = 0) && decide (128 ≤ d.estride.natAbs)
  | _ => true

/-- The record size of a coil divides Length, and the coil is defined (R219; log entry 26). -/
def State.coilOk (s : State) (d : FlDesc) (dst : Bool) : Bool :=
  let c := d.coil dst
  s.co c.1 c.2 COIL.VALID == 1 && d.len % s.recSize c.1 c.2 == 0

/-- Step 1 of R221. -/
def State.flBad (s : State) (d : FlDesc) : Bool :=
  d.g 1 63 38 != 0 || d.g 6 63 35 != 0 ||
  d.srcKind == 3 || d.mode == 3 || d.pol == 3 || decide (16 < d.g 1 5 1) || d.g 6 2 0 == 7 ||
  !cleatOk (d.g 0 31 16) || !cleatOk (d.g 1 21 6) || (d.g 0 63 48 != 0 && !cleatOk (d.g 0 47 32)) ||
  (d.mode != 0 && d.srcKind != 0) || (d.srcKind == 0 && !s.flSrcOk d) || (d.srcKind == 0 && !d.readOk) ||
  (decide (1 < d.rows) && d.dStride == 0) || (d.srcKind == 2 && d.rows != 1) ||
  (d.srcKind == 1 && !s.coilOk d false) || (d.dstKind == 1 && !s.coilOk d true)

/-- Step 2 of R221: a destination the fairlead may not write (R39). -/
def State.flDenied (s : State) (d : FlDesc) : Bool :=
  (s.flDstBase d).elim false (fun a => match s.fuses.region a 1 with
    | some .sram => true
    | some .regs => true
    | some .cleat => true
    | _ => false)

/-- Two ranges share a byte. -/
def meets (a b : Int × Int) : Bool := decide (a.1 < b.2) && decide (b.1 < a.2)

/-- The smallest range over a list of ranges. -/
def hullOf (l : List (Int × Int)) : Int × Int :=
  match l with
  | [] => (0, 0)
  | a :: l => l.foldl (fun (x : Int × Int) (y : Int × Int) => (min x.1 y.1, max x.2 y.2)) a

/-- A range lies in activation memory. -/
def State.actRange (s : State) (a n : Nat) : Bool :=
  match s.fuses.region a n with
  | some (.act _) => true
  | _ => false

/-- The count word that a descriptor's checks read, and the list they read then (R190, R221): none where an earlier check fails. -/
def State.flListReads (s : State) (f : Nat) (d : FlDesc) : List (Nat × Nat) :=
  let at_ := d.g 7 63 17
  let early := (s.fuses.a12 && f % 4 == 3) || s.flBad d || s.flDenied d || d.srcKind != 2
  if early then []
  else if d.g 7 16 16 = 0 then (if d.len = 0 ∨ d.g 7 15 0 = 0 ∨ !s.actRange d.src (8 * d.g 7 15 0) then [] else [(d.src, 8 * d.g 7 15 0)])
  else if !s.actRange at_ 4 then []
  else
    let n := s.num at_ 4
    (at_, 4) :: (if s.poisonedAt at_ 4 ∨ d.g 7 15 0 < n ∨ d.len = 0 ∨ n = 0 ∨ !s.actRange d.src (8 * n) then [] else [(d.src, 8 * n)])

/-- The checks of R221: the status with which the descriptor only completes, or the descriptor ready for its wait. A poisoned
count or list entry is poisoned control data (R484). -/
def State.flCheck (s : State) (f : Nat) (d : FlDesc) : FlDesc :=
  let u := uFairlead f
  let fail (st : Status) : FlDesc := { d with fail := some st }
  let cntAt := d.g 7 63 17
  let cnt := if d.g 7 16 16 = 1 then s.num cntAt 4 else d.g 7 15 0
  if s.fuses.a12 ∧ f % 4 = 3 then fail .unsupported
  else if s.flBad d then fail .badDescriptor
  else if s.flDenied d then fail .denied
  else if d.srcKind = 2 ∧ d.g 7 16 16 = 1 ∧ !s.actRange cntAt 4 then fail .outOfBounds
  else if d.srcKind = 2 ∧ d.g 7 16 16 = 1 ∧ s.poisonedAt cntAt 4 then fail .poisoned
  else if d.srcKind = 2 ∧ d.g 7 15 0 < cnt then fail .shapeOverflow
  else if d.len = 0 ∨ d.rows = 0 ∨ (d.srcKind = 2 ∧ cnt = 0) then fail .done
  else if d.srcKind = 2 ∧ !s.actRange d.src (8 * cnt) then fail .outOfBounds
  else if d.srcKind = 2 ∧ s.poisonedAt d.src (8 * cnt) then fail .poisoned
  else
    let d := if d.srcKind = 2 then { d with list := s.extents d cnt } else d
    let d := { d with total := if d.srcKind = 2 then cnt * d.len else d.rows * d.len }
    let src := s.flSrc d
    let dst := s.flDst d
    let st := if d.srcKind = 1 then .done else s.rangesCheck u false src
    let st := Status.or st (match dst with
      | some r => if d.dstKind = 1 then .done else s.rangeCheck u true r
      | none => .done)
    if st ≠ .done then { d with fail := some st }
    else if dst.elim false (fun r => meets (hullOf src) r) then { d with fail := some .badDescriptor }
    else d

/-! ### Pieces of a stream (R201) -/

/-- The source address at which a row begins (R204). -/
def FlDesc.rowAt (d : FlDesc) (r : Nat) : Nat := (Int.ofNat d.src + Int.ofNat r * d.sStride).toNat

/-- The source address of a position in the stream. -/
def FlDesc.srcAt (d : FlDesc) (p : Nat) : Nat :=
  let r := p / max 1 d.len
  let o := p % max 1 d.len
  if d.srcKind = 2 then d.list.getD r 0 + o
  else
    let b := Int.ofNat d.src + Int.ofNat r * d.sStride
    (match d.mode with
    | 1 => b + Int.ofNat (o / d.esize) * d.estride + Int.ofNat (o % d.esize)
    | 2 => b + Int.ofNat (o % 128 / 2) * d.estride + Int.ofNat (o / 128 * 2 + o % 2)
    | _ => b + Int.ofNat o).toNat

/-- The destination address of a position in the stream. -/
def FlDesc.dstAt (d : FlDesc) (p : Nat) : Nat :=
  if d.srcKind = 2 then d.dst + p
  else (Int.ofNat d.dst + Int.ofNat (p / max 1 d.len) * d.dStride + Int.ofNat (p % max 1 d.len)).toNat

/-- Bytes of a stream buffer that the sequencer has given no credit for: data in it, and data of pieces that are issued and wait
for their line (R220). -/
def State.streamUsed (s : State) (d : FlDesc) : Nat :=
  (Tbl.get [] s.fair.sbuf (d.g 3 2 0, d.fl, d.g 0 15 10)).length + (d.waits.map (·.len)).sum

/-- Bytes of the part of a stream at a position: within its row, its 256 B source line and its coil records; of a stream at
most the 256 B of a credit. -/
def State.lineLen (s : State) (d : FlDesc) (p : Nat) : Nat :=
  let row := d.len - p % max 1 d.len
  let src := if d.srcKind = 1 then
      let r := s.recSize (d.coil false).1 (d.coil false).2
      r - p % r
    else if d.mode = 0 then 256 - d.srcAt p % 256 else row
  let dst := if d.dstKind = 1 then
      let r := s.recSize (d.coil true).1 (d.coil true).2
      r - p % r
    else if d.dstKind = 2 then 256 else row
  min (min row src) dst

/-- Bytes of a stream buffer of a tile sequencer (R220). -/
def streamBytes : Nat := 65536

/-- Bytes of the piece at a position; a sail stream takes no more than it has credit for (R220). -/
def State.pieceLen (s : State) (d : FlDesc) (p : Nat) : Nat :=
  if d.dstKind = 2 then min (s.lineLen d p) (streamBytes - s.streamUsed d) else s.lineLen d p

/-- The bytes of a piece with their poison, as the source holds them now. -/
def State.pieceData (s : State) (d : FlDesc) (x : FlPiece) : List (Byte × Bool) :=
  (List.range x.len).map (fun k =>
    let a := if d.srcKind = 1 then
        let c := d.coil false
        s.recAddr c.1 c.2 x.srcRec + (x.pos + k) % s.recSize c.1 c.2
      else d.srcAt (x.pos + k)
    (s.byte a, s.poisonedAt a 1))

/-- A stream destination takes data while a macro-instruction of its mast that names the stream executes, and while the
sequencer has returned credit for it: what it holds and what is on its way stays within its 64 KiB (R220). -/
def State.streamOpen (s : State) (f k : Nat) (d : FlDesc) : Bool :=
  d.dstKind != 2 || (s.sail.runs.any (fun r => r.mast == d.g 3 2 0 && r.fl == f && r.stream == k) &&
    decide (s.streamUsed d < streamBytes))

/-- The transpose buffer that a row of a transposed read takes: mast and bank group of its first line (R182). -/
def State.rowBuffer (s : State) (a : Nat) : Nat × Nat :=
  (((s.fuses.region a 1).bind Region.mast).getD 0, a / 64 % 64 / 8)

/-- The transpose buffer of the next row is free. -/
def State.bufferFree (s : State) (d : FlDesc) : Bool :=
  d.srcKind != 0 || d.mode != 2 || !s.chip.transpose.contains (s.rowBuffer (d.rowAt (d.pos / max 1 d.len)))

/-- The coils of a descriptor let the piece at its position go (R185, R219): it is the fairlead's turn for a record to claim and
for one to reserve. -/
def State.coilsReady (s : State) (f : Nat) (d : FlDesc) : Bool :=
  let a := d.coil false
  let b := d.coil true
  (d.srcKind != 1 || d.pos % s.recSize a.1 a.2 != 0 || s.coilTurn a.1 a.2 (uFairlead f) true) &&
  (d.dstKind != 1 || d.pos % s.recSize b.1 b.2 != 0 || s.coilTurn b.1 b.2 (uFairlead f) false)

/-- A slot has demand that can be issued. -/
def State.flDemand (s : State) (f k : Nat) : Bool :=
  match s.flSlot f k with
  | some d => d.deliver && d.fail.isNone && decide (d.pos < d.total) && s.coilsReady f d && s.streamOpen f k d && s.bufferFree d
  | none => false

/-- The first position from `p` on whose source lies in HBM: extents outside it are passed over (R216). -/
def FlDesc.hbmFrom (d : FlDesc) (size : Nat) : Nat → Nat → Nat
  | 0, p => p
  | n + 1, p => if d.srcAt p < size then p else FlDesc.hbmFrom d size n ((p / max 1 d.len + 1) * max 1 d.len)

/-- The next position the prefetcher requests for a slot. -/
def State.ahead (s : State) (d : FlDesc) : Nat := d.hbmFrom s.fuses.hbmSize d.list.length (max d.pre d.pos)

/-- A slot has prefetch room: its stream delivers, or prefetches early (R209); the next line of HBM lies inside the window
of Runahead × 4 KiB (R216), may be read, and can be pinned (R213). -/
def State.flRoom (s : State) (f k : Nat) : Bool :=
  match s.flSlot f k with
  | none => false
  | some d =>
    let p := s.ahead d
    let a := d.srcAt p
    let l := s.hbmLine a
    d.fail.isNone && (d.deliver || d.g 0 8 8 == 1) && d.srcKind != 1 && d.mode == 0 && decide (a < s.fuses.hbmSize) &&
    decide (p < min d.total (d.pos + d.g 1 5 1 * 4096)) && s.access (.unit (uFairlead f)) false a 1 == .done &&
    (((s.slice l.1).find l.2).isSome || !s.pinFull l.1 l.2)

/-- The slot whose line request the fairlead issues next: round robin from the one served last, over the slots that have
demand or prefetch room (R216). -/
def State.flNext (s : State) (f : Nat) : Option Nat :=
  ((List.range 64).map (fun i => ((s.fl f).last + 1 + i) % 64)).find? (fun k => s.flDemand f k || s.flRoom f k)

/-! ### Delivery (R201, R219, R222) -/

/-- The place of a status in the order of R222; every status of the transport, BUSY and UNSUPPORTED among them (log entry
62), stands after POISONED. -/
def flRank : Status → Nat
  | .badDescriptor => 0
  | .denied => 1
  | .outOfBounds => 2
  | .shapeOverflow => 3
  | .poisoned => 4
  | .done => 6
  | _ => 5

/-- The status of two that R222 puts first; of two statuses of the transport the earlier. -/
def flWorse (a b : Status) : Status := if flRank b < flRank a then b else a

/-- `n` bytes are settled at the destination, `ok` of them accepted: SigCleat counts every SigEvery × 4 KiB accepted. -/
def State.flSettle (s : State) (f k n ok : Nat) (st : Status) : State :=
  match s.flSlot f k with
  | none => s
  | some d =>
    let every := d.g 1 37 22 * 4096
    let sigs := if every = 0 then 0 else (d.acc + ok) / every - d.acc / every
    let s := s.setSlotD f k { d with settled := d.settled + n, acc := d.acc + ok, tst := flWorse d.tst st }
    (List.range sigs).foldl (fun s _ => s.signal (uFairlead f) (d.g 1 21 6) .done) s

/-- Bytes of a destination record are accepted; a whole record is committed (R219). -/
def State.flRecord (s : State) (f k n r : Nat) : State :=
  match s.flSlot f k with
  | none => s
  | some d =>
    let c := d.coil true
    let have_ := Tbl.get 0 d.recAcc r + n
    if s.recSize c.1 c.2 ≤ have_ then
      (s.setSlotD f k { d with recAcc := d.recAcc.filter (fun e => e.1 != r) }).coilCommit c.1 c.2 r
    else s.setSlotD f k { d with recAcc := Tbl.set d.recAcc r have_ }

/-- A later part of the stream reads the line of HBM at `a` again (R212): the next row of a repeated or overlapping source,
an extent that follows, or the rest of this row. -/
def FlDesc.lineAgain (d : FlDesc) (p a : Nat) : Bool :=
  let lo := a / 256 * 256
  let r := p / max 1 d.len
  let inLine (b : Nat) : Bool := decide (b < lo + 256) && decide (lo < b + d.len)
  (p % max 1 d.len != 0 && decide (p < d.total) && d.srcAt p / 256 == a / 256) ||
  (if d.srcKind = 2 then (d.list.drop ((p + d.len - 1) / max 1 d.len)).any inLine
   else
     let r := if p % max 1 d.len = 0 then r else r + 1
     decide (r < d.rows) && inLine (d.rowAt r))

/-- The stream goes on in the line of HBM at `a`: what comes next, at position `p`, lies in it behind `a`. -/
def FlDesc.lineOn (d : FlDesc) (p a : Nat) : Bool :=
  decide (p < d.total) && d.srcAt p / 256 == a / 256 && decide (a < d.srcAt p)

/-- The stream has delivered a piece: once it has passed its line of HBM the pin is released, and after the last piece of the line
under STREAM the line is the next victim (R212, R213). -/
def State.pieceGone (s : State) (f k : Nat) (d : FlDesc) (x : FlPiece) : State :=
  if d.srcKind ≠ 1 ∧ d.mode = 0 ∧ d.srcAt x.pos < s.fuses.hbmSize then
    let a := d.srcAt x.pos
    let l := s.hbmLine a
    let s := if d.lineOn (x.pos + x.len) a then s else s.scDelivered (f, k) l.1 l.2
    if d.pol ≠ 1 ∨ d.lineAgain (x.pos + x.len) a then s else s.scLast l.1 l.2
  else s

/-- The source record that a piece ends, as mast, coil and number (R219). -/
def State.endsRecord (s : State) (d : FlDesc) (x : FlPiece) : Option (Nat × Nat × Nat) :=
  let c := d.coil false
  if d.srcKind = 1 ∧ (x.pos + x.len) % s.recSize c.1 c.2 = 0 then some (c.1, c.2, x.srcRec) else none

/-- Release a source record (R219). -/
def State.releaseRec (s : State) (r : Option (Nat × Nat × Nat)) : State :=
  match r with
  | some (m, c, n) => s.coilRelease m c n
  | none => s

/-- A fairlead writes a piece on this device under the policy of its descriptor; the destination accepts it (R190, R192,
R201). -/
def State.flStore (s : State) (f a : Nat) (data : List (Byte × Bool)) (pol : Nat) : State :=
  (s.storeBytes (uFairlead f) a data pol).settle s.dev (uFairlead f)

/-- Deliver a piece whose source data is there. A record that lies in tile slots of a macro-instruction ends the piece with
BUSY and stays claimed or reserved (R186). -/
def State.deliverPiece (s : State) (f k : Nat) (x : FlPiece) : State :=
  match s.flSlot f k with
  | none => s
  | some d =>
    let u := uFairlead f
    let data := s.pieceData d x
    let a := d.dstAt x.pos
    let rel := s.endsRecord d x
    let s := s.setSlotD f k { d with poison := d.poison || data.any (·.2) }
    let here (s : State) (b : Nat) : State :=
      let st := s.access (.unit u) true b x.len
      if st ≠ .done then (s.flSettle f k x.len 0 st).releaseRec rel
      else ((s.flStore f b data d.pol).flSettle f k x.len x.len .done).releaseRec rel
    let s : State := match d.dstKind with
      | 0 => here s a
      | 1 =>
        let c := d.coil true
        if s.coilBusy c.1 c.2 x.dstRec then (s.flSettle f k x.len 0 .busy).releaseRec rel
        else
          let b := s.recAddr c.1 c.2 x.dstRec + x.pos % s.recSize c.1 c.2
          (((s.flStore f b data d.pol).flRecord f k x.len x.dstRec).flSettle f k x.len x.len .done).releaseRec rel
      | 2 =>
        let key := (d.g 3 2 0, f, k)
        let mk := s.marked u
        let old := Tbl.get [] s.fair.sbuf key
        let new := data.map (fun (b : Byte × Bool) => (b.1, b.2 || mk))
        ((State.flSettle { s with fair := { s.fair with sbuf := Tbl.set s.fair.sbuf key (old ++ new) } } f k x.len x.len .done
          ).releaseRec rel).drain (d.g 3 2 0)
      | _ =>
        let g := a % 2 ^ 64
        if s.isLocal g then here s (gLocal g)
        else
          let mk := s.marked u
          let mask := runMask (data.map (fun (b : Byte × Bool) => (b.1, b.2 || mk)))
          let (st, s) := s.remoteWrite u (gDev g) (gLocal g) (data.map (·.1)) mask (.fair f k x.len rel)
          if st ≠ .done then (s.flSettle f k x.len 0 st).releaseRec rel else s
    s.pieceGone f k d x

/-- Deliver the waiting pieces of a slot that lack no line, in stream order; a stream buffer takes bytes in order. -/
def State.deliverReady (s : State) (f k : Nat) : List FlPiece → State
  | [] => s
  | x :: l =>
    if x.lacks = [] then
      let s := match s.flSlot f k with
        | some d => s.setSlotD f k { d with waits := d.waits.erase x }
        | none => s
      State.deliverReady (s.deliverPiece f k x) f k l
    else match s.flSlot f k with
      | some d => if d.dstKind = 2 then s else State.deliverReady s f k l
      | none => s

/-- A line has arrived: pieces that lacked it go on. -/
def State.lineArrived (s : State) (h line : Nat) : State :=
  (List.range 16).foldl (fun s f => (s.fl f).slots.foldl (fun (s : State) (e : Nat × FlDesc) =>
    let upd (x : FlPiece) : FlPiece := { x with lacks := x.lacks.filter (fun l => l != (h, line)) }
    let ws := e.2.waits.map upd
    if ws = e.2.waits then s
    else (s.setSlotD f e.1 { e.2 with waits := ws }).deliverReady f e.1 ws) s) s

/-- The source ranges of a piece that is not a line of HBM. -/
def State.pieceReads (s : State) (d : FlDesc) (x : FlPiece) : List (Nat × Nat) :=
  if d.srcKind = 1 then
    let c := d.coil false
    [(s.recAddr c.1 c.2 x.srcRec + x.pos % s.recSize c.1 c.2, x.len)]
  else match d.mode with
  | 1 => (List.range (x.len / d.esize)).map (fun i => (d.srcAt (x.pos + i * d.esize), d.esize))
  | 2 => (List.range 64).map (fun i => (d.srcAt (x.pos + 2 * i), 128))
  | _ => [(d.srcAt x.pos, x.len)]

/-- The read of a piece reaches its memory: the lookup of its line at a slice under the policy of its descriptor, or the
front-end of a mast, where a transposed read takes its buffer (R182, R190, R201, R212). Answers whether the data is there. -/
def State.pieceFetch (s : State) (u : Nat) (d : FlDesc) (x : FlPiece) : Bool × State :=
  let a := d.srcAt x.pos
  if d.srcKind ≠ 1 ∧ d.mode = 0 ∧ a < s.fuses.hbmSize then
    let l := s.hbmLine a
    s.scLookup l.1 l.2 0 d.pol none
  else
    let s := if d.srcKind = 0 ∧ d.mode = 2 then
      { s with chip := { s.chip with transpose := s.chip.transpose ++ [s.rowBuffer (d.rowAt (x.pos / max 1 d.len))] } } else s
    (true, s.readPass u (s.pieceReads d x))

/-- Issue the next piece of a slot: its coil records, the read of its source, delivery where the data is there (R186, R201,
R212). -/
def State.flIssue (s : State) (f k : Nat) : State :=
  match s.flSlot f k with
  | none => s
  | some d =>
    let n := s.pieceLen d d.pos
    let a := d.coil false
    let b := d.coil true
    let (sr, s) := if d.srcKind = 1 ∧ d.pos % s.recSize a.1 a.2 = 0 then
        (match s.coilClaim a.1 a.2 with | some (r, s) => (r, s) | none => (d.srcRec, s)) else (d.srcRec, s)
    let (dr, s) := if d.dstKind = 1 ∧ d.pos % s.recSize b.1 b.2 = 0 then
        (match s.coilReserve b.1 b.2 with | some (r, s) => (r, s) | none => (d.dstRec, s)) else (d.dstRec, s)
    let src := d.srcAt d.pos
    let rd := if d.srcKind = 1 then (if s.coilBusy a.1 a.2 sr then .busy else .done)
      else if d.mode ≠ 0 then .done else s.access (.unit (uFairlead f)) false src n
    let d' := { d with pos := d.pos + n, srcRec := sr, dstRec := dr }
    if rd ≠ .done then (s.setSlotD f k d').flSettle f k n 0 rd
    else
      let x : FlPiece := { pos := d.pos, len := n, srcRec := sr, dstRec := dr }
      let (ready, s) := s.pieceFetch (uFairlead f) d x
      let x := if ready then x else { x with lacks := [s.hbmLine src] }
      let s := s.setSlotD f k { d' with waits := d'.waits ++ [x] }
      if ready then s.deliverReady f k (d'.waits ++ [x]) else s

/-- The prefetcher requests the next line of the window of a slot (R213, R216). Under BYPASS the request is forwarded without
allocation, so nothing is pinned (R212). -/
def State.flAhead (s : State) (f k : Nat) : State :=
  match s.flSlot f k with
  | none => s
  | some d =>
    let p := s.ahead d
    let l := s.hbmLine (d.srcAt p)
    let (_, s) := s.scLookup l.1 l.2 0 d.pol (some (f, k))
    s.setSlotD f k { d with pre := p + s.lineLen d p }

/-- A slot that has its turn issues its line request: demand before prefetch (R216). -/
def State.flTurn (s : State) (f k : Nat) : State :=
  let s := s.setFl f { s.fl f with last := k }
  if s.flDemand f k then s.flIssue f k else s.flAhead f k

/-! ### Completion (R222, R223) -/

/-- The final status of a descriptor (R222). -/
def FlDesc.status (d : FlDesc) : Status :=
  match d.fail with
  | some st => st
  | none => if d.poison then flWorse d.tst .poisoned else d.tst

/-- A descriptor has nothing left to do. -/
def FlDesc.isOver (d : FlDesc) : Bool := d.fail.isSome || (d.deliver && d.settled == d.total)

/-- The bit of FL_ERR that a status sets: ABANDONED and TICK_OVERRUN come from a wait, not from the transport, and set none
(R225). -/
def flErrField : Status → Option Field
  | .badDescriptor => some FL_ERR.BAD_DESC
  | .outOfBounds => some FL_ERR.OOB
  | .shapeOverflow => some FL_ERR.SHAPE_OVF
  | .poisoned => some FL_ERR.POISON
  | .denied => some FL_ERR.DENIED
  | .done | .abandoned | .tickOverrun => none
  | _ => some FL_ERR.TRANSPORT

/-- Set the FL_ERR bit of a status. -/
def State.flErr (s : State) (f : Nat) (st : Status) (idx : Nat) : State :=
  match flErrField st with
  | some F => s.engineErr (.flErr f) F st (uFairlead f) idx
  | none => s

/-- The fairlead reports end-of-step once the batch with EndStep and every earlier one have completed (R205, R207): not
before the edge that starts the step. -/
def State.flEnd (s : State) (f : Nat) : State :=
  let x := s.fl f
  if x.ending && x.batch == [] && x.slots == [] && s.stepping (uFairlead f) then
    ((s.setFl f { x with ending := false, entry := 0 }).setF (.flStat f) FL_STAT.STEP_DONE 1).report (uFairlead f)
  else s

/-- A descriptor completes: record, DoneCleat, its slot is free (R223). -/
def State.flDone (s : State) (f k : Nat) : State :=
  match s.flSlot f k with
  | none => s
  | some d =>
    let st := d.status
    let m := s.f (.flRec f) FL_REC.MAST
    let a := actBase m + s.f (.flRec f) FL_REC.OFFSET + 16 * k
    let ok := d.g 0 9 9 == 1 && s.access (.unit (uFairlead f)) true a 16 == .done
    let fin : Finish := {
      key := .desc f k, unit := uFairlead f, mast := m, recAt := if ok then some a else none
      recBytes := [0] ++ leBytes 1 k ++ zeros 2 ++ leBytes 4 (s.unitTick (uFairlead f)) ++ leBytes 8 d.acc
      recSt := 0, cleat := if d.g 0 31 16 < 49152 then d.g 0 31 16 else 0xFFFF, endStep := false, descIdx := k }
    let s := s.finishOp fin st
    let s := if d.fail = some .unsupported then s else s.flErr f st k
    (s.freeSlot f k).flEnd f

/-! ### Owner events (R207, R224) -/

/-- A fairlead restarts its step list at an edge: a malformed entry has stopped it, or its step list ran out without EndStep and it
is idle (R207, R208). One that still executes its step list goes on. -/
def State.flRestarts (s : State) (f : Nat) : Bool :=
  let x := s.fl f
  x.stopped || (x.slots == [] && x.batch == [] && !x.ending && decide (s.f (.flStep f) FL_STEP.LENGTH ≤ x.entry))

/-- A slot waits on its cleat: its wait has not ended (R224, R225). -/
def State.flWaits (s : State) (f k : Nat) (d : FlDesc) : Bool :=
  !d.deliver && d.fail.isNone && d.g 0 63 48 != 0 && !s.clt.grants.any (fun g => g.key == .desc f k)

/-- A section edge reaches a fairlead: one that has reported begins its step with the batch it holds, one that is idle or
stopped restarts its step list. -/
def State.flEdge (s : State) (f : Nat) : State :=
  let rest := (s.fl f).stopped || (!s.bit (.flStat f) FL_STAT.STEP_DONE && s.flRestarts f)
  let s := if s.bit (.flStat f) FL_STAT.STEP_DONE then s.setF (.flStat f) FL_STAT.STEP_DONE 0 else s
  (if rest then s.setFl f { s.fl f with entry := 0, stopped := false, batch := [] } else s).flEnd f

/-- Release the pins of the streams of a fairlead that `p` names (R224). -/
def State.unpin (s : State) (f : Nat) (p : Nat → Bool) : State :=
  let un (w : ScLine) : ScLine := if w.pin.elim false (fun x => x.1 == f && p x.2) then { w with pin := none } else w
  s.hbm.slices.foldl (fun (s : State) (e : Nat × Slice) =>
    s.setSlice e.1 { e.2 with sets := e.2.sets.map (fun (y : Nat × ScSet) => (y.1, { y.2 with ways := y.2.ways.map un })) }) s

/-- Suspension: descriptors that wait on their cleat are withdrawn, to be installed again, and the pins of their streams
are released; those that deliver, or whose wait has ended, run on and keep theirs (R213, R224). -/
def State.flSuspend (s : State) (f : Nat) : State :=
  let x := s.fl f
  let back := x.slots.filter (fun e => s.flWaits f e.1 e.2)
  let s := s.setFl f { x with
    slots := x.slots.filter (fun e => !s.flWaits f e.1 e.2)
    batch := back.map (fun e => (wordBytes e.2.w, false, e.2.entry)) ++ x.batch }
  (back.foldl (fun s e => s.dropWait (.desc f e.1)) s).unpin f (fun k => back.any (fun e => e.1 == k))

/-- Abort: every descriptor ends, with no record and no signal (R224). -/
def State.flAbort (s : State) (f : Nat) : State :=
  let x := s.fl f
  let s := x.slots.foldl (fun (s : State) (e : Nat × FlDesc) => s.dropWait (.desc f e.1)) s
  (s.setFl f {}).unpin f (fun _ => true)

end Sys2Proof.Machine
end

