-- ==== Sys2Proof/Machine/Fairleads.lean ====
section
/-! DEFINITION. The commands of the fairleads and of the stream cache (07_fairleads.md). -/

namespace Sys2Proof.Machine

/-! ### Step lists and installation -/

/-- A malformed entry stops the step list for this step (R208). -/
def State.flMalformed (s : State) (f i : Nat) (st : Status) : State :=
  (s.setFl f { s.fl f with stopped := true }).flErr f st i

/-- The fairlead reads entry `i` of its step list and fetches its batch (R205, R206, R208, R484). -/
def State.flEntry (s : State) (f i : Nat) : State :=
  let a := actBase (s.flMast f) + s.f (.flStep f) FL_STEP.OFFSET + 16 * i
  let s := if s.access (.unit (uFairlead f)) false a 16 = .done then s.readPass (uFairlead f) [(a, 16)] else s
  let e := s.bytes a 16
  let batch := leAt e 0 8
  let count := leAt e 8 1
  let flags := leAt e 9 1
  let x := s.fl f
  let next (s : State) : State := (s.setFl f { s.fl f with entry := i + 1, ending := flags % 2 == 1 }).flEnd f
  if s.access (.unit (uFairlead f)) false a 16 ≠ .done then s.flMalformed f i .outOfBounds
  else if s.poisonedAt a 16 then next (s.flErr f .poisoned i)
  else if count = 0 ∨ 64 < count ∨ 2 ≤ flags ∨ 2 ^ 47 ≤ batch ∨ leAt e 10 6 ≠ 0 then s.flMalformed f i .badDescriptor
  else if batch % 64 ≠ 0 ∨ !s.actRange batch (64 * count) then
    s.flMalformed f i .outOfBounds
  else
    let s := s.readPass (uFairlead f) [(batch, 64 * count)]
    let ds := (List.range count).map (fun k => (s.bytes (batch + 64 * k) 64, s.poisonedAt (batch + 64 * k) 64, 64 * i + k))
    next (s.setFl f { x with batch := ds })

/-- FL_STEP_ENTRY: every descriptor of the batch before is installed; between steps only the first batch of the next step is
fetched (R206, R207). -/
def execFlStepEntry (f : Fin 16) (s : State) : Host.Outcome State Fault Refusal :=
  .next <|
  let x := s.fl f
  let held := !s.stepping (uFairlead f) && x.entry != 0
  if !s.flRuns f || x.stopped || x.ending || held || x.batch != [] ||
     decide (s.f (.flStep f) FL_STEP.LENGTH ≤ x.entry) then s
  else s.flEntry f x.entry

/-- FL_DESC_INSTALL: the first fetched descriptor takes its slot when the slot is free, and is checked (R206, R221, R484);
a batch fetched for the next step is held at the edge (R207). -/
def execFlDescInstall (f : Fin 16) (s : State) : Host.Outcome State Fault Refusal :=
  .next <|
  let x := s.fl f
  match x.batch with
  | [] => s
  | (b, p, n) :: l =>
    let d : FlDesc := { w := toWords b, fl := f, entry := n }
    let k := d.g 0 15 10
    if !s.flRuns f || x.stopped || !s.stepping (uFairlead f) || (s.flSlot f k).isSome then s
    else
      let s := if p then s else s.readPass (uFairlead f) (s.flListReads f d)
      let d := if p then { d with fail := some .poisoned } else s.flCheck f d
      (s.setFl f { x with batch := l }).setSlotD f k d

/-! ### Delivery -/

/-- The section of a fairlead suspends: a descriptor that waits no longer runs to completion (R224). -/
def State.flFinishes (s : State) (f : Nat) : Bool :=
  s.mastClocked (s.flMast f) &&
  (match s.mastEntry (s.flMast f) with
  | some i => s.f (.slSec i 0) SL_SEC.STATE == secSuspending && !s.aborting (s.f (.slSec i 0) SL_SEC.SECTION)
  | none => false)

/-- FL_DESC_DELIVER: the wait of an installed descriptor ends: delivery begins, or the status the wait ended with decides it
(R209, R302). -/
def execFlDescDeliver (f : Fin 16) (k : Fin 64) (s : State) : Host.Outcome State Fault Refusal :=
  .next <|
  match s.flSlot f k with
  | none => s
  | some d =>
    if d.deliver || d.fail.isSome || !(s.flRuns f || s.flFinishes f && !s.flWaits f k d) then s
    else
      match s.engineWait (.desc f k) (uFairlead f) (if d.g 0 63 48 = 0 then 0xFFFF else d.g 0 47 32) (d.g 0 63 48)
          (d.g 1 0 0 == 1) with
      | .wait s => s
      | .go st s => s.setSlotD f k (if st = .done then { d with deliver := true } else { d with fail := some st })

/-- FL_PREFETCH: it is the turn of a slot that has prefetch room and no demand: the prefetcher requests the next line of its
window, pinned until its delivery (R209, R213, R216). -/
def execFlPrefetch (f : Fin 16) (k : Fin 64) (s : State) : Host.Outcome State Fault Refusal :=
  .next <| if s.flNext f = some k.val ∧ !s.flDemand f k then s.flTurn f k else s

/-- FL_LINE_REQUEST: the next slot in turn issues a line request, demand before prefetch (R201, R216). -/
def execFlLineRequest (f : Fin 16) (s : State) : Host.Outcome State Fault Refusal :=
  .next <|
  match s.flNext f with
  | none => s
  | some k => s.flTurn f k

/-- FL_DESC_COMPLETE (R223). -/
def execFlDescComplete (f : Fin 16) (k : Fin 64) (s : State) : Host.Outcome State Fault Refusal :=
  .next <|
  match s.flSlot f k with
  | some d => if d.isOver then s.flDone f k else s
  | none => s

/-! ### The stream cache -/

/-- SC_LINE_REQUEST: a line request of any unit at a slice, with the outcome of the check of its 64 B unit `k`: 0 good,
1 corrected, 2 uncorrectable (R211, R212, R215). -/
def execScLineRequest (h : Fin 16) (line : BitVec 29) (kind pol : Fin 3) (k : Fin 4) (ecc : Fin 3) (s : State) :
    Host.Outcome State Fault Refusal :=
  .next <|
  if !s.fuses.stacks.contains h.val || s.hbmStatus != .done || decide (96 * 4194304 ≤ line.toNat) ||
     s.krDenied (s.lineAddr h line.toNat) 256 then s
  else
    let hit := ((s.slice h).find line.toNat).isSome
    let s := if hit then s.scError h line.toNat k ecc else s
    (s.scLookup h line.toNat kind pol none).2

/-- SC_FILL: the oldest line the controller has returned arrives at its slice, the 64 B of a sector whose poison bit is set in the
stack poisoned; waiting requests are forwarded (R214, R386). -/
def execScFill (h : Fin 16) (s : State) : Host.Outcome State Fault Refusal :=
  .next <|
  let x := s.slice h
  match x.fills with
  | [] => s
  | r :: l =>
    let x := { x with fills := l }
    let x := if r.kind = .fill then x.upd r.line (fun w => { w with filled := true }) else x
    let sick := (s.sickUnits.filter (fun e => e.2 == (h.val, r.line))).map (·.1)
    let s := if r.kind = .fill then { s with poison := sick.foldl setIns s.poison } else s
    (s.setSlice h x).lineArrived h r.line

/-- CLEAN (R215). -/
def execClean (h : Fin 16) (all : Bool) (s : State) : Host.Outcome State Fault Refusal := .next (s.scOp h 1 all)

/-- CLEAN_INV (R215). -/
def execCleanInv (h : Fin 16) (all : Bool) (s : State) : Host.Outcome State Fault Refusal := .next (s.scOp h 2 all)

end Sys2Proof.Machine
end

