-- ==== Sys2Proof/Machine/MbxOps.lean ====
section
/-! DEFINITION. The mailboxes: rings, messages, checks, resources, completions (15_crowsnest_mailboxes.md R396 to R410). -/

namespace Sys2Proof.Machine

/-- Count a dropped message or entry (R420). -/
def State.mbxDrop (s : State) : State := s.incSat .mbxDrop MBX_DROP.CNT

/-! ### Entries (R403, R409) -/

/-- A field of an entry: `n` bytes at offset `o`. -/
def MbxCmd.p (x : MbxCmd) (o n : Nat) : Nat := leAt x.entry o n
/-- Opcode. -/
def MbxCmd.op (x : MbxCmd) : Nat := x.p 0 1
/-- DataLen. -/
def MbxCmd.dataLen (x : MbxCmd) : Nat := x.p 8 4

/-- The bootstrap commands (R396). -/
def bootstrapOps : List Nat := [0x00, 0x01, 0x02, 0x10, 0x11, 0x12]

/-- The commands that take DATA_IN (R409). -/
def dataInOps : List Nat := [0x12, 0x13, 0x14, 0x20, 0x30, 0x79]

/-- The DATA_IN bytes a command waits for (R403, R408). -/
def MbxCmd.need (x : MbxCmd) : Nat := if dataInOps.contains x.op then x.dataLen else 0

/-- The parameters of a command: offset, size, least and greatest value (R409). None: the opcode is not in the table. -/
def mbxParams : Nat → Option (List (Nat × Nat × Nat × Nat))
  | 0x00 => some []
  | 0x01 => some []
  | 0x02 => some [(0x10, 2, 0, 0)]
  | 0x03 => some [(0x10, 4, 0, 0x1FFFF)]
  | 0x10 => some [(0x10, 1, 0, 2)]
  | 0x11 => some [(0x10, 64, 0, 2 ^ 512)]
  | 0x12 => some []
  | 0x13 => some [(0x10, 1, 0, 3), (0x11, 1, 0, 255)]
  | 0x14 => some []
  | 0x20 => some [(0x10, 4, 0, 2 ^ 32)]
  | 0x21 => some [(0x10, 4, 0, 2 ^ 32)]
  | 0x30 => some [(0x10, 8, 0, 2 ^ 64)]
  | 0x31 => some [(0x10, 1, 0, 255), (0x18, 8, 0, 2 ^ 64)]
  | 0x32 => some [(0x10, 1, 0, 255), (0x14, 4, 0, 2 ^ 32)]
  | 0x33 => some [(0x10, 1, 0, 255), (0x14, 4, 0, 2 ^ 32)]
  | 0x34 => some [(0x10, 1, 0, 255), (0x14, 4, 0, 2 ^ 32)]
  | 0x35 => some [(0x10, 1, 0, 255)]
  | 0x36 => some [(0x10, 1, 0, 255), (0x11, 1, 0, 255), (0x14, 4, 0, 2 ^ 32), (0x18, 8, 0, 2 ^ 64)]
  | 0x40 => some []
  | 0x41 => some [(0x10, 4, 0, 2 ^ 32), (0x18, 8, 0, 2 ^ 64)]
  | 0x42 => some [(0x10, 8, 0, 2 ^ 64), (0x18, 4, 1000, 10000000), (0x1C, 4, 0, 1000000), (0x20, 4, 0, 2 ^ 32),
      (0x24, 4, 0, 2 ^ 32), (0x28, 1, 0, 1), (0x29, 1, 0, 3)]
  | 0x43 => some [(0x10, 1, 0, 1)]
  | 0x44 => some [(0x10, 1, 0, 17), (0x11, 1, 0, 3), (0x12, 1, 0, 2), (0x13, 1, 1, 2), (0x14, 1, 0, 255)]
  | 0x50 => some [(0x10, 2, 0, 1023), (0x12, 1, 0, 7), (0x13, 1, 0, 1), (0x14, 4, 0, 0x1FFFF),
      (0x18, 8, 0, 2 ^ 47 - 1), (0x20, 8, 0, 2 ^ 40 - 1)]
  | 0x51 => some [(0x10, 2, 0, 1023)]
  | 0x60 => some [(0x10, 8, 0, 2 ^ 64), (0x18, 2, 1, 512)]
  | 0x61 => some [(0x10, 8, 0, 2 ^ 64), (0x18, 8, 0, 2 ^ 64), (0x20, 8, 0, 2 ^ 64)]
  | 0x70 => some [(0x10, 2, 0, 1)]
  | 0x71 => some [(0x10, 1, 0, 2), (0x11, 1, 0, 255)]
  | 0x72 => some [(0x10, 2, 450, 2600)]
  | 0x78 => some [(0x10, 1, 0, 2), (0x14, 4, 0, 2 ^ 32), (0x18, 4, 0, 2 ^ 32)]
  | 0x79 => some []
  | 0x80 => some [(0x10, 4, 0, 2 ^ 32), (0x14, 4, 1, 49152)]
  | 0x81 => some [(0x10, 1, 0, 3), (0x11, 1, 0, 8)]
  | 0x82 => some [(0x10, 8, 0, 2 ^ 64), (0x18, 4, 1, 0x4000000)]
  | 0x83 => some []
  | 0x90 => some [(0x10, 1, 2, 4), (0x11, 1, 0, 17)]
  | 0xF0 => some [(0x10, 1, 0, 1), (0x11, 1, 0, 255), (0x12, 1, 0, 1)]
  | _ => none

/-- The ranges of R409 that are not of one field. -/
def MbxCmd.extraOk (x : MbxCmd) : Bool :=
  match x.op with
  | 0x13 =>
    let i := x.p 0x11 1
    match x.p 0x10 1 with
    | 0 => decide (i < 64)
    | 1 => decide (i < 72) || i == 255
    | _ => decide (i < 4)
  | 0x20 => decide (1 ≤ x.dataLen) && decide (x.dataLen ≤ 0x400000)
  | 0x30 => x.p 0x10 8 % 4096 == 0
  | 0x42 => decide (x.p 0x1C 4 < x.p 0x18 4)
  | 0x90 => (match x.p 0x10 1 with
    | 2 => x.p 0x11 1 == 0
    | 3 => decide (x.p 0x11 1 < 8)
    | _ => true)
  | _ => true

/-- Reserved bytes of an entry that are not zero (R403, R409). -/
def MbxCmd.dirty (x : MbxCmd) (ps : List (Nat × Nat × Nat × Nat)) : Bool :=
  x.p 1 1 != 0 || x.p 12 4 != 0 ||
  (List.range 112).any (fun i => x.p (16 + i) 1 != 0 &&
    !ps.any (fun (q : Nat × Nat × Nat × Nat) => decide (q.1 ≤ 16 + i) && decide (16 + i < q.1 + q.2.1)))

/-- Steps 1 to 3 of R410. -/
def State.mbxCheck (s : State) (x : MbxCmd) : Status :=
  if x.host && !bootstrapOps.contains x.op && !(s.bit .cnStat CN_STAT.RECOVERY && (x.op == 0x20 || x.op == 0x21)) then
    .denied
  else match mbxParams x.op with
  | none => .unsupported
  | some ps =>
    if x.p 2 2 ≠ x.seq % 65536 || x.dirty ps ||
       ps.any (fun (q : Nat × Nat × Nat × Nat) => decide (x.p q.1 q.2.1 < q.2.2.1) || decide (q.2.2.2 < x.p q.1 q.2.1)) ||
       !x.extraOk then .badDescriptor
    else .done

/-! ### Resources (R407): masts 0 to 7, boot flash 8, security engine 9, tick configuration 10, window w as 16 + w -/

/-- Masts of a mask. -/
def maskMasts (k : Nat) : List Nat := (List.range 8).filter (bitN k)

/-- The masts a loaded section occupies. -/
def State.loadedMasts (s : State) (sec : Nat) : List Nat :=
  match s.secEntry sec with
  | some i => maskMasts (s.f (.slSec i 0) SL_SEC.MASTS)
  | none => []

/-- The masts of the header at an ImageAddr, none where it cannot be read (R407). -/
def State.imageMasts (s : State) (a : Nat) : List Nat :=
  if s.fuses.region a 512 = some .hbm ∧ s.access (.unit (uCn 0)) false a 512 = .done ∧ !s.poisonedAt a 512
  then maskMasts (s.num (a + 8) 1) else []

/-- What a command takes. -/
def State.mbxRes (s : State) (x : MbxCmd) : List Nat :=
  let o := x.op
  if o = 0x31 then s.imageMasts (x.p 0x18 8)
  else if o = 0x36 then s.loadedMasts (x.p 0x10 1) ++ s.imageMasts (x.p 0x18 8)
  else if 0x32 ≤ o ∧ o ≤ 0x35 then s.loadedMasts (x.p 0x10 1)
  else if o = 0x71 then maskMasts (x.p 0x11 1)
  else if o = 0x90 ∧ x.p 0x10 1 = 3 then [x.p 0x11 1]
  else if o = 0x20 ∨ o = 0x21 ∨ o = 0x79 then [8]
  else if 0x11 ≤ o ∧ o ≤ 0x14 then [9]
  else if 0x41 ≤ o ∧ o ≤ 0x43 then [10]
  else if o = 0x50 ∨ o = 0x51 then [16 + x.p 0x10 2]
  else []

/-! ### Messages -/

/-- The largest body of CONTROL on an origin (R398). -/
def State.bodyMax (s : State) (o : Origin) : Nat :=
  match o with
  | .conn c => (s.conn c).maxpay
  | .host _ _ _ => 1024

/-- Send a CPL message (R398 to R400). -/
def State.sendCpl (s : State) (o : Origin) (i ack : Nat) (entries : List (List Byte)) : State :=
  s.sendControl o 0x11 (mbxHeader i (s.mailbox i).epoch entries.length 0 (ack % 65536) 0 0 ++ entries.flatten)

/-- Send the DATA_OUT of a command (R405). -/
def State.sendOut (s : State) (o : Origin) (i seq : Nat) (d : List Byte) : State :=
  let x := s.mailbox i
  (pieces (s.bodyMax o - 16) (d.length + 1) 0 d).foldl (fun (s : State) (e : Nat × List Byte) =>
    s.sendControl o 0x13 (mbxHeader i x.epoch 0 seq (x.n % 65536) e.1 e.2.length ++ e.2)) s

/-! ### Data (R405) -/

/-- The bytes from 0 on that the pieces cover. -/
def coverFrom (l : List (Nat × List Byte)) : Nat → Nat → Nat
  | 0, r => r
  | k + 1, r => coverFrom l k (l.foldl (fun (m : Nat) (e : Nat × List Byte) =>
      if e.1 ≤ r then max m (e.1 + e.2.length) else m) r)

/-- How many of the `n` bytes at `a` lie in none of a list of ranges. -/
def uncovered : List (Nat × Nat) → Nat → Nat → Nat
  | [], _, n => n
  | (b, m) :: t, a, n =>
    if n = 0 then 0
    else uncovered t a (min (a + n) b - a) + uncovered t (max a (b + m)) (a + n - max a (b + m))

/-- The bytes that pieces of DATA_IN hold, each offset of a command once (R405): command Seq, offset, bytes. -/
def heldBytes : List (Nat × Nat × List Byte) → Nat
  | [] => 0
  | (q, o, d) :: t =>
    uncovered ((t.filter (fun e => e.1 == q)).map (fun e => (e.2.1, e.2.2.length))) o d.length + heldBytes t

/-- The pieces received for a command, in order of arrival. -/
def Mailbox.dataFor (x : Mailbox) (seq : Nat) : List (Nat × List Byte) :=
  (x.dataIn.filter (fun e => e.1 == seq)).map (fun e => (e.2.1, e.2.2))

/-- Every byte of DataLen has arrived (R408). -/
def Mailbox.dataFull (x : Mailbox) (c : MbxCmd) : Bool :=
  let l := x.dataFor c.seq
  decide (c.need ≤ coverFrom l (l.length + 1) 0)

/-- The DATA_IN of a command: later bytes replace earlier ones. -/
def Mailbox.data (x : Mailbox) (c : MbxCmd) : List Byte :=
  (x.dataFor c.seq).foldl (fun (d : List Byte) (e : Nat × List Byte) => (putAt d e.1 e.2).take c.need) (zeros c.need)

/-! ### Heads, resources, completion -/

/-- The command at the head of a mailbox. -/
def Mailbox.head (x : Mailbox) : Option MbxCmd := (x.ring.filter (fun c => c.op != 0xF0)).head?

/-- Update one accepted command of a mailbox. -/
def State.updCmd (s : State) (i seq : Nat) (f : MbxCmd → MbxCmd) : State :=
  let x := s.mailbox i
  s.setMailbox i { x with ring := updFirst (fun c => c.seq == seq) f x.ring }

/-- The result and completion entry of a command (R404). `t0`: the time Elapsed counts from. -/
def State.cplBytes (s : State) (c : MbxCmd) (st : Status) (outLen : Nat) (result : List Byte) : List Byte :=
  let t0 := c.start.getD (c.head.getD s.now)
  leBytes 2 c.seq ++ leBytes 1 st.code ++ leBytes 1 c.op ++ (c.entry.drop 4).take 4 ++ leBytes 4 outLen ++
  leBytes 4 (min ((s.now - t0) / 1000) (2 ^ 32 - 1)) ++ fit 48 result

/-- A command completes: its DATA_OUT and its completion are sent and held, its command slot and data are freed
(R400, R405). -/
def State.mbxFinish (s : State) (i : Nat) (c : MbxCmd) (st : Status) (result out : List Byte) (cut : Bool) : State :=
  let x := s.mailbox i
  let ovr := cut && !dataInOps.contains c.op && decide (c.dataLen < out.length)
  let st := if ovr then .shapeOverflow else st
  let result := if ovr then leBytes 8 out.length else result
  let out := if ovr then out.take c.dataLen else out
  let e := s.cplBytes c st out.length result
  let keep := if bootstrapOps.contains c.op then out else []
  let old := decide (((x.a + 65536 - c.seq % 65536) % 65536) % 65536 ≤ 256) && decide (x.a % 65536 ≠ c.seq % 65536)
  let s := s.setMailbox i { x with
    ring := x.ring.filter (fun q => q.seq != c.seq)
    cpls := if old then x.cpls else x.cpls ++ [(c.seq, e, keep)]
    dataIn := x.dataIn.filter (fun q => q.1 != c.seq) }
  match x.origin with
  | none => s
  | some o => (s.sendOut o i c.seq out).sendCpl o i x.n [e]

/-- The mailboxes in use, ascending. -/
def State.mbxList (s : State) : List Nat := s.mbx.foldl (fun l e => setIns l e.1) []

/-- Commands that reach the head of mailbox `i`: the ones that fail steps 1 to 3 of R410 complete at once. -/
def State.mbxSettle (s : State) (i : Nat) : Nat → State
  | 0 => s
  | k + 1 =>
    match (s.mailbox i).head with
    | none => s
    | some c =>
      if c.head.isSome then s
      else
        let c' := { c with head := some s.now, res := s.mbxRes c }
        let st := s.mbxCheck c
        if st = .done then s.updCmd i c.seq (fun _ => c')
        else State.mbxSettle (s.mbxFinish i c' st [] [] false) i k

/-- Heads that wait for resources obtain them in order of acceptance (R407). -/
def State.mbxGrant (s : State) : State :=
  let heads := s.mbxList.filterMap (fun i => ((s.mailbox i).head.bind (fun c => if c.head.isSome then some (i, c) else none)))
  let free (c : MbxCmd) : Bool := heads.all (fun (e : Nat × MbxCmd) =>
    e.2.acc == c.acc || !(e.2.granted || decide (e.2.acc < c.acc)) || !(e.2.res.any c.res.contains))
  heads.foldl (fun (s : State) (e : Nat × MbxCmd) =>
    if !e.2.granted && free e.2 then s.updCmd e.1 e.2.seq (fun c => { c with granted := true }) else s) s

/-- After any change of a mailbox: its next head is examined and resources move on. -/
def State.mbxPoll (s : State) (i : Nat) : State := (s.mbxSettle i ((s.mailbox i).ring.length + 1)).mbxGrant

/-- A command completes and the next one of its mailbox reaches the head (R406). -/
def State.mbxDone (s : State) (i : Nat) (c : MbxCmd) (st : Status) (result out : List Byte := []) : State :=
  (s.mbxFinish i c st result out true).mbxPoll i

/-! ### Received messages -/

/-- A completion is sent again, with the DATA_OUT of a bootstrap command (R400, R401). -/
def State.resend (s : State) (o : Origin) (i : Nat) (e : Nat × List Byte × List Byte) : State :=
  (s.sendOut o i e.1 e.2.2).sendCpl o i (s.mailbox i).n [e.2.1]

/-- The DATA_IN bytes of IMAGE_STAGE go to the staging range as they arrive (R405). -/
def State.stageBytes (s : State) (c : MbxCmd) (o : Nat) (d : List Byte) : State :=
  let a := c.p 0x10 8
  if c.op = 0x30 ∧ s.mbxCheck c = .done ∧ s.fuses.region a c.dataLen = some .hbm ∧
      s.access (.unit (uCn 0)) true a c.dataLen = .done then s.landBytes s.dev (uCn 0) (a + o) (d.map (fun b => (b, false)))
  else s

/-- The entries of a CMD message in ascending order; answers whether one was accepted or a completion sent again (R400). -/
def State.mbxEntries (s : State) (o : Origin) (host : Bool) (i : Nat) : List (List Byte) → Nat → Bool → State × Bool
  | [], _, hit => (s, hit)
  | e :: l, q, hit =>
    let x := s.mailbox i
    let q := q % 65536
    let back := (x.n + 65536 - q) % 65536
    if back = 0 ∧ (x.n + 65536 - x.a) % 65536 < 256 then
      let c : MbxCmd := { seq := q, entry := e, host := host, acc := s.net.nextId }
      let keep (p : Nat × Nat × List Byte) : Bool := p.1 != q || decide (p.2.1 < c.need)
      let ovr (p : Nat × Nat × List Byte) : Bool := p.1 == q && decide (c.need < p.2.1 + p.2.2.length)
      let s := s.newId.setMailbox i { x with
        n := (x.n + 1) % 65536, ring := x.ring ++ [c], dataIn := x.dataIn.filter keep }
      let s := (x.dataIn.filter ovr).foldl (fun s _ => s.mbxDrop) s
      let s := ((s.mailbox i).dataFor q).foldl (fun (s : State) (e : Nat × List Byte) =>
        s.stageBytes c e.1 (e.2.take (c.need - e.1))) s
      State.mbxEntries s o host i l (q + 1) true
    else if 1 ≤ back ∧ back ≤ 256 then
      match x.cpls.find? (fun c => c.1 == q) with
      | some c => State.mbxEntries (s.resend o i c) o host i l (q + 1) true
      | none => State.mbxEntries s o host i l (q + 1) hit
    else State.mbxEntries s.mbxDrop o host i l (q + 1) hit

/-- Cut a body into entries of 128 B. -/
def cutEntries : Nat → List Byte → List (List Byte)
  | 0, _ => []
  | k + 1, l => l.take 128 :: cutEntries k (l.drop 128)

/-- A CMD message reaches crowsnest (R396 to R402). -/
def State.mbxCmdMsg (s : State) (o : Origin) (host : Bool) (b : List Byte) : State :=
  let i := leAt b 0 1
  let n := leAt b 2 1
  if !s.mailboxReady || decide (31 < n) || b.length != 16 + 128 * n || decide (s.bodyMax o < b.length) ||
     decide (63 < i) || (host && i != 0) then s.mbxDrop
  else
    let x := s.mailbox i
    if leAt b 1 1 ≠ x.epoch then s.sendCpl o i 0 []
    else
      let ack := leAt b 6 2
      let d := (ack + 65536 - x.a) % 65536
      let ok := decide (d ≤ (x.n + 65536 - x.a) % 65536)
      let x' := { x with origin := some o, hostOrigin := if host then some o else x.hostOrigin
                         a := if ok then ack else x.a,
                         cpls := if ok then x.cpls.filter (fun c => decide (d ≤ (c.1 + 65536 - x.a) % 65536)) else x.cpls }
      let (s, hit) := (s.setMailbox i x').mbxEntries o host i (cutEntries n (b.drop 16)) (leAt b 4 2) false
      let s := if hit then s else s.sendCpl o i (s.mailbox i).n []
      s.mbxPoll i

/-- A DATA_IN message reaches crowsnest (R398, R405). -/
def State.mbxDataMsg (s : State) (o : Origin) (host : Bool) (b : List Byte) : State :=
  let i := leAt b 0 1
  let d := b.drop 16
  if !s.mailboxReady || b.length != 16 + leAt b 12 4 || decide (b.length < 16) || decide (s.bodyMax o < b.length) ||
     decide (63 < i) || (host && i != 0) then s.mbxDrop
  else
    let x := s.mailbox i
    let q := leAt b 4 2
    let off := leAt b 8 4
    if leAt b 1 1 ≠ x.epoch then s.sendCpl o i 0 []
    else match x.ring.find? (fun c => c.seq == q) with
    | some c =>
      if c.start.isSome ∨ c.need = 0 ∨ c.need ≤ off then s.mbxDrop
      else
        let d' := d.take (c.need - off)
        let s := if d'.length < d.length then s.mbxDrop else s
        let s := s.setMailbox i { x with dataIn := x.dataIn ++ [(q, off, d')] }
        (s.updCmd i q (fun c => { c with lastData := some s.now })).stageBytes c off d'
    | none =>
      let early := x.dataIn.filter (fun e => !x.ring.any (fun c => c.seq == e.1))
      if (q + 65536 - x.n) % 65536 < 32768 ∧ heldBytes (early ++ [(q, off, d)]) ≤ 65536 then
        s.setMailbox i { x with dataIn := x.dataIn ++ [(q, off, d)] }
      else s.mbxDrop

/-- A CONTROL message of a mailbox subtype reaches crowsnest; a reserved or device-to-host subtype is dropped
(R398, R548). -/
def State.mbxMsg (s : State) (o : Origin) (host : Bool) (sub : Nat) (b : List Byte) : State :=
  if sub = 0x10 then s.mbxCmdMsg o host b
  else if sub = 0x12 then s.mbxDataMsg o host b
  else s.mbxDrop

/-! ### Running a command -/

/-- The command with opcode `op` that can start at mailbox `i`: it is at the head, has its resources and its data
(R408). -/
def State.mbxReady (s : State) (i op : Nat) : Option MbxCmd :=
  match (s.mailbox i).head with
  | some c => if c.op = op ∧ c.granted ∧ c.start.isNone ∧ (s.mailbox i).dataFull c then some c else none
  | none => none

/-- Run the head command of mailbox `i`: `body` gives its status, result, output and the state after it. -/
def State.mbxRun (s : State) (i op : Nat) (body : MbxCmd → List Byte → State → Status × List Byte × List Byte × State) :
    State :=
  match s.mbxReady i op with
  | none => s
  | some c =>
    let d := (s.mailbox i).data c
    let c := { c with start := some s.now }
    let (st, res, out, s) := body c d (s.updCmd i c.seq (fun _ => c))
    s.mbxDone i c st res out

/-- Start the head command of mailbox `i`: `body` answers its status where it completes at once, none where it is under way
until an event ends it. -/
def State.mbxBegin (s : State) (i op : Nat) (body : MbxCmd → State → Option Status × State) : State :=
  match s.mbxReady i op with
  | none => s
  | some c =>
    let c := { c with start := some s.now, running := true }
    let (st, s) := body c (s.updCmd i c.seq (fun _ => c))
    match st with
    | none => s
    | some st => s.mbxDone i c st

/-- A command under way ends. -/
def State.mbxEnd (s : State) (i seq : Nat) (st : Status) (result : List Byte := []) : State :=
  match (s.mailbox i).ring.find? (fun c => c.seq == seq && c.running) with
  | none => s
  | some c => s.mbxDone i c st result

/-- The commands under way with an opcode: mailbox and command. -/
def State.mbxUnderWay (s : State) (op : Nat) : List (Nat × MbxCmd) :=
  s.mbxList.flatMap (fun i => ((s.mailbox i).ring.filter (fun c => c.running && c.op == op)).map (fun c => (i, c)))

end Sys2Proof.Machine
end

