-- ==== Sys2Proof/Machine/Cleats.lean ====
section
/-! DEFINITION. The cleat operations (11_cleats_and_step_tick.md R293 to R305). -/

namespace Sys2Proof.Machine

/-- The request of a cleat-operation header. -/
def CltHdr.req (h : CltHdr) (op : Nat) : CltReq where
  op := op
  index := h.index.toNat
  chk := h.chk
  epoch := h.epoch.toNat

/-- An operation crosses the mesh in its flits (R28): one that an uncorrectable flit carried has no effect and returns POISONED
(R483; DEDUCED, log entry 84). -/
def State.cltFlits (s : State) (h : CltHdr) (k : State → State) : State :=
  let s := s.meshErrors h.mesh
  let c := s.cleat h.index.toNat
  if meshBad h.mesh then s.cltReturn .plain h.issuer.toNat (s.cltResult c c.value .poisoned c.err) else k s

/-- READ (R295, R303): returns Value and claims nothing. -/
def execCleatRead (h : CltHdr) (s : State) : Host.Outcome State Fault Refusal :=
  .next (s.cltFlits h (fun s => s.cltOp (CltHdr.req h 0) h.issuer.toNat .plain false)).shroudPass

/-- WAIT_GE (R295, R298, R301): the result returns at once, or the wait is pending. -/
def execCleatWaitGe (h : CltHdr) (n : BitVec 31) (consume : Bool) (tmo : BitVec 20) (s : State) :
    Host.Outcome State Fault Refusal :=
  .next (s.cltFlits h (fun s => s.cltOp { CltHdr.req h 1 with operand := n.toNat, consume := consume, tmo := tmo.toNat }
    h.issuer.toNat .plain false)).shroudPass

/-- ADD (R295, R296). -/
def execCleatAdd (h : CltHdr) (n : BitVec 31) (st : Byte) (s : State) : Host.Outcome State Fault Refusal :=
  .next (s.cltFlits h (fun s => s.cltSend { CltHdr.req h 2 with operand := n.toNat, st := Status.ofCode st.toNat }
    h.issuer.toNat .plain false)).shroudPass

/-- SUB (R295, R296). -/
def execCleatSub (h : CltHdr) (n : BitVec 31) (st : Byte) (s : State) : Host.Outcome State Fault Refusal :=
  .next (s.cltFlits h (fun s => s.cltSend { CltHdr.req h 3 with operand := n.toNat, st := Status.ofCode st.toNat }
    h.issuer.toNat .plain false)).shroudPass

/-- TAKE (R295, R296). -/
def execCleatTake (h : CltHdr) (n : BitVec 31) (st : Byte) (s : State) : Host.Outcome State Fault Refusal :=
  .next (s.cltFlits h (fun s => s.cltSend { CltHdr.req h 4 with operand := n.toNat, st := Status.ofCode st.toNat }
    h.issuer.toNat .plain false)).shroudPass

/-- SET (R295, R303). -/
def execCleatSet (h : CltHdr) (v : BitVec 31) (renew : Bool) (s : State) : Host.Outcome State Fault Refusal :=
  .next (s.cltFlits h (fun s => s.cltSend { CltHdr.req h 5 with operand := v.toNat, renew := renew }
    h.issuer.toNat .plain false)).shroudPass

/-- The oldest wait held at the input of a segment enters the table while an entry is free, and is evaluated
(R298, R301). -/
def execCleatWaitEnter (seg : Fin 9) (s : State) : Host.Outcome State Fault Refusal :=
  .next <|
  if 2048 ≤ s.segWaits seg then s
  else match s.clt.waits.find? (fun w => w.held && cleatSeg w.cleat == seg.val) with
  | none => s
  | some w =>
    let ws := updFirst (fun x => x == w) (fun x => { x with held := false }) s.clt.waits
    State.wake { s with clt := { s.clt with waits := ws } } w.cleat

/-- A wait of an operation record reaches its TmoUs unsatisfied and completes with TIMEOUT; nothing is consumed
(R298, R301). -/
def execCleatWaitTimeout (issuer : BitVec 33) (index : BitVec 16) (s : State) : Host.Outcome State Fault Refusal :=
  .next <|
  match s.clt.waits.find? (fun w => w.unit == issuer.toNat && w.cleat == index.toNat && w.tmo != 0 &&
      s.passed w.start (1000 * w.tmo)) with
  | none => s
  | some w =>
    let c := s.cleat w.cleat
    let s := { s with clt := { s.clt with waits := s.clt.waits.erase w } }
    s.cltReturn w.who w.unit (s.cltResult c c.value .timeout c.err)

/-- What a failed proxy operation leaves: PROXY in TP_ERR, or TAKE's status at its issuer (R357). `pu` is the port of the
connection involved, 0xFFFF without one (R490). -/
def State.proxyFail (s : State) (p : ProxyOp) (pu : Nat) (st : Status) : State :=
  let s := if p.op = 4 then s else s.tpErr TP_ERR.PROXY pu
  s.proxyReturn p (s.cltResult {} 0 st .done)

/-- The proxy operation that has left under an OpTag returns with `k`, and its entry is given up (R357). -/
def State.proxyTake (s : State) (tag : Nat) (k : State → ProxyOp → State) : State :=
  match s.net.proxyOut.find? (fun e => e.1 == tag) with
  | none => s
  | some e => k { s with net := { s.net with proxyOut := s.net.proxyOut.erase e } } e.2.2

/-- The oldest operation on a proxy cleat leaves as a CLEAT_OP request, once every write that its issuer sent to other devices
before it is acknowledged (R357, R299). Its OpTag is the number of the remote operation. -/
def execProxyCleatOp (i : Fin 1024) (s : State) : Host.Outcome State Fault Refusal :=
  .next <|
  match s.net.proxies.find? (fun p => p.idx == i.val) with
  | none => s
  | some p =>
    if p.unit / 65536 = s.dev ∧ s.remoteOwes (p.unit % 65536) p.upto then s
    else
      let s := { s with net := { s.net with proxies := s.net.proxies.erase p } }
      let r := Reg.pxy i
      let dev := s.f r PXY.DEV
      if !s.devAssigned then s.proxyFail p 0xFFFF .denied
      else match s.connFor dev (p.unit % 65536) with
      | none => s.proxyFail p 0xFFFF .peerLost
      | some c =>
        let w0 := p.op + s.f r PXY.CHK * 16 + (if p.renew then 32 else 0) + s.f r PXY.EPOCH * 64 +
          s.f r PXY.INDEX * 65536 + p.st.code * 2 ^ 32
        let rec16 := leBytes 8 w0 ++ leBytes 8 p.operand
        let tag := s.net.nextId % 2 ^ 32
        let s := { s with net := { s.net with proxyOut := s.net.proxyOut ++ [(tag, c, p)] } }
        s.startOp c tCleatOp (p.unit % 65536) false [(rec16 ++ leBytes 4 tag ++ leBytes 1 0 ++ zeros 11, [])] (.proxy tag)

end Sys2Proof.Machine
end

