-- ==== Sys2Proof/Machine/FabNet.lean ====
section
/-! DEFINITION. The movement of flits in the sheave fabric, and the records of coils that it writes and reads
(04_sheave_fabric.md R108 to R117, R132). -/

namespace Sys2Proof.Machine

/-- Bytes of a record of a network (R115). -/
def fabRec (net : Nat) (e : FabEntry) : List Byte :=
  match net with
  | 0 => leBytes 64 e.v
  | 1 => leBytes 4 e.v ++ leBytes 1 (e.tag % 16) ++ leBytes 1 (if e.p then 1 else 0) ++ zeros 2
  | _ => leBytes 1 (e.v % 2 + 2 * (e.tag % 128)) ++ zeros 4 ++ leBytes 1 (if e.p then 1 else 0) ++ zeros 2

/-- The entry a record holds (R115). -/
def State.fabEntry (s : State) (net a : Nat) : FabEntry :=
  match net with
  | 0 => { v := s.num a 64, p := s.poisonedAt a 64 }
  | 1 => { v := s.num a 4, tag := s.num (a + 4) 1 % 16, p := bitN (s.num (a + 5) 1) 0 || s.poisonedAt a 8 }
  | _ => { v := s.num a 1 % 2, tag := s.num a 1 / 2, p := bitN (s.num (a + 5) 1) 0 || s.poisonedAt a 8 }

/-- Write an entry to the next record of a coil: reserve, write, commit. The coil has room. A record in tile slots that are held
is not written and stays reserved (R186); the fabric has no status to report it with (log entry 77). -/
def State.coilWrite (s : State) (m k net : Nat) (e : FabEntry) : State :=
  match s.coilReserve m k with
  | none => s
  | some (n, s) =>
    if s.coilBusy m k n then s
    else (s.storeBy (uSheave (256 * m)) (s.recAddr m k n) (fabRec net e) (net == 0 && e.p)).coilCommit m k n

/-- Read the next record of a coil: claim, read, release. A record in tile slots that are held gives no entry and stays
claimed (R186). -/
def State.coilRead (s : State) (m k net : Nat) : Option (Option FabEntry × State) :=
  match s.coilClaim m k with
  | none => none
  | some (n, s) =>
    if s.coilBusy m k n then some (none, s)
    else
      let a := s.recAddr m k n
      some (some (s.fabEntry net a), (s.readPass (uSheave (256 * m)) [(a, s.recSize m k)]).coilRelease m k n)

/-- A pool queue, with its spill coil if it has one, takes one more entry (R132). -/
def State.queueRoom (s : State) (m n q : Nat) : Bool :=
  match s.spillOf m n q with
  | none => (s.sheave m n).inFree q
  | some k => (s.coilIdle m k && (s.sheave m n).inFree q) || s.coilTurn m k (uSheave (256 * m + n)) false

/-- An entry enters a pool queue or its spill coil. -/
def State.eject (s : State) (m n q : Nat) (e : FabEntry) : State :=
  let put (s : State) : State := s.setSheave m n ((s.sheave m n).pushIn q { e with at_ := (s.fabric m).stamp })
  match s.spillOf m n q with
  | none => put s
  | some k => if s.coilIdle m k && (s.sheave m n).inFree q then put s else s.coilWrite m k (iqNet q) e

/-- Every target of a flit has room (R111). -/
def State.flitRoom (s : State) (m : Nat) (x : Flit) : Bool :=
  (x.dirs != [] || x.queues != []) &&
  x.dirs.all (fun d => match s.linkTo m x.node d x.net x.lane with
    | some k => decide ((s.laneBuf m k).length < 2)
    | none => false) &&
  x.queues.all (fun q => s.queueRoom m x.node q)

/-- A flit moves to all of its targets (R111). -/
def State.flitMove (s : State) (m : Nat) (x : Flit) : State :=
  let s := match x.at_ with
    | .lane k => s.setLane m k ((s.laneBuf m k).drop 1)
    | .out n q _ => let y := s.sheave m n; s.setSheave m n { y with oq := Tbl.set y.oq q ((y.outq q).drop 1) }
  let s := x.dirs.foldl (fun s d => match s.linkTo m x.node d x.net x.lane with
    | some k =>
      let s := s.setLane m k (s.laneBuf m k ++ [x.e])
      s.setFabric m { s.fabric m with rr := Tbl.set (s.fabric m).rr (x.node, x.net, d) x.lane }
    | none => s) s
  (x.queues.foldl (fun s q => s.eject m x.node q x.e) s).fabMoved m

/-- How far a lane is from the lane after the one a link served last (R110). -/
def State.rrDist (s : State) (m : Nat) (l : Nat × Nat × Nat) (lane : Nat) : Nat :=
  (lane + 7 - Tbl.get 7 (s.fabric m).rr l) % 8

/-- The links a flit moves over. -/
def Flit.links (x : Flit) : List (Nat × Nat × Nat) := x.dirs.map (fun d => (x.node, x.net, d))

/-- The flit that a link serves among some that could move: round robin over the lanes (R110). -/
def State.linkPick (s : State) (m : Nat) (c : List Flit) (l : Nat × Nat × Nat) : Option Flit :=
  (List.range 8).findSome? (fun k => c.find? (fun x => x.links.contains l && s.rrDist m l x.lane == k))

/-- The flits of a mast that have room at every target. -/
def State.ready (s : State) (m : Nat) : List Flit := (s.flits m).filter (fun x => s.flitRoom m x)

/-- Flits move in turn, each while its links are free and it has room; answers the links used. -/
def State.flitTurn (s : State) (m : Nat) : List Flit → List (Nat × Nat × Nat) → State × List (Nat × Nat × Nat)
  | [], used => (s, used)
  | x :: l, used =>
    if x.links.any used.contains || !s.flitRoom m x then State.flitTurn s m l used
    else State.flitTurn (s.flitMove m x) m l (used ++ x.links)

/-- Entries that enter queues from here on do so in a later cycle than those before (R130). -/
def State.newStamp (s : State) (m : Nat) : State := s.setFabric m { s.fabric m with stamp := (s.fabric m).stamp + 1 }

/-- One round of a mast's networks: each link moves at most one flit, every movement judged on the state before the round
(R110, R112). A flit that every link of its own serves first moves; then a link whose first choice waits for another link
serves what it can, link by link, so that none stands idle (the spec does not say how links agree on a flit with several:
DESIGN CHOICE, log entry 77). A flit for a queue with a spill coil moves by SPILL_ARRIVAL. -/
def State.fabRound (s : State) (m : Nat) : State :=
  if !s.fabClocked m then s else
  let s := s.newStamp m
  let c := (s.ready m).filter (fun x => x.queues.all (fun q => (s.spillOf m x.node q).isNone))
  let agreed := c.filter (fun x => x.links.all (fun l => s.linkPick m c l == some x))
  let rest := (c.flatMap Flit.links).eraseDups.flatMap (fun l =>
    (List.range 8).flatMap (fun k => c.filter (fun x => x.links.contains l && s.rrDist m l x.lane == k)))
  let r := s.flitTurn m agreed []
  (r.1.flitTurn m (rest.filter (fun x => !agreed.contains x)).eraseDups r.2).1

/-- Some queue, lane buffer or spill coil of a mast is non-empty (R134, R136). -/
def State.fabHolds (s : State) (m : Nat) : Bool :=
  let x := s.fabric m
  x.lanes.any (fun y => y.2 != []) ||
  x.sheaves.any (fun y => y.2.iq.any (fun z => z.2 != []) || y.2.oq.any (fun z => z.2 != [])) ||
  (List.range 64).any (fun e => s.bit (.fabSpill m e) FAB_SPILL.VALID &&
    s.coilCount m (s.f (.fabSpill m e) FAB_SPILL.COIL) != 0)

/-- One reference period of a mast's fabric: a round, and the quiet and stall counts in core cycles of the gear in force (R5,
R31, R136, R138; log entry 1). -/
def State.fabClock (s : State) (m : Nat) : State :=
  let x := s.fabric m
  if (x == {} && !s.bit (.fabCtrl m) FAB_CTRL.DRAIN) || !s.fabClocked m then s else
  let cy := s.cyclesNow s.coreRate
  let s := s.fabRound m
  let x := s.fabric m
  let holds := s.fabHolds m
  s.setFabric m { x with moved := false, quiet := if x.moved then 0 else x.quiet + cy,
                         stall := if x.moved || !holds then 0 else x.stall + cy }

end Sys2Proof.Machine
end

