-- ==== Sys2Proof/Machine/Fabric.lean ====
section
/-! DEFINITION. The commands of the sheave fabric but for the halyard source and the watchdog: firings, sheave
instructions, edge ports, spill, stop and drain (04_sheave_fabric.md). A command names a mast and a sheave, an edge port or
a spill entry; it stands for that unit acting in a cycle, and where the unit would not act it changes nothing (log entry
6). -/

namespace Sys2Proof.Machine

/-- A COMPUTE slot fires (R128). -/
def execFireCompute (m : Fin 8) (n : Fin 256) (s : State) : Host.Outcome State Fault Refusal := .next (s.fire m n 0)
/-- A SWITCH slot fires (R130). -/
def execSwitch (m : Fin 8) (n : Fin 256) (s : State) : Host.Outcome State Fault Refusal := .next (s.fire m n 1)
/-- A SELECT slot fires (R130). -/
def execSelect (m : Fin 8) (n : Fin 256) (s : State) : Host.Outcome State Fault Refusal := .next (s.fire m n 2)
/-- A MERGE slot fires (R130). -/
def execMerge (m : Fin 8) (n : Fin 256) (s : State) : Host.Outcome State Fault Refusal := .next (s.fire m n 3)

/-- NOP: the sheave issues it as the next instruction of its firing (R124, R129). -/
def execShvNop (m : Fin 8) (n : Fin 256) (s : State) : Host.Outcome State Fault Refusal := .next (s.shvIssue m n 0x00)

/-- MOV: the sheave issues it as the next instruction of its firing (R124, R129). -/
def execShvMov (m : Fin 8) (n : Fin 256) (s : State) : Host.Outcome State Fault Refusal := .next (s.shvIssue m n 0x01)

/-- ADD: the sheave issues it as the next instruction of its firing (R124, R129). -/
def execShvAdd (m : Fin 8) (n : Fin 256) (s : State) : Host.Outcome State Fault Refusal := .next (s.shvIssue m n 0x02)

/-- SUB: the sheave issues it as the next instruction of its firing (R124, R129). -/
def execShvSub (m : Fin 8) (n : Fin 256) (s : State) : Host.Outcome State Fault Refusal := .next (s.shvIssue m n 0x03)

/-- MUL: the sheave issues it as the next instruction of its firing (R124, R129). -/
def execShvMul (m : Fin 8) (n : Fin 256) (s : State) : Host.Outcome State Fault Refusal := .next (s.shvIssue m n 0x04)

/-- FMA: the sheave issues it as the next instruction of its firing (R124, R129). -/
def execShvFma (m : Fin 8) (n : Fin 256) (s : State) : Host.Outcome State Fault Refusal := .next (s.shvIssue m n 0x05)

/-- MAX: the sheave issues it as the next instruction of its firing (R124, R129). -/
def execShvMax (m : Fin 8) (n : Fin 256) (s : State) : Host.Outcome State Fault Refusal := .next (s.shvIssue m n 0x06)

/-- MIN: the sheave issues it as the next instruction of its firing (R124, R129). -/
def execShvMin (m : Fin 8) (n : Fin 256) (s : State) : Host.Outcome State Fault Refusal := .next (s.shvIssue m n 0x07)

/-- ABS: the sheave issues it as the next instruction of its firing (R124, R129). -/
def execShvAbs (m : Fin 8) (n : Fin 256) (s : State) : Host.Outcome State Fault Refusal := .next (s.shvIssue m n 0x08)

/-- NEG: the sheave issues it as the next instruction of its firing (R124, R129). -/
def execShvNeg (m : Fin 8) (n : Fin 256) (s : State) : Host.Outcome State Fault Refusal := .next (s.shvIssue m n 0x09)

/-- AND: the sheave issues it as the next instruction of its firing (R124, R129). -/
def execShvAnd (m : Fin 8) (n : Fin 256) (s : State) : Host.Outcome State Fault Refusal := .next (s.shvIssue m n 0x0A)

/-- OR: the sheave issues it as the next instruction of its firing (R124, R129). -/
def execShvOr (m : Fin 8) (n : Fin 256) (s : State) : Host.Outcome State Fault Refusal := .next (s.shvIssue m n 0x0B)

/-- XOR: the sheave issues it as the next instruction of its firing (R124, R129). -/
def execShvXor (m : Fin 8) (n : Fin 256) (s : State) : Host.Outcome State Fault Refusal := .next (s.shvIssue m n 0x0C)

/-- SHL: the sheave issues it as the next instruction of its firing (R124, R129). -/
def execShvShl (m : Fin 8) (n : Fin 256) (s : State) : Host.Outcome State Fault Refusal := .next (s.shvIssue m n 0x0D)

/-- SHR: the sheave issues it as the next instruction of its firing (R124, R129). -/
def execShvShr (m : Fin 8) (n : Fin 256) (s : State) : Host.Outcome State Fault Refusal := .next (s.shvIssue m n 0x0E)

/-- ASR: the sheave issues it as the next instruction of its firing (R124, R129). -/
def execShvAsr (m : Fin 8) (n : Fin 256) (s : State) : Host.Outcome State Fault Refusal := .next (s.shvIssue m n 0x0F)

/-- CMPEQ: the sheave issues it as the next instruction of its firing (R124, R129). -/
def execShvCmpeq (m : Fin 8) (n : Fin 256) (s : State) : Host.Outcome State Fault Refusal := .next (s.shvIssue m n 0x10)

/-- CMPLT: the sheave issues it as the next instruction of its firing (R124, R129). -/
def execShvCmplt (m : Fin 8) (n : Fin 256) (s : State) : Host.Outcome State Fault Refusal := .next (s.shvIssue m n 0x11)

/-- CMPLE: the sheave issues it as the next instruction of its firing (R124, R129). -/
def execShvCmple (m : Fin 8) (n : Fin 256) (s : State) : Host.Outcome State Fault Refusal := .next (s.shvIssue m n 0x12)

/-- SEL: the sheave issues it as the next instruction of its firing (R124, R129). -/
def execShvSel (m : Fin 8) (n : Fin 256) (s : State) : Host.Outcome State Fault Refusal := .next (s.shvIssue m n 0x13)

/-- CVT: the sheave issues it as the next instruction of its firing (R124, R129). -/
def execShvCvt (m : Fin 8) (n : Fin 256) (s : State) : Host.Outcome State Fault Refusal := .next (s.shvIssue m n 0x14)

/-- RSUM: the sheave issues it as the next instruction of its firing (R124, R129). -/
def execShvRsum (m : Fin 8) (n : Fin 256) (s : State) : Host.Outcome State Fault Refusal := .next (s.shvIssue m n 0x15)

/-- RMAX: the sheave issues it as the next instruction of its firing (R124, R129). -/
def execShvRmax (m : Fin 8) (n : Fin 256) (s : State) : Host.Outcome State Fault Refusal := .next (s.shvIssue m n 0x16)

/-- LANE: the sheave issues it as the next instruction of its firing (R124, R129). -/
def execLane (m : Fin 8) (n : Fin 256) (s : State) : Host.Outcome State Fault Refusal := .next (s.shvIssue m n 0x17)

/-- INS: the sheave issues it as the next instruction of its firing (R124, R129). -/
def execIns (m : Fin 8) (n : Fin 256) (s : State) : Host.Outcome State Fault Refusal := .next (s.shvIssue m n 0x18)

/-- TAG: the sheave issues it as the next instruction of its firing (R124, R129). -/
def execTag (m : Fin 8) (n : Fin 256) (s : State) : Host.Outcome State Fault Refusal := .next (s.shvIssue m n 0x19)

/-! ### Edge ports -/

/-- A source port injects an entry. -/
def State.inject (s : State) (m p : Nat) (e : FabEntry) : State :=
  let k := s.injectKey m p
  (s.setLane m k (s.laneBuf m k ++ [e])).fabMoved m

/-- SRC_COIL reads the next committed record of its coil and injects it, up to STEP_COUNT entries a step (R114, R116). -/
def execSrcCoil (m : Fin 8) (p : Fin 64) (s : State) : Host.Outcome State Fault Refusal :=
  .next <|
  let x := s.eport m p
  let n := s.edge m p FAB_EDGE.STEP_COUNT
  let k := s.edge m p FAB_EDGE.COIL
  if !s.edgeIs m p 0 || !s.srcRuns m || !s.injectRoom m p || (n != 0 && decide (n ≤ x.inj)) || !s.coilTurn m k (uEdge m p) true then s
  else match s.coilRead m k (s.edge m p FAB_EDGE.NET) with
  | none => s
  | some (none, s) => s
  | some (some e, s) => (s.setEport m p { x with inj := x.inj + 1 }).inject m p e

/-- SRC_TICK injects the token of the oldest edge that it has not injected (R114, R116). -/
def execSrcTick (m : Fin 8) (p : Fin 64) (s : State) : Host.Outcome State Fault Refusal :=
  .next <|
  let x := s.eport m p
  match x.ticks with
  | [] => s
  | t :: l =>
    if !s.edgeIs m p 1 || !s.srcRuns m || !s.injectRoom m p then s
    else (s.setEport m p { x with ticks := l }).inject m p { v := 1, tag := t }

/-- The entry at a sink port. -/
def State.sinkHead (s : State) (m p : Nat) : Option (FabEntry × State) :=
  let k : LaneKey := { node := 256 + p, net := s.edge m p FAB_EDGE.NET, side := 0, lane := s.edge m p FAB_EDGE.LANE }
  match s.laneBuf m k with
  | [] => none
  | e :: l => some (e, (s.setLane m k l).fabMoved m)

/-- SNK_COIL writes the arriving entry as a record and signals its cleat every EVERY records; a full coil withholds
credit (R114 to R116). -/
def execSnkCoil (m : Fin 8) (p : Fin 64) (s : State) : Host.Outcome State Fault Refusal :=
  .next <|
  let k := s.edge m p FAB_EDGE.COIL
  if !s.edgeIs m p 4 || !s.coilTurn m k (uEdge m p) false then s
  else match s.sinkHead m p with
  | none => s
  | some (e, s) =>
    let x := s.eport m p
    let busy := s.resvBusy m k
    let s := s.coilWrite m k (s.edge m p FAB_EDGE.NET) e
    let ev := s.edge m p FAB_EDGE.EVERY
    if busy then s else
    let s := s.setEport m p { x with recs := x.recs + 1 }
    if ev ≠ 0 ∧ (x.recs + 1) % ev = 0 then s.signal (uEdge m p) (s.edge m p FAB_EDGE.CLEAT) .done else s

/-- SNK_CLEAT performs ADD 1 for the entry and discards it; the signal carries DONE (R114, R296). -/
def execSnkCleat (m : Fin 8) (p : Fin 64) (s : State) : Host.Outcome State Fault Refusal :=
  .next <|
  if !s.edgeIs m p 5 then s
  else match s.sinkHead m p with
  | none => s
  | some (_, s) => s.signal (uEdge m p) (s.edge m p FAB_EDGE.CLEAT) .done

/-- The SNK_STEP ports of a mast. -/
def State.stepPorts (s : State) (m : Nat) : List Nat := (List.range 64).filter (fun p => s.edgeIs m p 6)

/-- The fabric reports end-of-step once each of its SNK_STEP ports has its STEP_COUNT entries (R117). -/
def State.fabStep (s : State) (m : Nat) : State :=
  let ps := s.stepPorts m
  if ps = [] ∨ s.bit (.fabStat m) FAB_STAT.STEP_DONE then s
  else if ps.all (fun p => decide (s.edge m p FAB_EDGE.STEP_COUNT ≤ (s.eport m p).cnt)) then
    let s := ps.foldl (fun s p =>
      let x := s.eport m p
      s.setEport m p { x with cnt := x.cnt - s.edge m p FAB_EDGE.STEP_COUNT }) s
    (s.setF (.fabStat m) FAB_STAT.STEP_DONE 1).report (uSheave (256 * m))
  else s

/-- SNK_STEP counts the entry toward end-of-step (R117). -/
def execSnkStep (m : Fin 8) (p : Fin 64) (s : State) : Host.Outcome State Fault Refusal :=
  .next <|
  if !s.edgeIs m p 6 then s
  else match s.sinkHead m p with
  | none => s
  | some (_, s) =>
    let x := s.eport m p
    (s.setEport m p { x with cnt := x.cnt + 1 }).fabStep m

/-! ### Spill (R132) -/

/-- An entry for a queue with a spill coil arrives: to the queue, to the coil, or it is held in its lane buffer. A flit that
also moves over links does so when each of them serves it (R110, R132). -/
def execSpillArrival (m : Fin 8) (e : Fin 64) (s : State) : Host.Outcome State Fault Refusal :=
  .next <|
  let n := s.f (.fabSpill m e) FAB_SPILL.SHEAVE
  let q := s.f (.fabSpill m e) FAB_SPILL.QUEUE
  if !s.fabClocked m || !s.bit (.fabSpill m e) FAB_SPILL.VALID then s
  else match (s.ready m).find? (fun x => x.node == n && x.queues.contains q &&
      x.links.all (fun l => s.linkPick m (s.ready m) l == some x)) with
  | none => s
  | some x => (s.newStamp m).flitMove m x

/-- A record of a spill coil returns to its queue. -/
def execSpillRefill (m : Fin 8) (e : Fin 64) (s : State) : Host.Outcome State Fault Refusal :=
  .next <|
  let n := s.f (.fabSpill m e) FAB_SPILL.SHEAVE
  let q := s.f (.fabSpill m e) FAB_SPILL.QUEUE
  let k := s.f (.fabSpill m e) FAB_SPILL.COIL
  if !s.fabClocked m || !s.bit (.fabSpill m e) FAB_SPILL.VALID || !(s.sheave m n).inFree q ||
     !s.coilTurn m k (uSheave (256 * m + n)) true then s
  else match s.coilRead m k (iqNet q) with
  | none => s
  | some (none, s) => s
  | some (some x, s) =>
    let s := s.newStamp m
    (s.setSheave m n ((s.sheave m n).pushIn q { x with at_ := (s.fabric m).stamp })).fabMoved m

/-! ### Stop and drain (R138) -/

/-- STOP_SRC: every source port stops; entries in flight have ended with their commands. -/
def State.stopSrc (s : State) (m : Nat) : State :=
  (s.setF (.fabCtrl m) FAB_CTRL.STOP_SRC 1).setF (.fabStat m) FAB_STAT.SRC_STOPPED 1

/-- The drain of a mast begins: sources stop, the quiet count starts at 0. -/
def State.startDrain (s : State) (m : Nat) : State :=
  let s := (s.stopSrc m).setF (.fabCtrl m) FAB_CTRL.DRAIN 1
  let s := (s.setF (.fabStat m) FAB_STAT.DRAIN_DONE 0).setF (.fabStat m) FAB_STAT.RESIDUE 0
  s.setFabric m { s.fabric m with quiet := 0 }

/-- STOP_SRC of FAB_CTRL. -/
def execStopSrc (m : Fin 8) (s : State) : Host.Outcome State Fault Refusal := .next (s.stopSrc m)

/-- DRAIN of FAB_CTRL. -/
def execDrain (m : Fin 8) (s : State) : Host.Outcome State Fault Refusal := .next (s.startDrain m)

/-- A mast's drain is over once 256 cycles have passed in which nothing moved. -/
def State.drainEnd (s : State) (m : Nat) : State :=
  if s.bit (.fabCtrl m) FAB_CTRL.DRAIN && !s.bit (.fabStat m) FAB_STAT.DRAIN_DONE && decide (256 ≤ (s.fabric m).quiet) &&
     !(s.fabric m).moved then
    (s.setF (.fabStat m) FAB_STAT.DRAIN_DONE 1).setF (.fabStat m) FAB_STAT.RESIDUE (if s.fabHolds m then 1 else 0)
  else s

/-- The drain ends after 256 quiet cycles; RESIDUE says that entries remain. -/
def execDrainDone (m : Fin 8) (s : State) : Host.Outcome State Fault Refusal := .next (s.drainEnd m)

end Sys2Proof.Machine
end

