-- ==== Sys2Proof/Machine/HalOps.lean ====
section
/-! DEFINITION. The shared operations of halyards and downhauls: windows, rings, landing, notifications, reservations
and sends (10_halyards.md, 13_ghenko_ethernet.md R354, R355). -/

namespace Sys2Proof.Machine

/-! ### Windows (R355) -/

/-- Steps 1 to 4 of R355 for `n` bytes at `a` named with a handle by device `dev`, but for the region; `perm` is the
permission field. -/
def State.windowCheck (s : State) (handle a n dev : Nat) (perm : Field) : Status :=
  let i := handle % 1024
  let w (F : Field) : Nat := s.f (.win i F.w) F
  if w WIN.OPEN = 0 then .windowClosed
  else if w WIN.EPOCH ≠ handle / 1024 % 64 then .staleEpoch
  else if a < w WIN.BASE ∨ w WIN.BASE + w WIN.LENGTH < a + n then .outOfBounds
  else if w perm = 0 ∨ (w WIN.ANYPEER = 0 ∧ w WIN.PEER ≠ dev) then .denied
  else .done

/-! ### Channels -/

/-- The endpoints (R271): 128 for each of the eight masts and for the device level. -/
def halEps : Nat := 1152

/-- Channel of endpoint `e`. -/
def State.chan (s : State) (e : Nat) : HalChan := Tbl.get { gen0 := Tbl.get 0 s.hal.gens (e / 128) } s.hal.chans e
/-- Store a channel. -/
def State.setChan (s : State) (e : Nat) (x : HalChan) : State :=
  { s with hal := { s.hal with chans := Tbl.set s.hal.chans e x } }
/-- A field of HAL_CFG of endpoint `e`. -/
def State.hcfg (s : State) (e : Nat) (F : Field) : Nat := s.f (.halCfg (e / 128) (e % 128)) F
/-- The endpoint is a halyard. -/
def isHalyard (e : Nat) : Bool := decide (e < halEps) && decide (e % 128 < 64)

/-- Reservation slot `i` of a channel. -/
def HalChan.slot (x : HalChan) (i : Nat) : Resv := Tbl.get { gen := x.gen0 } x.resv i
/-- Store a reservation slot. -/
def HalChan.setSlot (x : HalChan) (i : Nat) (r : Resv) : HalChan := { x with resv := Tbl.set x.resv i r }
/-- Reservations held (HAL_QSTAT.RESV). -/
def HalChan.held (x : HalChan) : Nat := (x.resv.filter (fun e => e.2.held)).length
/-- The reply of reservation `i` has landed: its payload is wholly accepted, and its notification enters (R275). -/
def HalChan.replied (x : HalChan) (i : Nat) : Bool :=
  x.landing.any (fun l => l.ready && l.note.reply && l.note.slot == i && l.note.gen == (x.slot i).gen)
/-- Ring bytes that reservations hold. -/
def HalChan.shares (x : HalChan) : Nat := x.resv.foldl (fun (n : Nat) (e : Nat × Resv) => if e.2.held then n + e.2.ring else n) 0

/-- The 16 bytes of a notification (R274). -/
def Note.bytes (x : Note) : List Byte :=
  leBytes 8 (x.addr % 2 ^ 47 + x.len % 512 * 2 ^ 47 + (if x.reply then 2 ^ 56 else 0) + (if x.poison then 2 ^ 57 else 0)) ++
  leBytes 2 x.unit ++ leBytes 3 (x.dev % 2 ^ 17) ++ leBytes 1 x.st.code ++ leBytes 1 (x.slot % 64) ++ leBytes 1 (x.gen % 16)

/-- Put a notification at the end of a channel's queue (R275). -/
def State.pushNote (s : State) (e : Nat) (x : Note) : State :=
  let c := s.chan e
  s.setChan e { c with queue := c.queue ++ [x] }

/-! ### Rings (R278 to R280) -/

/-- A field of HAL_PTR. -/
def State.hptr (s : State) (e : Nat) (F : Field) : Nat := s.f (.halPtr (e / 128) (e % 128)) F
/-- Store a field of HAL_PTR. -/
def State.setHptr (s : State) (e : Nat) (F : Field) (v : Nat) : State := s.setF (.halPtr (e / 128) (e % 128)) F v
/-- A field of HAL_RING. -/
def State.hring (s : State) (e : Nat) (F : Field) : Nat := s.f (.halRing (e / 128) (e % 128) F.w) F

/-- Free bytes of a ring (R278). -/
def State.ringFree (s : State) (e : Nat) : Nat :=
  s.hring e HAL_RING.SIZE * 16 - (s.hptr e HAL_PTR.TAIL + 2 ^ 32 - s.hptr e HAL_PTR.HEAD) % 2 ^ 32

/-- Place `n` bytes in a ring of which `other` bytes are held by other reservations (R278, R279, R284): the landing
address and the value TAIL takes. -/
def State.ringPlace (s : State) (e n other : Nat) : Option (Nat × Nat × State) :=
  let size := s.hring e HAL_RING.SIZE * 16
  let base := s.hring e HAL_RING.BASE
  let tail := s.hptr e HAL_PTR.TAIL
  let off := if size = 0 then 0 else tail % size
  let room := size - off
  let free := s.ringFree e - other
  if n ≤ room then
    if free < n then none
    else
      let t := (tail + n) % 2 ^ 32
      some (base + off, t, s)
  else if free < room + n then none
  else
    let t := (tail + room + n) % 2 ^ 32
    let s := s.store (base + off) (List.replicate 8 0xFF ++ leBytes 4 room ++ zeros 4) false
    some (base, t, s)

/-- Release the `n` oldest popped messages of a channel (R280). -/
def State.halRelease (s : State) (e n : Nat) : State :=
  let c := s.chan e
  match (c.popped.take n).getLast? with
  | none => s
  | some p => (s.setHptr e HAL_PTR.HEAD p).setChan e { c with popped := c.popped.drop n }

/-- Pop the head notification of a channel (R276, R280). -/
def State.halPop (s : State) (e : Nat) : Option (Note × State) :=
  match (s.chan e).queue with
  | [] => none
  | x :: l =>
    let s := s.setChan e { s.chan e with queue := l }
    let s := if s.hcfg e HAL_CFG.RELMODE = 0 then s.halRelease e (s.chan e).popped.length else s
    match x.stop with
    | none => some (x, s)
    | some p => some (x, s.setChan e { s.chan e with popped := (s.chan e).popped ++ [p] })

/-! ### Reservations (R284 to R286, R289) -/

/-- A reservation ends without a reply: the generation increments, and with a status a notification of Len 0 takes its
queue entry. -/
def State.resvFail (s : State) (e i : Nat) (st : Option Status) : State :=
  let c := s.chan e
  let r := c.slot i
  if !r.held then s else
  let s := s.setChan e (c.setSlot i { gen := (r.gen + 1) % 16 })
  match st with
  | none => s
  | some st =>
    let s := s.pushNote e {
      reply := true, unit := uHal (r.dstEp / 128) (r.dstEp % 128), dev := r.dstDev, st := st, slot := i, gen := r.gen }
    if st = .peerLost then s.engineErr (.halErr (e / 128)) HAL_ERR.PEER_LOST st (uHal (e / 128) (e % 128)) i else s

/-- The reservation a reply names is held with that generation. -/
def State.resvLive (s : State) (e i gen : Nat) : Bool := ((s.chan e).slot i).held && ((s.chan e).slot i).gen == gen

/-- A reply without a payload reaches reservation `i` of downhaul `e` of this device: the empty reply of an AUTOACK
halyard (DONE, R286) or a failure (R285, R290). A stale one is dropped. -/
def State.emptyReply (s : State) (e i gen fromEp dev : Nat) (st : Status) : State :=
  if !s.resvLive e i gen then s.incSat (.halDrop (e / 128)) HAL_DROP.STALE
  else if st ≠ .done then s.resvFail e i (some st)
  else
    let c := s.chan e
    (s.setChan e (c.setSlot i { c.slot i with held := false })).pushNote e {
      reply := true, unit := uHal (fromEp / 128) (fromEp % 128), dev := dev, slot := i, gen := gen }

/-- Bytes of a HALYARD or DOWNHAUL subheader (13_ghenko_ethernet.md R353). -/
def halSub (land total frag handle dst src slot gen mask : Nat) : List Byte :=
  leBytes 8 (land % 2 ^ 47 + total % 512 * 2 ^ 47 + frag % 256 * 2 ^ 56) ++ leBytes 2 handle ++ leBytes 2 dst ++
  leBytes 2 src ++ leBytes 1 (slot % 64) ++ leBytes 1 (gen % 16) ++ leBytes 8 mask

/-- An endpoint of this device sends a reply without a payload to a requester (R286, R290). A DOWNHAUL frame has no status
field: the Handle of one without payload holds the status code, which for DONE is the 0 of a reply that carries no handle
(DESIGN CHOICE, log entry 21). -/
def State.sendEmptyReply (s : State) (fromEp dev e i gen : Nat) (st : Status) : State :=
  if dev = s.dev then s.emptyReply e i gen fromEp dev st
  else match s.connFor dev (uHal (fromEp / 128) (fromEp % 128)) with
    | none => s
    | some c =>
      s.startOp c tDownhaul (uHal (fromEp / 128) (fromEp % 128)) false
        [(halSub 0 0 0 st.code e fromEp i gen 0, [])] (.reply (fromEp / 128) (fromEp % 128))

/-! ### Landing (R272, R273, R285) -/

/-- A message as its destination sees it. -/
structure HalMsg where
  reply : Bool
  /-- destination endpoint, sender's endpoint (ReplyEp) and device -/
  dst : Nat
  src : Nat
  dev : Nat
  slot : Nat
  gen : Nat
  land : Nat
  handle : Nat
  /-- granules -/
  total : Nat
  deriving DecidableEq, Repr

/-- A refusal is counted at the endpoint's owner; it ends the reservation of a reply (R273, R285). -/
def State.halRefuse (s : State) (m : HalMsg) (st : Status) : Status × Option Note × State :=
  let s := if st = .full then s else s.incSat (.halDrop (m.dst / 128)) HAL_DROP.REFUSED
  (st, none, if m.reply && s.resvLive m.dst m.slot m.gen then s.resvFail m.dst m.slot (some st) else s)

/-- The landing area of an address-mode channel lies where R273 allows it. -/
def State.landArea (s : State) (e a n : Nat) : Bool :=
  match s.fuses.region a n with
  | some (.act m) => e / 128 == 8 || e / 128 == m
  | some .sram => e / 128 == 8
  | _ => false

/-- The check of a message against its channel's landing mode (R273, R355). In ring mode the landing address is ignored, and with
it step 3 of R355 (DEDUCED, log entry 22). -/
def State.landCheck (s : State) (m : HalMsg) : Status :=
  let n := m.total * 16
  if s.hcfg m.dst HAL_CFG.RING = 1 then
    let w := s.hring m.dst HAL_RING.WINDOW
    let i := w % 1024
    let x (F : Field) : Nat := s.f (.win i F.w) F
    if m.handle % 1024 ≠ i then .denied
    else if x WIN.OPEN = 0 then .windowClosed
    else if m.handle ≠ w ∨ x WIN.EPOCH ≠ m.handle / 1024 % 64 then .staleEpoch
    else if x WIN.PH = 0 ∨ (x WIN.ANYPEER = 0 ∧ x WIN.PEER ≠ m.dev) then .denied
    else .done
  else
    let st := s.windowCheck m.handle m.land n m.dev WIN.PH
    if st ≠ .done then st
    else if s.landArea m.dst m.land n then .done else .denied

/-- Whether a message is accepted, with the notification it will enter (R272, R273, R285, R287): its queue entry is
reserved by its place in the landing list, and in ring mode it is placed; of a reply's share of the ring what TAIL has not
taken stays held until its notification enters (R284). The direction is checked before VALID, and a
reply's reservation before the landing checks (DEDUCED, log entry 22). -/
def State.halDecide (s : State) (m : HalMsg) : Status × Option Note × State :=
  if !s.devAssigned then
    (.denied, none, if halEps ≤ m.dst then s else s.incSat (.halDrop (m.dst / 128)) HAL_DROP.REFUSED)
  else if halEps ≤ m.dst then (.badDescriptor, none, s)
  else if m.reply == isHalyard m.dst then
    (.badDescriptor, none, s.incSat (.halDrop (m.dst / 128)) HAL_DROP.REFUSED)
  else if m.reply && !s.resvLive m.dst m.slot m.gen then
    (.staleEpoch, none, s.incSat (.halDrop (m.dst / 128)) HAL_DROP.STALE)
  else
    let c := s.chan m.dst
    let r := c.slot m.slot
    let note : Note := {
      addr := m.land, len := m.total, reply := m.reply, unit := uHal (m.src / 128) (m.src % 128), dev := m.dev
      slot := m.slot, gen := m.gen }
    if s.hcfg m.dst HAL_CFG.VALID = 0 then s.halRefuse m .denied
    else if m.total = 0 ∨ s.hcfg m.dst HAL_CFG.MAXLEN < m.total ∨ (m.reply ∧ r.maxReply < m.total) then
      s.halRefuse m .badDescriptor
    else
      let st := s.landCheck m
      if st ≠ .done then s.halRefuse m st
      else if !m.reply && decide (64 ≤ c.queue.length + c.landing.length) then s.halRefuse m .full
      else if s.hcfg m.dst HAL_CFG.RING = 0 then (.done, some note, s)
      else match s.ringPlace m.dst (m.total * 16) (c.shares - (if m.reply then r.ring else 0)) with
        | none => s.halRefuse m .full
        | some (a, p, s) =>
          let used := (p + 2 ^ 32 - s.hptr m.dst HAL_PTR.TAIL) % 2 ^ 32
          let s := s.setHptr m.dst HAL_PTR.TAIL p
          let s := if !m.reply then s else
            s.setChan m.dst ((s.chan m.dst).setSlot m.slot { r with ring := r.ring - used })
          (.done, some { note with addr := a, stop := some p }, s)

/-- Add a message to the landing list of its channel. -/
def State.addLanding (s : State) (e : Nat) (l : HalLand) : State :=
  let c := s.chan e
  s.setChan e { c with landing := c.landing ++ [l] }

/-! ### Sends (R282, R287, R291) -/

/-- The send in progress at a slot. -/
def State.job (s : State) (o i : Nat) : Option SendJob := (s.hal.jobs.find? (fun e => e.1 == (o, i))).map (·.2)
/-- Store the send of a slot. -/
def State.setJob (s : State) (o i : Nat) (x : SendJob) : State :=
  { s with hal := { s.hal with jobs := Tbl.set s.hal.jobs (o, i) x } }
/-- Remove the send of a slot. -/
def State.delJob (s : State) (o i : Nat) : State :=
  { s with hal := { s.hal with jobs := s.hal.jobs.filter (fun e => e.1 != (o, i)) } }

/-- The sticky bit of HAL_ERR that a status sets (R292). -/
def halErrField : Status → Option Field
  | .full => some HAL_ERR.FULL
  | .windowClosed | .staleEpoch | .outOfBounds | .denied | .abandoned => some HAL_ERR.REFUSED
  | .badDescriptor | .shapeOverflow => some HAL_ERR.BAD_DESC
  | .peerLost => some HAL_ERR.PEER_LOST
  | .poisoned => some HAL_ERR.POISON
  | _ => none

/-- A send completes: slot state, error summary, DoneCleat (R282, R291, R292). -/
def State.sendDone (s : State) (o i cleat : Nat) (st : Status) : State :=
  let s := (s.setF (.halSstat o i) HAL_SSTAT.LAST_STATUS st.code).setF (.halSstat o i) HAL_SSTAT.BUSY 0
  let s := (s.setF (.halSstat o i) HAL_SSTAT.RETRYING 0).incWrap (.halSstat o i) HAL_SSTAT.SENDS
  let s := match halErrField st with
    | some F => s.engineErr (.halErr o) F st (uHal o i) i
    | none => s
  s.signal (uHal o i) cleat st

/-- A send in progress completes: a request that fails frees its reservation, one that is DONE starts the count of RLIMIT
(R284, R289). A POISONED request has a status other than DONE (log entry 23). -/
def State.sendEnd (s : State) (o i : Nat) (st : Status) : State :=
  match s.job o i with
  | none => s
  | some x =>
    let e := 128 * o + 64 + x.chan
    let s := s.delJob o i
    let s := if x.reply || !x.resv || !s.resvLive e x.rslot x.rgen then s
      else if st ≠ .done then s.resvFail e x.rslot none
      else s.setChan e ((s.chan e).setSlot x.rslot { (s.chan e).slot x.rslot with edges := some 0 })
    s.sendDone o i x.cleat st

/-- A request is refused with FULL: it is resent after 256 ns, the wait doubling up to 4,096 ns (R287). -/
def State.sendRetry (s : State) (o i : Nat) : State :=
  match s.job o i with
  | none => s
  | some x =>
    let w := if x.wait = 0 then 256 else min (2 * x.wait) 4096
    (s.setJob o i { x with phase := .retry, wait := w, due := s.now + w }).setF (.halSstat o i) HAL_SSTAT.RETRYING 1

/-- A delivery has been answered with a status (R287). -/
def State.sendAnswer (s : State) (o i : Nat) (st : Status) : State :=
  match s.job o i with
  | none => s
  | some x =>
    if st = .full ∧ !x.reply then s.sendRetry o i
    else if st = .done ∧ x.data.any (·.2) then s.sendEnd o i .poisoned
    else s.sendEnd o i st

/-- A unit of the mast of a send slot is late in a step that is marked and has not issued its report: the halyard payloads of the
mast carry poison (R318; log entry 62). -/
def State.halLate (s : State) (o : Nat) : Bool :=
  match s.mastSection o with
  | some sec => (s.stepOf sec).opens.any (fun x => x.mark && x.missing.any (fun r => s.workMast r == some o && s.marked r))
  | none => false

/-- The payload of a send with the poison of its bytes (R291, R318). -/
def State.sendData (s : State) (o a n : Nat) : List (Byte × Bool) :=
  (List.range n).map (fun k => (s.byte (a + k), s.poisonedAt (a + k) 1 || s.halLate o))

/-- Deliver a message: to a channel of this device, or as frames on a connection (R282, R354). -/
def State.sendDeliver (s : State) (o i : Nat) : State :=
  match s.job o i with
  | none => s
  | some x =>
    let s := s.readPass (uHal o i) [(x.addr, x.len)]
    let x := { x with data := s.sendData o x.addr x.len }
    if x.dev = s.dev then s.setJob o i { x with phase := .travel }
    else if !s.devAssigned then s.sendEnd o i .denied
    else match s.connFor x.dev (uHal o i) with
      | none => s.sendEnd o i .peerLost
      | some c =>
        let mask := runMask x.data
        let fr := (pieces (s.conn c).maxpay (x.len + 1) 0 (x.data.map (·.1))).map (fun (e : Nat × List Byte) =>
          (halSub x.land (x.len / 16) (e.1 / 16) x.handle x.ep x.src x.rslot x.rgen
            (maskPiece mask e.1 e.2.length), e.2))
        (s.setJob o i { x with phase := .remote }).startOp c (if x.reply then tDownhaul else tHalyard) (uHal o i) true fr
          (.send o i)

/-- A free reservation for a request of slot `i` of owner `o` at downhaul `e` (R284). -/
def State.resvFree (s : State) (e maxReply : Nat) : Option Nat :=
  let c := s.chan e
  let room := s.hcfg e HAL_CFG.RING == 0 || decide (c.shares + 2 * maxReply * 16 ≤ s.ringFree e)
  if decide (c.queue.length + c.held < 64) && room then (List.range 64).find? (fun k => !(c.slot k).held) else none

/-- A request takes its reply reservation and leaves, or waits for one (R284). -/
def State.sendReserve (s : State) (o i : Nat) : State :=
  match s.job o i with
  | none => s
  | some x =>
    let e := 128 * o + 64 + x.chan
    match s.resvFree e x.maxReply with
    | none => s
    | some k =>
      let c := s.chan e
      let g := (c.slot k).gen
      let s := s.setChan e (c.setSlot k {
        gen := g, held := true, maxReply := x.maxReply, dstDev := x.dev, dstEp := x.ep
        ring := if s.hcfg e HAL_CFG.RING = 1 then 2 * x.maxReply * 16 else 0 })
      (s.setJob o i { x with rslot := k, rgen := g, resv := true }).sendDeliver o i

/-- A descriptor or payload address lies in activation memory. -/
def State.inAct (s : State) (a : Nat) : Bool :=
  match s.fuses.region a 1 with
  | some (.act _) => true
  | _ => false

/-- Step 0 of R291: where the descriptor of owner `o` may lie. -/
def State.descCheck (s : State) (o a : Nat) : Status :=
  if a % 64 ≠ 0 then .badDescriptor
  else match s.fuses.region a 64 with
    | none => .outOfBounds
    | some (.act m) => if o = 8 ∨ o = m then .done else .denied
    | some .sram => if o = 8 then .done else .denied
    | some _ => .denied

/-- Step 1 of R291. -/
def State.sendBad (s : State) (o : Nat) (d : List Byte) : Bool :=
  let w (i hi lo : Nat) : Nat := fld (leAt d (8 * i) 8) hi lo
  let req := w 0 1 0 == 0
  decide (1 < w 0 1 0) || w 0 15 3 != 0 || w 0 63 56 != 0 || w 1 63 47 != 0 || w 2 63 29 != 0 || w 3 63 63 != 0 ||
  w 4 63 47 != 0 || w 5 63 47 != 0 || w 6 63 0 != 0 || w 7 63 0 != 0 ||
  w 0 40 32 == 0 || decide (256 < w 0 40 32) || !isHalyard (w 2 28 17) ||
  (req && (w 0 49 41 == 0 || decide (256 < w 0 49 41) || s.hcfg (128 * o + 64 + w 0 55 50) HAL_CFG.VALID == 0)) ||
  (decide (49152 ≤ w 0 31 16) && w 0 31 16 != 0xFFFF) ||
  !s.inAct (w 1 46 0) || (w 0 2 2 == 1 && !s.inAct (w 4 46 0)) || (!req && !s.inAct (w 5 46 0))

/-- Steps 1 to 3 of R291, with the payload length in bytes. A poisoned length word is poisoned control data (R484). -/
def State.sendCheck (s : State) (o : Nat) (d : List Byte) : Status × Nat :=
  let w (i hi lo : Nat) : Nat := fld (leAt d (8 * i) 8) hi lo
  if s.sendBad o d then (.badDescriptor, 0)
  else
    let len := w 0 40 32 * 16
    let n := if w 0 2 2 = 1 then s.num (w 4 46 0) 4 else len
    if w 0 2 2 = 1 ∧ s.poisonedAt (w 4 46 0) 4 then (.poisoned, 0)
    else if n = 0 ∨ n % 16 ≠ 0 then (.badDescriptor, 0)
    else if len < n then (.shapeOverflow, 0)
    else match s.fuses.region (w 1 46 0) n with
      | some (.act _) => (.done, n)
      | _ => (.outOfBounds, 0)

/-- The send timeout in ns (R287). -/
def State.halTmo (s : State) (o : Nat) : Nat :=
  let us := s.f (.halTmo o) HAL_TMO.US
  if us = 0 then s.f .stkPeriod STK_PERIOD.P else us * 1000

/-- What a descriptor's checks read: of one that is well formed and names its length indirectly, the length (R179, R190,
R282). -/
def State.sendCount (s : State) (o i : Nat) (d : List Byte) : State :=
  if fld (leAt d 0 8) 2 2 = 1 ∧ !s.sendBad o d then s.readPass (uHal o i) [(fld (leAt d 32 8) 46 0, 4)] else s

/-- Start a reply (R283, R285): it goes to the reservation named by the notification record at NoteAddr. -/
def State.startReply (s : State) (o i noteAt : Nat) (x : SendJob) : State :=
  let s := s.readPass (uHal o i) [(noteAt, 16)]
  let r := s.bytes noteAt 16
  let unit := leAt r 8 2
  let dev := leAt r 10 3 % 2 ^ 17
  let gen := leAt r 15 1 % 16
  let slot := leAt r 14 1 % 64
  let s := s.setJob o i x
  if s.poisonedAt noteAt 16 then s.sendEnd o i .poisoned
  else if unit / 4096 ≠ 5 ∨ halEps ≤ unit % 4096 then s.sendEnd o i .badDescriptor
  else if leAt r 13 1 ≠ 0 then
    (s.sendEmptyReply x.ep dev (unit % 4096) slot gen .badDescriptor).sendEnd o i .badDescriptor
  else
    (s.setJob o i { x with dev := dev, src := x.ep, ep := unit % 4096, rslot := slot, rgen := gen }).sendDeliver o i

/-- The trigger of a send slot is satisfied, with the status its wait returned (R282, R291). -/
def State.sendStart (s : State) (o i : Nat) (granted : Status) : State :=
  let a := s.f (.halSend o i 1) HAL_SEND.DESC
  let st := s.descCheck o a
  let s := s.setF (.halSstat o i) HAL_SSTAT.BUSY 1
  if st ≠ .done then s.sendDone o i 0xFFFF st
  else
    let s := s.readPass (uHal o i) [(a, 64)]
    let d := s.bytes a 64
    let w (k hi lo : Nat) : Nat := fld (leAt d (8 * k) 8) hi lo
    let cleat := if 49152 ≤ w 0 31 16 then 0xFFFF else w 0 31 16
    if granted ≠ .done then s.sendDone o i cleat granted
    else if s.poisonedAt a 64 then s.sendDone o i cleat .poisoned
    else
      let s := s.sendCount o i d
      let (st, n) := s.sendCheck o d
      if st ≠ .done then s.sendDone o i cleat st
      else
        let x : SendJob := {
          reply := w 0 1 0 == 1, cleat := cleat, addr := w 1 46 0, len := n, maxReply := w 0 49 41, chan := w 0 55 50
          dev := w 2 16 0, ep := w 2 28 17, src := 128 * o + 64 + w 0 55 50, land := w 3 46 0
          handle := w 3 56 47 + 1024 * w 3 62 57, start := s.now, tmo := s.halTmo o }
        if x.reply then s.startReply o i (w 5 46 0) x else (s.setJob o i x).sendReserve o i

/-! ### Owner events (R289, R290) -/

/-- What a send had under way tells the slot nothing any more: it has ended (R287, R290). -/
def State.sendCut (s : State) (o i : Nat) : State :=
  let op (p : RemOp) : RemOp := if p.cont = .send o i then { p with cont := .none } else p
  let land (l : HalLand) : HalLand := if l.src = .job o i then { l with src := .gone } else l
  { s with net := { s.net with ops := s.net.ops.map op }
           hal := { s.hal with chans := s.hal.chans.map (fun e => (e.1, { e.2 with landing := e.2.landing.map land })) } }

/-- A fragmented message leaves the list of those that arrive: the answer to its last fragment, which waits for its
notification, is `st` (R290, R354). -/
def State.reasmEnd (s : State) (cn first : Nat) (st : Status) : State :=
  let hit (r : Reasm) : Bool := r.cn == cn && r.first == first
  let s' : State := { s with net := { s.net with reasm := s.net.reasm.filter (fun r => !hit r) } }
  match (s.net.reasm.find? hit).bind (·.last) with
  | some q => s'.completeFrame cn q st
  | none => s'

/-- The messages that still land at a channel are refused with ABANDONED (R290); of one that has arrived in part, the
fragments still to come are. -/
def State.dropLanding (s : State) (e : Nat) : State :=
  let c := s.chan e
  let s := s.setChan e { c with landing := [] }
  let s := s.incSat (.halDrop (e / 128)) HAL_DROP.REFUSED c.landing.length
  c.landing.foldl (fun s l => match l.src with
    | .job o i => s.sendEnd o i .abandoned
    | .gone => s
    | .msg cn first => if l.ready then s.reasmEnd cn first .abandoned else
      { s with net := { s.net with reasm := s.net.reasm.map (fun r =>
        if r.cn == cn && r.first == first then { r with st := .abandoned } else r) } }) s

/-- Clear channel `e`: with `keep`, messages already accepted stay (R290). -/
def State.clearChan (s : State) (e : Nat) (keep : Bool) : State :=
  let s := s.dropLanding e
  let c := s.chan e
  let bump (r : Nat × Resv) : Nat × Resv := (r.1, { gen := (r.2.gen + 1) % 16 })
  let c' : HalChan := { c with resv := c.resv.map bump, gen0 := (c.gen0 + 1) % 16 }
  if keep then s.setChan e c'
  else
    let s := s.setChan e { c' with queue := [], popped := [] }
    let s := s.setHptr e HAL_PTR.HEAD 0
    let s := s.setHptr e HAL_PTR.TAIL 0
    (c.queue.filter (fun x => !x.reply)).foldl (fun s x =>
      s.sendEmptyReply e x.dev (x.unit % 4096) x.slot x.gen .abandoned) s

/-- The sends of an owner end at once, with no signal (R290). -/
def State.halEndSends (s : State) (o : Nat) : State :=
  let s := (s.hal.jobs.filter (fun e => e.1.1 == o)).foldl (fun s e => s.sendCut e.1.1 e.1.2) s
  let s := { s with hal := { s.hal with jobs := s.hal.jobs.filter (fun e => e.1.1 != o) } }
  let s := (List.range 64).foldl (fun s i =>
    if (s.rd (.halSstat o i)) = 0 then s
    else ((s.setF (.halSstat o i) HAL_SSTAT.BUSY 0).setF (.halSstat o i) HAL_SSTAT.RETRYING 0).setF
      (.halSstat o i) HAL_SSTAT.PARKED 0) s
  { s with clt := { s.clt with
    waits := s.clt.waits.filter (fun w => match w.who with | .eng (.send p _) => p != o | _ => true)
    grants := s.clt.grants.filter (fun g => match g.key with | .send p _ => p != o | _ => true) } }

/-- Clear the channels and send slots of an owner (R290); an abort keeps accepted messages and ends sends with no
signal. The generation of every reservation slot increments, of one never used too. -/
def State.halClear (s : State) (o : Nat) (abort : Bool) : State :=
  let s := s.halEndSends o
  let s := (s.hal.chans.map (·.1)).foldl (fun s e => if e / 128 = o then s.clearChan e abort else s) s
  { s with hal := { s.hal with gens := Tbl.set s.hal.gens o ((Tbl.get 0 s.hal.gens o + 1) % 16) } }

/-- A device is lost: sends to it complete, reservations toward it end (R289), but not one whose reply has landed. -/
def State.halPeerLost (s : State) (dev : Nat) : State :=
  let s := s.hal.jobs.foldl (fun s e => if e.2.dev = dev ∧ dev ≠ s.dev then s.sendEnd e.1.1 e.1.2 .peerLost else s) s
  s.hal.chans.foldl (fun (s : State) (e : Nat × HalChan) => e.2.resv.foldl (fun (s : State) (r : Nat × Resv) =>
    if r.2.held ∧ r.2.dstDev = dev ∧ dev ≠ s.dev ∧ !e.2.replied r.1 then s.resvFail e.1 r.1 (some .peerLost) else s) s) s

/-- A device edge reaches the reservations that wait for a reply (R289). -/
def State.halEdge (s : State) : State :=
  let up (r : Nat × Resv) : Nat × Resv := (r.1, { r.2 with edges := r.2.edges.map (· + 1) })
  { s with hal := { s.hal with chans := s.hal.chans.map (fun (e : Nat × HalChan) =>
      (e.1, { e.2 with resv := e.2.resv.map up })) } }

end Sys2Proof.Machine
end

