-- ==== Sys2Proof/Machine/Handshake.lean ====
section
/-! DEFINITION. The certificates of the device and the handshake that keys MACsec on a direct link (17_security.md R448, R458).
Firmware's handshake has no row: crowsnest begins it when a GCM connection opens on a sub-port that has MACsec enabled, and
takes its peer's message when it pops it. What its messages look like is the model's (DESIGN CHOICE, log entry 66): a request on
device-level halyard 60 + s for sub-port s, whose payload ends with the nonce, the ephemeral public key and the signature of
that key, the certificate chain before them, zeros between to fill the last granule. -/

namespace Sys2Proof.Machine

/-- The chain GET_CERTS returns for a Level, leaf first (R448). -/
def State.certs (s : State) (level : Nat) : List Byte :=
  let rest := Config.devIdCert ++ Config.cert 1 [] ++ Config.cert 0 []
  if level = 0 then s.sec.aliasCert ++ rest else if level = 1 then s.sec.aliasCert else rest

/-- The open GCM connection with another device on a sub-port, over which its handshake goes (R458). -/
def State.shakeLink (s : State) (p b : Nat) : Option Nat :=
  s.cnList.find? (fun c => s.cn c CN.STATE == cnOpen && s.cn c CN.HOST == 0 && s.cn c CN.PROT == 1 &&
    s.cn c CN.PORT == p && s.cn c CN.SUB == b)

/-- A message of crowsnest to device-level halyard 60 + `b` of the device at the other end of connection `c` (R413, R458). -/
def State.shakeSend (s : State) (c b : Nat) (msg : List Byte) : State :=
  let fr := (pieces (s.conn c).maxpay (msg.length + 1) 0 msg).map (fun (e : Nat × List Byte) =>
    (halSub 0 (msg.length / 16) (e.1 / 16) 0 (1084 + b) (1148 + b) 0 0 0, e.2))
  s.startOp c tHalyard (uHal 8 (60 + b)) true fr .none

/-- This end begins a handshake on a sub-port: it draws its nonce and its ephemeral key, and sends them with its chain to the
peer (R458 step 1). -/
def State.shakeStart (s : State) (p b : Nat) : State :=
  let nonce := fit 32 (Config.drbg s.free 32)
  let key := p521Key (Config.drbg (s.free + 1) 80)
  let pub := fit 133 (Config.p521Pub key)
  let chain := s.certs 0
  let msg := chain ++ zeros ((16 - (chain.length + 297) % 16) % 16) ++ nonce ++ pub ++ fit 132 (Config.ecdsaSign s.sec.alias_ pub)
  let x : Shake := { nonce := nonce, key := key, msg := msg }
  let s := { s with free := s.free + 2, sec := { s.sec with
    shake := Tbl.set s.sec.shake (p, b) x, shakeAt := Tbl.set s.sec.shakeAt (p, b) s.now } }
  match s.shakeLink p b with
  | some c => s.shakeSend c b msg
  | none => s

/-- Firmware repeats the handshake of a sub-port that has an association, with the next AN, after 23 h: at least every 24 h, and
so long before packet number 2^62 (R458; DESIGN CHOICE, log entry 66). -/
def State.rekeyPass (s : State) : State :=
  s.sec.shakeAt.foldl (fun (s : State) (e : (Nat × Nat) × Nat) =>
    if s.bit (.portStat e.1.1 e.1.2) PORT_STAT.MACSEC_ACTIVE && s.passed e.2 82800000000000 then s.shakeStart e.1.1 e.1.2 else s) s

/-- The link secret of a sub-port: its own, or the system's (R458). -/
def State.linkSecret (s : State) (p b : Nat) : Option (List Byte) :=
  match s.sec.link.find? (fun e => e.1 == 4 * p + b) with
  | some e => some e.2
  | none => (s.sec.link.find? (fun e => e.1 == 255)).map (·.2)

/-- The 44 B of an association: SAK and XPN salt (R458 step 3); port, sub-port and AN as one byte each. -/
def macsecKey (z ls lower higher : List Byte) (p b an : Nat) : List Byte :=
  fit 44 (Config.hkdf (z ++ ls) (lower ++ higher)
    (ascii "BRECO macsec" ++ leBytes 1 p ++ leBytes 1 b ++ leBytes 1 an) 44)

/-- A handshake on a sub-port fails: HANDSHAKE is set, SEC_REJECT counts it (R461), and no association is
installed (R458). -/
def State.shakeFail (s : State) (p b : Nat) : State :=
  let s := { s with sec := { s.sec with shake := s.sec.shake.filter (fun e => e.1 != (p, b)) } }
  (s.incSat .secReject SEC_REJECT.CNT).sticky .secErr SEC_ERR.HANDSHAKE 0x0072 .done 0xFFFF 0xFF ((s.rd .secErr).toNat % 16 ||| 2 ^ SEC_ERR.HANDSHAKE.lo)

/-- The association number of the next association of a sub-port (R458): the next one where one is installed. -/
def State.nextAn (s : State) (p b : Nat) : Nat :=
  let an := s.f (.portStat p b) PORT_STAT.AN_CUR
  if s.bit (.portStat p b) PORT_STAT.MACSEC_ACTIVE then (an + 1) % 4 else an

/-- The message of the peer `dev` of a sub-port arrives (R458 steps 2 and 3): its chain and signature verify, a link secret is
held, and the association is installed, the one before it staying for receive (R349); else the handshake has failed. -/
def State.shakeTake (s : State) (p b dev : Nat) (d : List Byte) : State :=
  let s := if s.sec.shake.any (fun e => e.1 == (p, b)) then s else s.shakeStart p b
  let n := d.length - 297
  let chain := d.take n
  let nonce := (d.drop n).take 32
  let pub := (d.drop (n + 32)).take 133
  let sig := (d.drop (n + 165)).take 132
  match s.sec.shake.find? (fun e => e.1 == (p, b)), s.linkSecret p b with
  | some (_, x), some ls =>
    if d.length < 297 ∨ !Config.chainOk chain ∨ !Config.p521Ok pub ∨ !Config.ecdsaOk (Config.chainKey chain) pub sig then
      s.shakeFail p b
    else
      let an := s.nextAn p b
      let low := decide (s.dev < dev)
      let (a, c) := if low then (x.nonce, nonce) else (nonce, x.nonce)
      let k := macsecKey (Config.ecdh x.key pub) ls a c p b an ++ leBytes 1 (if low then 1 else 2)
      let cur := s.f (.portStat p b) PORT_STAT.AN_CUR
      let kept := s.sec.sak.filter (fun e => (e.1.1, e.1.2.1) != (p, b) || e.1.2.2 == cur)
      let s := { s with sec := { s.sec with
        shake := s.sec.shake.filter (fun e => e.1 != (p, b)), sak := Tbl.set kept (p, b, an) k } }
      (s.setF (.portStat p b) PORT_STAT.MACSEC_ACTIVE 1).setF (.portStat p b) PORT_STAT.AN_CUR an
  | _, _ => s.shakeFail p b

/-- The open GCM connection to a device on sub-port `b` of a port (R458). -/
def State.shakeConn (s : State) (dev b : Nat) : Option Nat :=
  (s.openTo dev).find? (fun c => s.cn c CN.PROT == 1 && s.cn c CN.HOST == 0 && s.cn c CN.SUB == b)

/-- Crowsnest pops a message on device-level halyard `c`: on halyards 60 to 63 a handshake message of another device (R413,
R458). -/
def State.shakePop (s : State) (c : Nat) (x : Note) : State :=
  if c < 60 ∨ 63 < c ∨ x.dev = s.dev ∨ x.len = 0 then s
  else match s.shakeConn x.dev (c - 60) with
    | some k => s.shakeTake (s.cn k CN.PORT) (s.cn k CN.SUB) x.dev (s.bytes x.addr (16 * x.len))
    | none => s

end Sys2Proof.Machine
end

