-- ==== Sys2Proof/Machine/Operands.lean ====
section
/-! DEFINITION. The operand forms of a jib instruction: operand words, element addressing in the register store and in
memory, element types, footprints (05_jibs.md R144 to R151). -/

namespace Sys2Proof.Machine

/-- The bits of an element by type code: K32, K16, int32, int16, int8, K6, K4 (R148, R150). -/
def jBits : Nat → Nat
  | 0 => 32 | 1 => 16 | 2 => 32 | 3 => 16 | 4 => 8 | 5 => 6 | 6 => 4 | _ => 0

/-- The type is K4 or K6. -/
def jPacked (t : Nat) : Bool := t == 5 || t == 6
/-- The type is a float type. -/
def jFloat (t : Nat) : Bool := t == 0 || t == 1 || jPacked t
/-- The type is an integer type. -/
def jInt (t : Nat) : Bool := t == 2 || t == 3 || t == 4
/-- The float format of a type that is written element by element. -/
def jFmt (t : Nat) : Fmt := if t = 1 then .k16 else .k32

/-- An operand word (R149). -/
structure JOp where
  kind : Nat
  bcast : Nat
  reg : Nat
  addr : Nat
  res : Nat
  deriving DecidableEq, Repr

/-- Operand word `i` of an instruction: 2 D, 3 A, 4 B, 5 C. -/
def jop (w : List Word) (i : Nat) : JOp where
  kind := fld (w.getD i 0).toNat 1 0
  bcast := fld (w.getD i 0).toNat 3 2
  reg := fld (w.getD i 0).toNat 10 4
  addr := fld (w.getD i 0).toNat 57 11
  res := fld (w.getD i 0).toNat 63 58

/-- Bits `hi` to `lo` of word `i` of an instruction. -/
def jw (w : List Word) (i hi lo : Nat) : Nat := fld (w.getD i 0).toNat hi lo

/-- An instruction in execution: the state it reads, its jib, its words, the mode, the element count and the rows. -/
structure Jx where
  s : State
  j : Nat
  w : List Word
  tile : Bool
  n : Nat
  r : Nat

/-- The register store of jib `j`. -/
def State.jib (s : State) (j : Nat) : JibSt := Tbl.get {} s.jibs j
/-- Store the register store of jib `j`. -/
def State.setJib (s : State) (j : Nat) (x : JibSt) : State := { s with jibs := Tbl.set s.jibs j x }

/-- Columns of a row (R150). -/
def Jx.cols (x : Jx) : Nat := x.n / x.r
/-- Signed byte pitch between rows of memory tiles. -/
def Jx.pitch (x : Jx) : Int := sext 32 (jw x.w 7 63 32)
/-- The immediate. -/
def Jx.imm (x : Jx) : Nat := jw x.w 1 63 32
/-- The operation parameters. -/
def Jx.aux (x : Jx) (hi lo : Nat) : Nat := jw x.w 7 hi lo
/-- Source type. -/
def Jx.aty (x : Jx) : Nat := jw x.w 0 13 11
/-- Destination type. -/
def Jx.dty (x : Jx) : Nat := jw x.w 0 10 8
/-- Rounding mode. -/
def Jx.rnd (x : Jx) : Nat := jw x.w 0 15 14
/-- Address of the S8 scales. -/
def Jx.scale (x : Jx) : Nat := jw x.w 6 46 0
/-- The mast of the jib. -/
def Jx.mast (x : Jx) : Nat := x.j / 4
/-- Local index of the jib. -/
def Jx.loc (x : Jx) : Nat := x.j % 4

/-- First byte of an operand: in the store, or in memory (R145, R150). -/
def Jx.base (x : Jx) (o : JOp) : Nat := if o.kind = 1 then (if x.tile then 4096 else 1024) * o.reg else o.addr

/-- A byte of an operand's space. -/
def Jx.byte (x : Jx) (o : JOp) (a : Int) : Byte :=
  if o.kind = 1 then memGet (x.s.jib x.j).store a.toNat else x.s.byte a.toNat

/-- A byte of an operand's space is poisoned (R144, R154). -/
def Jx.bad (x : Jx) (o : JOp) (a : Int) : Bool :=
  if o.kind = 1 then (x.s.jib x.j).bad.contains (a.toNat / 4) else x.s.poisonedAt a.toNat 1

/-- The bit at which element `i` of `b` bits begins: contiguous, and by rows of 32 at the pitch in memory tiles
(R150). -/
def Jx.bitAt (x : Jx) (o : JOp) (b i : Nat) : Int :=
  if x.tile && o.kind == 2 then 8 * (Int.ofNat o.addr + Int.ofNat (i / 32) * x.pitch) + Int.ofNat (i % 32 * b)
  else Int.ofNat (8 * x.base o + i * b)

/-- `n` bytes of an operand from byte `a` on as a number, and their poison. -/
def Jx.num (x : Jx) (o : JOp) (a : Int) (n : Nat) : Nat × Bool :=
  (leNat ((List.range n).map (fun i => x.byte o (a + Int.ofNat i))), (List.range n).any (fun i => x.bad o (a + Int.ofNat i)))

/-- The code of element `i` of type `t`, and its poison. -/
def Jx.code (x : Jx) (o : JOp) (t i : Nat) : Nat × Bool :=
  let b := jBits t
  if o.kind = 3 then (x.imm % 2 ^ b, false) else
  let at_ := x.bitAt o b i
  let sh := (at_ % 8).toNat
  let (v, p) := x.num o (at_ / 8) ((sh + b + 7) / 8)
  (v / 2 ^ sh % 2 ^ b, p)

/-- The value of a code of type `t`, without a block scale. -/
def jDec (t c : Nat) : Option Q :=
  match t with
  | 0 => Fmt.k32.dec c
  | 1 => Fmt.k16.dec c
  | 5 => some (decK6 c)
  | 6 => some (decK4 c)
  | _ => some (Q.ofInt (sext (jBits t) c))

/-- An element: its value (none: invalid) and its poison. -/
structure JElem where
  v : Option Q
  p : Bool
  deriving DecidableEq, Repr

/-- Element `i` of an operand of type `t`; a K4 or K6 element under its block scale (R151). -/
def Jx.elem (x : Jx) (o : JOp) (t i : Nat) : JElem :=
  let (c, p) := x.code o t i
  if jPacked t then
    let sa := x.scale + i / 32
    { v := some (dequant (t == 5) c (x.s.num sa 1)), p := p || x.s.poisonedAt sa 1 }
  else { v := jDec t c, p := p }

/-- The element index operand word `o` takes for element `i` (R149). -/
def Jx.pick (x : Jx) (o : JOp) (i : Nat) : Nat :=
  match o.bcast with
  | 0 => i | 1 => 0 | 2 => i / x.cols | _ => i % x.cols

/-- The value a source operand gives for element `i`, in AType. -/
def Jx.src (x : Jx) (k i : Nat) : JElem := let o := jop x.w k; x.elem o x.aty (x.pick o i)

/-- How many elements of a source operand an instruction reads (R149). -/
def Jx.count (x : Jx) (o : JOp) : Nat :=
  match o.bcast with
  | 0 => x.n | 1 => 1 | 2 => x.r | _ => x.cols

/-! ### Predicates -/

/-- Predicate `m`; M0 reads as all ones (R144). -/
def State.pred (s : State) (j m : Nat) : Nat := if m = 0 then 2 ^ 16384 - 1 else Tbl.get 0 (s.jib j).preds m

/-- Element `i` is active (R154). -/
def Jx.active (x : Jx) (i : Nat) : Bool := bitN (x.s.pred x.j (jw x.w 0 18 16)) i != (jw x.w 0 19 19 == 1)

/-- The selected predicate is poisoned. -/
def Jx.predBad (x : Jx) : Bool := jw x.w 0 18 16 != 0 && bitN (x.s.jib x.j).predBad (jw x.w 0 18 16)

/-! ### Footprints -/

/-- A run of bytes of the store (`mem` false) or of memory. -/
structure JRun where
  mem : Bool
  at_ : Int
  len : Nat
  deriving DecidableEq, Repr

/-- Two runs share a byte. -/
def JRun.meets (a b : JRun) : Bool :=
  a.mem == b.mem && a.len != 0 && b.len != 0 && decide (a.at_ < b.at_ + Int.ofNat b.len) && decide (b.at_ < a.at_ + Int.ofNat a.len)

/-- `len` bytes from the start of an operand. -/
def Jx.span (x : Jx) (o : JOp) (len : Nat) : List JRun :=
  if o.kind = 1 ∨ o.kind = 2 then [{ mem := o.kind == 2, at_ := Int.ofNat (x.base o), len := len }] else []

/-- The runs of the first `cnt` elements of `b` bits of an operand. -/
def Jx.runs (x : Jx) (o : JOp) (b cnt : Nat) : List JRun :=
  if x.tile && o.kind == 2 then
    (List.range ((cnt + 31) / 32)).map (fun k => {
      mem := true, at_ := Int.ofNat o.addr + Int.ofNat k * x.pitch, len := (b * min 32 (cnt - 32 * k) + 7) / 8 })
  else x.span o ((b * cnt + 7) / 8)

/-- The scales of the first `cnt` elements of a packed type. -/
def Jx.scaleRun (x : Jx) (t cnt : Nat) : List JRun :=
  if jPacked t then [{ mem := true, at_ := Int.ofNat x.scale, len := (cnt + 31) / 32 }] else []

/-- The runs of the elements of a source operand of AType. -/
def Jx.srcRuns (x : Jx) (k : Nat) : List JRun :=
  let o := jop x.w k
  if o.kind = 1 ∨ o.kind = 2 then x.runs o (jBits x.aty) (x.count o) else []

/-! ### Results -/

/-- A write of an instruction: to the store or to memory, with its poison. -/
structure JWrite where
  mem : Bool
  at_ : Nat
  d : List Byte
  p : Bool
  deriving DecidableEq, Repr

/-- A write of element `i` of a type that is not packed. -/
def Jx.put (x : Jx) (o : JOp) (t i code : Nat) (p : Bool) : JWrite :=
  { mem := o.kind == 2, at_ := (x.bitAt o (jBits t) i / 8).toNat, d := leBytes (jBits t / 8) code, p := p }

/-- A write of bytes at an offset from the start of an operand. -/
def Jx.putAt (x : Jx) (o : JOp) (off : Nat) (d : List Byte) (p : Bool) : JWrite :=
  { mem := o.kind == 2, at_ := x.base o + off, d := d, p := p }

/-- The words of the store that `n` bytes at `a` touch. -/
def storeWords (a n : Nat) : List Nat := (List.range ((a + n + 3) / 4 - a / 4)).map (· + a / 4)

/-- A write to the register store: a whole word takes the poison of the data, a part of one the OR (R144, R154). -/
def JibSt.put (x : JibSt) (a : Nat) (d : List Byte) (p : Bool) : JibSt :=
  { x with store := memPuts x.store a d
           bad := (storeWords a d.length).foldl (fun l k =>
             if p then setIns l k else if a ≤ 4 * k ∧ 4 * k + 4 ≤ a + d.length then setDel l k else l) x.bad }

/-- Perform the writes of an instruction in order. -/
def State.jibPut (s : State) (j : Nat) (ws : List JWrite) : State :=
  let s := s.setJib j ((ws.filter (fun y => !y.mem)).foldl (fun (x : JibSt) y => x.put y.at_ y.d y.p) (s.jib j))
  let mk := s.marked (uJib j)
  s.storeCells (uJib j) ((ws.filter (fun y => y.mem)).flatMap (fun y =>
    (List.range y.d.length).map (fun i => (y.at_ + i, y.d.getD i 0, y.p || mk))))

end Sys2Proof.Machine
end

