-- ==== Sys2Proof/Machine/JibOps.lean ====
section
/-! DEFINITION. What each jib operation computes: element-wise operations, compares, reductions, selections, records and
the fused operations (05_jibs.md R151 to R164). -/

namespace Sys2Proof.Machine

/-- What an instruction leaves: writes in order, a predicate with its poison, flags, Result, whether TREEMASK met a bad
parent, and how many draws it used. -/
structure JOut where
  writes : List JWrite := []
  pred : Option (Nat × Nat × Bool) := none
  flags : Nat := 0
  result : Nat := 0
  bad : Bool := false
  draws : Nat := 0
  deriving DecidableEq, Repr

/-- Draw `i` of the jib's generator (R61, R62). -/
def Jx.draw (x : Jx) (i : Nat) : Nat :=
  drawRS (x.s.seedOf (uJib x.j)) (uJib x.j) (x.s.f (.jibRsctr x.mast x.loc) JIB_RSCTR.CTR + i)

/-- ISat (R52). -/
def Jx.isat (x : Jx) : Bool := jw x.w 0 20 20 == 1

/-- A value written in DType: rounded once, converted, wrapped or saturated (R64, R151). `i` numbers the draw; `int`
says that the operation computed an integer. -/
def Jx.conv (x : Jx) (int : Bool) (i : Nat) (v : Option Q) : Nat × Nat :=
  let t := x.dty
  if jInt t then
    if int then intResult (jBits t) x.isat ((v.getD Q.zero).num) else encInt (jBits t) x.rnd (x.draw i) v
  else (jFmt t).enc x.rnd (x.draw i) v

/-- The K32 code of a value, rounded to nearest, and the flags. -/
def k32Of (v : Option Q) : Nat × Nat := Fmt.k32.enc 0 0 v

/-- A value rounded to K32. -/
def k32Val (v : Option Q) : Option Q := Fmt.k32.dec (k32Of v).1

/-- The low 32 bits of an integer value. -/
def w32 (v : Option Q) : Nat := wrapI 32 ((v.getD Q.zero).num)

/-- An integer from 32 bits. -/
def i32 (n : Nat) : Option Q := some (Q.ofInt (sext 32 n))

/-- The exact value of an element-wise operation; none: invalid (R51, R151, R152). -/
def jArith (op : Nat) (a b c : Option Q) : Option Q :=
  match op with
  | 0x01 => a
  | 0x02 => lift2 (fun p q => some (p.add q)) a b
  | 0x03 => lift2 (fun p q => some (p.sub q)) a b
  | 0x04 => lift2 (fun p q => some (p.mul q)) a b
  | 0x05 => lift2 (fun p q => some (p.add q)) (lift2 (fun p q => some (p.mul q)) a b) c
  | 0x06 => lift2 (fun p q => some (qMax p q)) a b
  | 0x07 => lift2 (fun p q => some (qMin p q)) a b
  | 0x08 => a.map Q.abs
  | 0x09 => a.map Q.neg
  | 0x0A => i32 (Nat.land (w32 a) (w32 b))
  | 0x0B => i32 (Nat.lor (w32 a) (w32 b))
  | 0x0C => i32 (Nat.xor (w32 a) (w32 b))
  | 0x0D => i32 (w32 a * 2 ^ (w32 b % 32) % 2 ^ 32)
  | 0x0E => i32 (w32 a / 2 ^ (w32 b % 32))
  | 0x0F => some (Q.ofInt ((a.getD Q.zero).num / Int.ofNat (2 ^ (w32 b % 32))))
  | _ => a

/-- How many source operands an element-wise operation reads. -/
def jArity (op : Nat) : Nat :=
  if op = 0x05 then 3
  else if (2 ≤ op ∧ op ≤ 4) ∨ op = 6 ∨ op = 7 ∨ (0x0A ≤ op ∧ op ≤ 0x13) ∨ op = 0x21 ∨ op = 0x2E then 2 else 1

/-- The transcendental function of an Op. -/
def jTrans : Nat → Option Trans
  | 0x24 => some .exp | 0x25 => some .exp2 | 0x26 => some .log | 0x27 => some .log2 | 0x28 => some .tanh
  | 0x29 => some .sigmoid | 0x2A => some .silu | 0x2B => some .gelu | 0x2C => some .sin | 0x2D => some .cos
  | _ => none

/-- A function of R70 or SILUMUL of one element, written in a float format. -/
def jFunc (op : Nat) (f : Fmt) (mode u : Nat) (a b : Option Q) : Nat × Nat :=
  let ca := (k32Of a).1
  let cb := (k32Of b).1
  match op with
  | 0x20 => numDiv f mode u (freeQ 0x20 ca) (some (Q.ofInt 1)) a
  | 0x21 => numDiv f mode u (freeQ 0x21 (ca * 2 ^ 32 + cb)) a b
  | 0x22 => numSqrt f mode u (freeQ 0x22 ca) a
  | 0x23 => numRsqrt f mode u (freeQ 0x23 ca) a
  | 0x2E => f.enc mode u (lift2 (fun p q => some ((Trans.silu.raw p ca).mul q)) a b)
  | _ => match jTrans op with
    | some t => numTrans t f mode u a ca
    | none => (f.inv, fInv)

/-- Element `i` of an element-wise operation, SEL and CVT included: code, flags, poison. -/
def Jx.ew (x : Jx) (op i : Nat) : Nat × Nat × Bool :=
  let k := jArity op
  let a := x.src 3 i
  let int := jInt x.aty
  if op = 0x13 then
    let e := if x.active i then a else x.src 4 i
    let (c, f) := x.conv int i e.v
    (c, f, e.p)
  else
    let b : JElem := if 2 ≤ k then x.src 4 i else { v := some Q.zero, p := false }
    let c : JElem := if 3 ≤ k then x.src 5 i else { v := some Q.zero, p := false }
    let p := a.p || b.p || c.p
    if 0x20 ≤ op ∧ op ≤ 0x2E then
      let (y, f) := jFunc op (jFmt x.dty) x.rnd (x.draw i) a.v b.v
      (y, f, p)
    else
      let (y, f) := x.conv int i (jArith op a.v b.v c.v)
      (y, f, p)

/-- Element-wise operations write the active elements of D, SEL every element (R154). Inactive elements take their place in the
draws of R62 too, as R160 says of SAMPLE (the spec does not say it of these: DESIGN CHOICE, log entry 75). -/
def Jx.runEw (x : Jx) (op : Nat) : JOut :=
  let d := jop x.w 2
  let l := ((List.range x.n).filter (fun i => op == 0x13 || x.active i)).map (fun i => (i, x.ew op i))
  { writes := l.map (fun y => x.put d x.dty y.1 y.2.1 y.2.2.2)
    flags := l.foldl (fun f y => f ||| y.2.2.1) 0, draws := x.n }

/-- Compares write every bit of their predicate; inactive elements, poisoned operands and bits from n on give 0 (R152,
R154; log entry 14). -/
def Jx.runCmp (x : Jx) (op : Nat) : JOut :=
  let one (i : Nat) : Bool × Nat × Bool :=
    if !x.active i then (false, 0, false) else
    let a := x.src 3 i
    let b := x.src 4 i
    if a.p || b.p then (false, 0, true) else
    match a.v, b.v with
    | some p, some q =>
      ((if op = 0x10 then p.eq q else if op = 0x11 then p.lt q else p.le q), 0, false)
    | _, _ => (false, fInv, false)
  let l := (List.range x.n).map (fun i => (i, one i))
  let bits := l.foldl (fun a y => if y.2.1 then a + 2 ^ y.1 else a) 0
  { pred := some ((jop x.w 2).reg - 64, bits, x.predBad || l.any (fun y => y.2.2.2))
    flags := l.foldl (fun f y => f ||| y.2.2.1) 0
    result := (l.filter (fun y => y.2.1)).length }

/-- Element-wise K32 addition of two lists, pair by pair, with the flags. -/
def k32Add (a b : Option Q) : Option Q × Nat :=
  let (c, f) := encOp .k32 0 0 (a.isNone || b.isNone) (lift2 (fun p q => some (p.add q)) a b)
  (Fmt.k32.dec c, f)

/-- Combine neighbours of a list (one level of the tree of R71). -/
def sumPairs : List (Option Q) → List (Option Q) × Nat
  | a :: b :: l =>
    let (v, f) := k32Add a b
    let (vs, fs) := sumPairs l
    (v :: vs, f ||| fs)
  | l => (l, 0)

/-- The six levels of the tree. -/
def sumTree : Nat → List (Option Q) → List (Option Q) × Nat
  | 0, l => (l, 0)
  | k + 1, l =>
    let (m, f) := sumPairs l
    let (r, g) := sumTree k m
    (r, f ||| g)

/-- The sum of a row in the order of R71: element c into lane c mod 64, then the tree. Its additions round to nearest in
K32 (log entry 15). -/
def sumR71 (xs : List (Nat × Option Q)) : Option Q × Nat :=
  let lane (k : Nat) : Option Q × Nat :=
    (xs.filter (fun y => y.1 % 64 == k)).foldl (fun (a : Option Q × Nat) y =>
      let (v, f) := k32Add a.1 y.2
      (v, a.2 ||| f)) (some Q.zero, 0)
  let ls := (List.range 64).map lane
  let (r, f) := sumTree 6 (ls.map (·.1))
  (r.headD (some Q.zero), ls.foldl (fun a y => a ||| y.2) f)

/-- The active elements of row `r` of A: column, value, poison. -/
def Jx.row (x : Jx) (r : Nat) : List (Nat × JElem) :=
  ((List.range x.cols).filter (fun c => x.active (r * x.cols + c))).map (fun c => (c, x.src 3 (r * x.cols + c)))

/-- The largest finite value of a type (R155). -/
def jLargest (t : Nat) : Q := if jInt t then Q.ofInt (2 ^ (jBits t - 1) - 1) else ((jFmt t).dec (jFmt t).maxCode).getD Q.zero

/-- RSUM, RMAX and RMIN, one value for each row (R71, R152, R155). -/
def Jx.runRed (x : Jx) (op : Nat) : JOut :=
  let int := jInt x.aty
  let one (r : Nat) : Nat × Nat × Bool :=
    let l := x.row r
    let p := l.any (fun y => y.2.p)
    let (v, f) : Option Q × Nat :=
      if op = 0x40 then
        if int then (some (Q.ofInt (l.foldl (fun a y => a + (y.2.v.getD Q.zero).num) 0)), 0)
        else sumR71 (l.map (fun y => (y.1, y.2.v)))
      else match l with
        | [] => (some (if op = 0x41 then (jLargest x.dty).neg else jLargest x.dty), 0)
        | y :: l => (l.foldl (fun a z => lift2 (fun p q => some (if op = 0x41 then qMax p q else qMin p q)) a z.2.v) y.2.v, 0)
    let (c, g) := x.conv int r v
    (c, f ||| g, p)
  let l := (List.range x.r).map (fun r => (r, one r))
  { writes := l.map (fun y => x.put (jop x.w 2) x.dty y.1 y.2.1 y.2.2.2)
    flags := l.foldl (fun f y => f ||| y.2.2.1) 0, draws := x.r }

/-- Value `a` at index `i` ranks above value `b` at index `j` (R155). -/
def ranksAbove (a : Option Q) (i : Nat) (b : Option Q) (j : Nat) : Bool :=
  match a, b with
  | none, none => decide (i < j)
  | none, some _ => true
  | some _, none => false
  | some p, some q => q.lt p || (p.eq q && decide (i < j))

/-- Insert in rank order, keeping at most `k`. -/
def rankIns (k : Nat) (y : Nat × Option Q) : List (Nat × Option Q) → List (Nat × Option Q)
  | [] => if k = 0 then [] else [y]
  | z :: l => if k = 0 then [] else if ranksAbove y.2 y.1 z.2 z.1 then (y :: z :: l).take k
    else z :: rankIns (k - 1) y l

/-- A selection over a row: its `k` best elements in rank order, poison, flags (R155). -/
def Jx.best (x : Jx) (r k : Nat) : List (Nat × Option Q) × Bool × Nat :=
  let l := x.row r
  (l.foldl (fun b y => rankIns k (y.1, y.2.v) b) [], l.any (fun y => y.2.p),
    if l.any (fun y => y.2.v.isNone) then fInv else 0)

/-- ARGMAX (R152, R155). -/
def Jx.runArgmax (x : Jx) : JOut :=
  let c := jop x.w 5
  let one (r : Nat) : List JWrite × Nat × Nat :=
    let (b, p, f) := x.best r 1
    let (i, v) := b.headD (0xFFFFFFFF, some (jLargest x.dty).neg)
    let (y, g) := x.conv (jInt x.aty) r v
    let d := x.put (jop x.w 2) 2 r i p
    if c.kind = 0 then ([d], f, i) else ([d, x.put c x.dty r y p], f ||| g, i)
  let l := (List.range x.r).map one
  { writes := l.flatMap (·.1), flags := l.foldl (fun f y => f ||| y.2.1) 0, result := (l.headD ([], 0, 0)).2.2
    draws := if c.kind = 0 then 0 else x.r }

/-- The canonical code of a K32 code: what the device writes for the same value (R50). -/
def k32Canon (c : Nat) : Nat := (k32Of (Fmt.k32.dec c)).1

/-- Eight bytes of a record (R156). -/
def recBytes8 (v i : Nat) : List Byte := leBytes 4 v ++ leBytes 4 i

/-- RMAXREC: the best of n records (R156). With no active record the spec states no result: a free value. -/
def Jx.runMaxrec (x : Jx) : JOut :=
  let a := jop x.w 3
  let rec_ (i : Nat) : (Nat × Nat) × Bool :=
    let o := Int.ofNat (x.base a + 8 * x.pick a i)
    let (v, p) := x.num a o 4
    let (k, q) := x.num a (o + 4) 4
    ((k32Canon v, k), p || q)
  let l := ((List.range x.n).filter x.active).map rec_
  let free := Config.freeNat x.s.free % 2 ^ 64
  let best := match l with
    | [] => (k32Canon (free % 2 ^ 32), free / 2 ^ 32)
    | y :: l => l.foldl (fun (b : Nat × Nat) (z : (Nat × Nat) × Bool) =>
      if ranksAbove (Fmt.k32.dec z.1.1) z.1.2 (Fmt.k32.dec b.1) b.2 then z.1 else b) y.1
  { writes := [x.putAt (jop x.w 2) 0 (recBytes8 best.1 best.2) (l.any (·.2))]
    flags := if l.any (fun y => (Fmt.k32.dec y.1.1).isNone) then fInv else 0, result := best.2 }

/-- A copy of element `k` of A in DType (R157): the value is unchanged. -/
def Jx.copyElem (x : Jx) (k : Nat) : Nat × Nat × Bool :=
  let e := x.elem (jop x.w 3) x.dty k
  let (c, f) := if jInt x.dty then (wrapI (jBits x.dty) (e.v.getD Q.zero).num, 0) else (jFmt x.dty).enc 0 0 e.v
  (c, f, e.p)

/-- COMPRESS (R157). -/
def Jx.runCompress (x : Jx) : JOut :=
  let act := (List.range x.n).filter x.active
  let one (i : Nat) : Nat × Nat × Bool :=
    if x.aux 0 0 = 1 then
      let (c, f) := intResult (jBits x.dty) x.isat (Int.ofNat ((x.aux 31 8 + i) / 2 ^ x.aux 5 1))
      (c, f, false)
    else x.copyElem (x.pick (jop x.w 3) i)
  let l := (List.range act.length).map (fun k => (k, one (act.getD k 0)))
  { writes := l.map (fun y => x.put (jop x.w 2) x.dty y.1 y.2.1 y.2.2.2)
    flags := l.foldl (fun f y => f ||| y.2.2.1) 0, result := act.length }

/-- The limit of EXPAND (R157). -/
def Jx.limit (x : Jx) : Nat := if 0 < x.aux 14 0 then x.aux 14 0 else x.n

/-- EXPAND (R157). Its fill is the immediate, an int32 or a K32 value that is written in DType by Rnd and ISat (R151); element i
of it takes draw i, as in an element-wise operation (log entry 75). -/
def Jx.runExpand (x : Jx) : JOut :=
  let act := (List.range x.n).filter x.active
  let fill (i : Nat) : Nat × Nat × Bool :=
    let (c, f) := x.conv (jInt x.dty) i (if jInt x.dty then i32 x.imm else Fmt.k32.dec x.imm)
    (c, f, false)
  let one (k : Nat) : Nat × Nat × Bool := if k < x.limit then x.copyElem (x.pick (jop x.w 3) k) else fill (act.getD k 0)
  let l := (List.range act.length).map (fun k => (act.getD k 0, one k))
  { writes := l.map (fun y => x.put (jop x.w 2) x.dty y.1 y.2.1 y.2.2.2)
    flags := l.foldl (fun f y => f ||| y.2.2.1) 0, result := min act.length x.limit, draws := x.n }

/-- What fills a place of TOPK: the code 0xFF7F_FFFF in a type of 32 bits, in a narrower one the value of that K32 code as R64
converts it (R155 names the code alone: DESIGN CHOICE, log entry 14). -/
def Jx.topkFill (x : Jx) : Nat :=
  if jBits x.dty = 32 then 0xFF7FFFFF
  else if jInt x.dty then (encInt (jBits x.dty) 0 0 (Fmt.k32.dec 0xFF7FFFFF)).1 else ((jFmt x.dty).enc 0 0 (Fmt.k32.dec 0xFF7FFFFF)).1

/-- TOPK (R158). Places beyond the active elements of a row hold the fill and index 0xFFFF_FFFF (R155). -/
def Jx.runTopk (x : Jx) : JOut :=
  let k := x.aux 6 0
  let one (r : Nat) : List JWrite × Nat :=
    let (b, p, f) := x.best r k
    let place (i : Nat) : List JWrite × Nat :=
      let (ix, c, g) : Nat × Nat × Nat := match b[i]? with
        | some (ix, v) => let (c, g) := x.conv (jInt x.aty) (r * k + i) v; (ix, c, g)
        | none => (0xFFFFFFFF, x.topkFill, 0)
      ([x.put (jop x.w 2) x.dty (r * k + i) c p, x.put (jop x.w 5) 2 (r * k + i) ix p], g)
    let l := (List.range k).map place
    (l.flatMap (·.1), l.foldl (fun a y => a ||| y.2) f)
  let l := (List.range x.r).map one
  { writes := l.flatMap (·.1), flags := l.foldl (fun f y => f ||| y.2) 0, draws := x.r * k }

/-- g(u) for a 32-bit draw: −ln(−ln u) as the jib computes it, a free value within 2^-20 of the exact one (R159, log entry
9). -/
def gumbel (d : Nat) : Option Q :=
  let y := gumbelExact d
  let e : Q := { num := 1, exp := -20 }
  some (qClamp (y.sub e) (y.add e) { num := Config.gumbelNum d, exp := Config.gumbelExp d })

/-- SAMPLE (R159, R160). -/
def Jx.runSample (x : Jx) : JOut :=
  let greedy := x.aux 0 0 == 1
  let d := jop x.w 2
  let beta := Fmt.k32.dec x.imm
  let score (i : Nat) (v : Option Q) : Nat × Nat :=
    if greedy then k32Of v else
    let (c, f) := k32Of (lift2 (fun p q => some (p.mul q)) beta v)
    let (y, g) := k32Of (lift2 (fun p q => some (p.add q)) (Fmt.k32.dec c)
      (gumbel (x.draw (2 * i) * 65536 + x.draw (2 * i + 1))))
    (y, f ||| g)
  let one (r : Nat) : List JWrite × Nat × Nat :=
    let old : (Nat × Nat) × Bool :=
      if x.aux 1 1 = 1 then
        let o := Int.ofNat (x.base d + 8 * r)
        let (v, p) := x.num d o 4
        let (k, q) := x.num d (o + 4) 4
        ((k32Canon v, k), p || q)
      else ((0xFF7FFFFF, 0xFFFFFFFF), false)
    let l := x.row r
    let inv := if (Fmt.k32.dec old.1.1).isNone then fInv else 0
    let (b, f) := l.foldl (fun (acc : (Nat × Nat) × Nat) y =>
      let (c, g) := score (r * x.cols + y.1) y.2.v
      let ix := (x.aux 31 8 + y.1) % 2 ^ 32
      let g := if (Fmt.k32.dec c).isNone then g ||| fInv else g
      (if ranksAbove (Fmt.k32.dec c) ix (Fmt.k32.dec acc.1.1) acc.1.2 then (c, ix) else acc.1, acc.2 ||| g)) (old.1, inv)
    ([x.putAt d (8 * r) (recBytes8 b.1 b.2) (old.2 || l.any (fun y => y.2.p))], f, b.2)
  let l := (List.range x.r).map one
  { writes := l.flatMap (·.1), flags := l.foldl (fun f y => f ||| y.2.1) 0, result := (l.headD ([], 0, 0)).2.2
    draws := if greedy then 0 else 2 * x.n }

/-- A node of the draft tree: mask row, depth, poison. -/
structure Node where
  mask : Nat
  depth : Nat
  p : Bool
  bad : Bool
  deriving DecidableEq, Repr

/-- TREEMASK's rows 0 to 63 (R161). -/
def treeRows (par : Nat → Int × Bool) (n : Nat) : Nat → List Node
  | 0 => []
  | i + 1 =>
    let l := treeRows par n i
    let nd : Node :=
      if n ≤ i then { mask := 0, depth := 0, p := false, bad := false }
      else
        let (v, p) := par i
        if v = -1 then { mask := 2 ^ i, depth := 0, p := p, bad := false }
        else if 0 ≤ v ∧ v < Int.ofNat i then
          let q := l.getD v.toNat { mask := 0, depth := 0, p := false, bad := false }
          { mask := Nat.lor q.mask (2 ^ i), depth := q.depth + 1, p := p || q.p, bad := false }
        else { mask := 2 ^ i, depth := 0, p := p, bad := true }
    l ++ [nd]

/-- TREEMASK (R161). -/
def Jx.runTree (x : Jx) : JOut :=
  let par (i : Nat) : Int × Bool := let e := x.src 3 i; ((e.v.getD Q.zero).num, e.p)
  let l := treeRows par x.n 64
  let c := jop x.w 5
  let z : Node := { mask := 0, depth := 0, p := false, bad := false }
  { writes := (List.range 64).map (fun i => x.putAt (jop x.w 2) (8 * i) (leBytes 8 (l.getD i z).mask) (l.getD i z).p) ++
      (if c.kind = 0 then [] else
        (List.range 64).map (fun i => x.putAt c (2 * i) (leBytes 2 (l.getD i z).depth) (l.getD i z).p))
    result := l.foldl (fun m y => max m y.depth) 0, bad := l.any (·.bad) }

/-- Write packed blocks of 32 values: elements at D, scales generated or read (R66, R163, R546). -/
def Jx.packed (x : Jx) (explicit : Bool) (vs : Nat → JElem) (n : Nat) : List JWrite × Nat :=
  let k6 := x.dty == 5
  let d := jop x.w 2
  let one (b : Nat) : List JWrite × Nat :=
    let es := (List.range 32).map (fun i => vs (32 * b + i))
    let p := es.any (·.p)
    let sa := x.scale + b
    let at_ := (x.bitAt d (jBits x.dty) (32 * b) / 8).toNat
    let dr (i : Nat) : Nat := x.draw (32 * b + i)
    if explicit then
      let p := p || x.s.poisonedAt sa 1
      let (cs, f) := quantExp k6 x.rnd dr (x.s.num sa 1) (es.map (·.v))
      ([{ mem := d.kind == 2, at_ := at_, d := packElems k6 cs, p := p }], f)
    else
      let (sc, cs, f) := quantGen k6 x.rnd dr (es.map (·.v))
      ([{ mem := d.kind == 2, at_ := at_, d := packElems k6 cs, p := p },
        { mem := true, at_ := sa, d := leBytes 1 sc, p := p }], f)
  let l := (List.range (n / 32)).map one
  (l.flatMap (·.1), l.foldl (fun a y => a ||| y.2) 0)

/-- Values written in DType, whichever it is. -/
def Jx.putAll (x : Jx) (vs : Nat → JElem) (n : Nat) : List JWrite × Nat :=
  if jPacked x.dty then x.packed false vs n
  else
    let l := (List.range n).map (fun i => let e := vs i; let (c, f) := x.conv false i e.v; (x.put (jop x.w 2) x.dty i c e.p, f))
    (l.map (·.1), l.foldl (fun a y => a ||| y.2) 0)

/-- QUANT (R163). -/
def Jx.runQuant (x : Jx) : JOut :=
  let (ws, f) := x.packed (x.aux 0 0 == 1) (fun i => x.src 3 i) x.n
  { writes := ws, flags := f, draws := x.n }

/-- One row of SMXUPD: weights, state words m, l and c, poison, flags; the state's m and l are unchanged where no score
is active. -/
structure SmxRow where
  p : List JElem
  m : Option Nat
  l : Nat
  c : Nat
  poison : Bool
  flags : Nat
  deriving DecidableEq, Repr

/-- SMXUPD of row `r` (R162): the differences that exp takes are exact, since R162 writes no rounding of them (DEDUCED, log
entry 9). -/
def Jx.smxRow (x : Jx) (r : Nat) : SmxRow :=
  let cols := x.cols
  let b := jop x.w 4
  let cst := jop x.w 5
  let words := (cols + 63) / 64
  let moff := Int.ofNat (x.base b + r * words * 8)
  let (mask, mp) := if b.kind = 0 then (2 ^ cols - 1, false) else x.num b moff (8 * words)
  let alpha := Fmt.k32.dec x.imm
  let act := (x.row r).filter (fun y => bitN mask y.1)
  let so := Int.ofNat (x.base cst + 16 * r)
  let (m0, pm) := x.num cst so 4
  let (l0, pl) := x.num cst (so + 4) 4
  let one := (k32Of (some (Q.ofInt 1))).1
  if act = [] then { p := List.replicate cols { v := some Q.zero, p := mp }, m := none, l := l0, c := one, poison := mp, flags := 0 }
  else
    let ts := act.map (fun y => let (c, f) := k32Of (lift2 (fun p q => some (p.mul q)) alpha y.2.v); (y.1, Fmt.k32.dec c, f))
    let full := match Fmt.k32.dec l0 with
      | some v => v.num != 0
      | none => true
    let mx := match ts with
      | [] => some Q.zero
      | t :: l => l.foldl (fun a y => lift2 (fun p q => some (qMax p q)) a y.2.1) t.2.1
    let mn := if full then lift2 (fun p q => some (qMax p q)) (Fmt.k32.dec m0) mx else mx
    let ex (v : Option Q) : Nat × Nat :=
      numTrans .exp .k32 0 0 (lift2 (fun p q => some (p.sub q)) v mn) (2 ^ 64 + (k32Of v).1 * 2 ^ 32 + (k32Of mn).1)
    let (c, fc) := if full then ex (Fmt.k32.dec m0) else (0, 0)
    let ps := ts.map (fun y => (y.1, ex y.2.1))
    let (sum, fs) := sumR71 (ps.map (fun y => (y.1, Fmt.k32.dec y.2.1)))
    let (l, fl) := k32Of (lift2 (fun p q => some (p.add q))
      (lift2 (fun p q => some (p.mul q)) (if full then Fmt.k32.dec l0 else some Q.zero) (Fmt.k32.dec c)) sum)
    let bad := mp || act.any (fun y => y.2.p) || pl || (full && pm)
    let val (k : Nat) : JElem := match ps.find? (fun y => y.1 == k) with
      | some y => { v := Fmt.k32.dec y.2.1, p := bad }
      | none => { v := some Q.zero, p := mp }
    { p := (List.range cols).map val, m := some (k32Of mn).1, l := l, c := c
      poison := bad
      flags := ts.foldl (fun f y => f ||| y.2.2) (ps.foldl (fun f y => f ||| y.2.2) (fc ||| fs ||| fl)) }

/-- SMXUPD (R162). A weight that is 0 because its score is not active is not poisoned unless the mask row is. -/
def Jx.runSmx (x : Jx) : JOut :=
  let rows := (List.range x.r).map x.smxRow
  let cst := jop x.w 5
  let z : SmxRow := { p := [], m := none, l := 0, c := 0, poison := false, flags := 0 }
  let row (r : Nat) : SmxRow := rows.getD r z
  let vs (i : Nat) : JElem := (row (i / x.cols)).p.getD (i % x.cols) { v := some Q.zero, p := false }
  let (ws, f) := x.putAll vs x.n
  let st := (List.range x.r).map (fun r =>
    let y := row r
    match y.m with
    | none => x.putAt cst (16 * r + 8) (leBytes 4 y.c ++ zeros 4) y.poison
    | some m => x.putAt cst (16 * r) (leBytes 4 m ++ leBytes 4 y.l ++ leBytes 4 y.c ++ zeros 4) y.poison)
  { writes := ws ++ st, flags := rows.foldl (fun a y => a ||| y.flags) f, draws := x.n }

/-- The root of an exact value, and about it a free value within a relative c × 2^-24, less the 2^-24 that its
rounding may add (R70, log entry 9). -/
def freeRoot (sq : Q) (c pick : Nat) : Q :=
  let y := qRoot sq
  let r := y.num.natAbs
  let k := r * (c - 1) / 2 ^ 24
  { num := Int.ofNat (r + pick % (2 * k + 1) - k), exp := y.exp }

/-- RMSNORM of row `r`: its values (R163). The value within the bound of R70 is free (log entry 9). The sum of squares in K32
follows the order of R71: where it, or the mean square, leaves the range of K32 it saturates or flushes. -/
def Jx.rmsRow (x : Jx) (r : Nat) : List JElem × Nat :=
  let cols := x.cols
  let l := (List.range cols).map (fun c => x.src 3 (r * cols + c))
  let gk := (jop x.w 4).kind
  let eps := Fmt.k32.dec x.imm
  let sqs := l.map (fun y => lift2 (fun p q => some (p.mul q)) y.v y.v)
  let exact := sqs.foldl (fun a y => lift2 (fun p q => some (p.add q)) a y) (some Q.zero)
  let cells := (List.range cols).map (fun c => let (k, f) := k32Of (sqs.getD c none); (c, Fmt.k32.dec k, f))
  let (sum, sf) := sumR71 (cells.map (fun y => (y.1, y.2.1)))
  let sf := cells.foldl (fun f y => f ||| y.2.2) sf
  let mean (v : Option Q) : Option Q :=
    lift2 (fun p q => some (p.add q)) (v.map (fun v => v.div (Q.ofInt (Int.ofNat cols)))) eps
  let (mc, mf) := k32Of (mean sum)
  let mf := mf ||| sf
  let ms := if mf &&& (fSat ||| fFlush) ≠ 0 then Fmt.k32.dec mc else mean exact
  let p := l.any (·.p)
  let one (c : Nat) : JElem × Nat :=
    let xe := l.getD c { v := none, p := true }
    let g : JElem := if gk = 0 then { v := some (Q.ofInt 1), p := false } else x.src 4 (r * cols + c)
    let v : Option Q × Nat := match xe.v, g.v, ms with
      | some a, some b, some m =>
        let y := a.mul b
        if m.num < 0 then (none, fInv)
        else if m.num = 0 then (some (y.mul ((Fmt.k32.dec Fmt.k32.maxCode).getD Q.zero)), fSat)
        else if y.num = 0 then (some Q.zero, 0)
        else
          let q := freeRoot ((y.mul y).div m) ((cols + 63) / 64 + 14)
            (Config.ulpPick 0x57 ((k32Of (some a)).1 + 2 ^ 32 * ((k32Of (some b)).1 + 2 ^ 32 * (k32Of (some m)).1)))
          (some (if y.num < 0 then q.neg else q), 0)
      | _, _, _ => (none, fInv)
    ({ v := v.1, p := p || g.p }, v.2)
  let es := (List.range cols).map one
  (es.map (·.1), es.foldl (fun f y => f ||| y.2) (mf &&& (fSat ||| fFlush ||| fInv)))

/-- RMSNORM (R163). -/
def Jx.runRms (x : Jx) : JOut :=
  let rows := (List.range x.r).map x.rmsRow
  let vs (i : Nat) : JElem := ((rows.getD (i / x.cols) ([], 0)).1).getD (i % x.cols) { v := none, p := false }
  let (ws, f) := x.putAll vs x.n
  { writes := ws, flags := rows.foldl (fun a y => a ||| y.2) f, draws := x.n }

/-- TMMA: D = A × B + C on tiles of 32 × 32, by FMA in ascending reduction index, each rounded in the selected mode
(R164). -/
def Jx.runTmma (x : Jx) : JOut :=
  let one (i : Nat) : JWrite × Nat :=
    let t := i / 1024
    let row := i % 1024 / 32
    let col := i % 32
    let c := x.src 5 i
    let (v, f, p) := (List.range 32).foldl (fun (acc : Nat × Nat × Bool) k =>
      let a := x.src 3 (1024 * t + 32 * row + k)
      let b := x.src 4 (1024 * t + 32 * k + col)
      let y := lift2 (fun p q => some (p.add q)) (lift2 (fun p q => some (p.mul q)) a.v b.v) (Fmt.k32.dec acc.1)
      let (v, f) := Fmt.k32.enc x.rnd (x.draw i) y
      (v, acc.2.1 ||| f, acc.2.2 || a.p || b.p)) ((k32Of c.v).1, (k32Of c.v).2, c.p)
    (x.put (jop x.w 2) 0 i v p, f)
  let l := (List.range x.n).map one
  { writes := l.map (·.1), flags := l.foldl (fun a y => a ||| y.2) 0, draws := x.n }

/-- TTRANS: each tile transposed (R164). -/
def Jx.runTtrans (x : Jx) : JOut :=
  let one (i : Nat) : JWrite × Nat :=
    let e := x.src 3 (1024 * (i / 1024) + 32 * (i % 32) + i % 1024 / 32)
    let (c, f) := x.conv (jInt x.aty) i e.v
    (x.put (jop x.w 2) x.dty i c e.p, f)
  let l := (List.range x.n).map one
  { writes := l.map (·.1), flags := l.foldl (fun a y => a ||| y.2) 0, draws := x.n }

/-- The operation `op` of R152, but for NOP and HRECV. -/
def Jx.run (x : Jx) (op : Nat) : JOut :=
  if op ≤ 0x0F ∨ op = 0x13 ∨ op = 0x14 ∨ (0x20 ≤ op ∧ op ≤ 0x2E) then x.runEw op
  else if op ≤ 0x12 then x.runCmp op
  else match op with
    | 0x40 | 0x41 | 0x42 => x.runRed op
    | 0x43 => x.runArgmax
    | 0x44 => x.runMaxrec
    | 0x50 => x.runCompress
    | 0x51 => x.runExpand
    | 0x52 => x.runTopk
    | 0x53 => x.runSample
    | 0x54 => x.runTree
    | 0x55 => x.runSmx
    | 0x56 => x.runQuant
    | 0x57 => x.runRms
    | 0x60 => x.runTmma
    | _ => x.runTtrans

end Sys2Proof.Machine
end

