-- ==== Sys2Proof/Machine/Jibs.lean ====
section
/-! DEFINITION. Jib instructions: issue, checks, completion, and one meaning for each operation (05_jibs.md R146 to R168).
A command is one instruction of one jib, with its eight words; `poisoned` says that its words carried poison when they
were fetched (19_faults_and_dump.md R484). -/

namespace Sys2Proof.Machine

/-- The operations of R152. -/
def jibOps : List Nat :=
  List.range 0x15 ++ (List.range 0x0F).map (0x20 + ·) ++ [0x40, 0x41, 0x42, 0x43, 0x44] ++
  (List.range 8).map (0x50 + ·) ++ [0x60, 0x61, 0x70]

/-- The operation runs in wide-lane mode only: it is not in the list of R164. -/
def jWideOnly (op : Nat) : Bool :=
  !((decide (0x01 ≤ op) && decide (op ≤ 0x09)) || (decide (0x10 ≤ op) && decide (op ≤ 0x14)) ||
    (decide (0x20 ≤ op) && decide (op ≤ 0x2E)) || op == 0x56 || op == 0x60 || op == 0x61)

/-- The operation runs in tile mode only. -/
def jTileOnly (op : Nat) : Bool := op == 0x60 || op == 0x61

/-- The operation takes no predicate (R154). -/
def jNoMask (op : Nat) : Bool := op == 0x57 || op == 0x56 || op == 0x54 || op == 0x60 || op == 0x61

/-- Imm has a meaning of its own (R152). -/
def jUsesImm (op : Nat) : Bool := op == 0x51 || op == 0x53 || op == 0x55 || op == 0x57

/-- The source operand words an operation reads: 3 A, 4 B, 5 C (R152). -/
def jSources (w : List Word) (op : Nat) : List Nat :=
  if op = 0 ∨ op = 0x70 then []
  else if op = 0x50 then (if jw w 7 0 0 = 1 then [] else [3])
  else if op = 0x55 ∨ op = 0x57 then (if (jop w 4).kind = 0 then [3] else [3, 4])
  else if op = 0x60 then [3, 4, 5]
  else match jArity op with
    | 1 => [3] | 2 => [3, 4] | _ => [3, 4, 5]

/-- Operation `op` writes a second destination in C, where one is given. -/
def jDestC (w : List Word) (op : Nat) : Bool :=
  op == 0x52 || op == 0x55 || ((op == 0x43 || op == 0x54) && (jop w 5).kind != 0)

/-- The type pair is legal for the operation (R151, and R152, R161 to R164 for the operation's own types). -/
def jTypes (w : List Word) (op : Nat) : Bool :=
  let a := jw w 0 13 11
  let d := jw w 0 10 8
  let same := (jFloat a && jFloat d) || (jInt a && jInt d)
  a != 7 && d != 7 && (same || op == 0x14) && (!jPacked d || op == 0x55 || op == 0x56 || op == 0x57) &&
  (if 0x0A ≤ op ∧ op ≤ 0x0F then jInt a
   else if 0x20 ≤ op ∧ op ≤ 0x2E then jFloat a
   else if op = 0x50 then jw w 7 0 0 == 0 || jInt d
   else if op = 0x54 then jInt a
   else if op = 0x55 then a == 0 || a == 1
   else if op = 0x56 then (a == 0 || a == 1) && jPacked d
   else if op = 0x57 then jFloat a
   else if op = 0x60 then a == 0 && d == 0
   else true)

/-- Kind, Bcast and Reg of a source operand are legal (R149, R152). The bit mask of SMXUPD has no elements to broadcast
(DEDUCED, log entry 16). -/
def jSrcOk (w : List Word) (tile : Bool) (op k : Nat) : Bool :=
  let o := jop w k
  o.kind != 0 && (o.kind != 1 || decide (o.reg < if tile then 16 else 64)) &&
  (o.kind != 3 || !jUsesImm op) &&
  (!(op == 0x57 && k == 4) || o.bcast == 0 || o.bcast == 3) &&
  (!(op == 0x44 || (op == 0x55 && k == 4)) || o.kind != 3) && (!(op == 0x55 && k == 4) || o.bcast == 0)

/-- A destination operand other than a predicate is legal. -/
def jDstOk (w : List Word) (tile : Bool) (k : Nat) : Bool :=
  let o := jop w k
  (o.kind == 1 || o.kind == 2) && o.bcast == 0 && (o.kind != 1 || decide (o.reg < if tile then 16 else 64))

/-- Step 1 of R167. Reserved fields that are not zero fail here (log entry 16). -/
def jStep1 (w : List Word) (tile : Bool) (op : Nat) : Bool :=
  let d := jop w 2
  let cmp := decide (0x10 ≤ op) && decide (op ≤ 0x12)
  let done := jw w 0 57 42
  jibOps.contains op && jw w 0 21 21 == 0 && jw w 0 63 58 == 0 &&
  [2, 3, 4, 5].all (fun k => (jop w k).res == 0) &&
  jw w 0 15 14 != 3 && jw w 0 26 25 != 3 && decide (jw w 0 41 27 ≤ 16384) &&
  !(decide (49152 ≤ done) && done != 0xFFFF) && !(jw w 1 31 16 != 0 && decide (cleatMax < jw w 1 15 0)) &&
  !(tile && jWideOnly op) && !(!tile && jTileOnly op) && jTypes w op &&
  !(jNoMask op && jw w 0 18 16 != 0) &&
  (op == 0 || (jSources w op).all (jSrcOk w tile op)) &&
  (op == 0 || (if cmp then d.kind == 1 && d.bcast == 0 && decide (65 ≤ d.reg) && decide (d.reg ≤ 71) else jDstOk w tile 2)) &&
  (!jDestC w op || jDstOk w tile 5)

/-- The element count n (R148): its value, or the status that reading it gives. -/
def State.jibCount (s : State) (j : Nat) (w : List Word) : Nat × Status :=
  let cnt := jw w 0 41 27
  let a := 1024 * jw w 6 52 47
  match jw w 0 26 25 with
  | 0 => (cnt, .done)
  | 1 => let n := (s.jib j).result; (n, if cnt < n then .shapeOverflow else .done)
  | _ =>
    if (s.jib j).bad.contains (a / 4) then (0, .poisoned)
    else let n := leNat (memGets (s.jib j).store a 4); (n, if cnt < n then .shapeOverflow else .done)

/-- How many elements of an operand the first `k` picks read (R149). -/
def Jx.reads (x : Jx) (o : JOp) (k : Nat) : Nat :=
  match o.bcast with
  | 0 => k | 1 => min 1 k | 2 => (k + x.cols - 1) / x.cols | _ => min k x.cols

/-- The runs a source operand covers, its scales apart. -/
def Jx.srcFoot (x : Jx) (op k : Nat) : List JRun :=
  let o := jop x.w k
  if op = 0x44 then x.span o (8 * x.count o)
  else if op = 0x51 then x.runs o (jBits x.dty) (x.reads o (min x.limit x.n))
  else if op = 0x50 then x.runs o (jBits x.dty) (x.count o)
  else if op = 0x55 ∧ k = 4 then x.span o (x.r * ((x.cols + 63) / 64) * 8)
  else x.srcRuns k

/-- The scales of a source operand of K4 or K6. -/
def Jx.srcScale (x : Jx) (op k : Nat) : List JRun :=
  if op = 0x44 ∨ op = 0x50 ∨ op = 0x51 ∨ (op = 0x55 ∧ k = 4) then [] else x.scaleRun x.aty (x.count (jop x.w k))

/-- The runs of D. -/
def Jx.dFoot (x : Jx) (op : Nat) : List JRun :=
  let d := jop x.w 2
  let b := jBits x.dty
  if 0x10 ≤ op ∧ op ≤ 0x12 then []
  else match op with
    | 0x40 | 0x41 | 0x42 => x.runs d b x.r
    | 0x43 => x.runs d 32 x.r
    | 0x44 => x.span d 8
    | 0x52 => x.runs d b (x.r * x.aux 6 0)
    | 0x53 => x.span d (8 * x.r)
    | 0x54 => x.span d 512
    | 0x70 => x.span d 16
    | _ => x.runs d b x.n

/-- Scales that belong to the destination, and whether they are written. -/
def Jx.dScales (x : Jx) (op : Nat) : List JRun :=
  if op = 0x55 ∨ op = 0x56 ∨ op = 0x57 then x.scaleRun x.dty x.n else []

/-- The runs of a second destination in C. -/
def Jx.cFoot (x : Jx) (op : Nat) : List JRun :=
  let c := jop x.w 5
  if !jDestC x.w op then []
  else match op with
    | 0x43 => x.runs c (jBits x.dty) x.r
    | 0x52 => x.runs c 32 (x.r * x.aux 6 0)
    | 0x54 => x.span c 128
    | _ => x.span c (16 * x.r)

/-- The operation may have D coincide exactly with a source (R167). -/
def jMayCoincide (op : Nat) : Bool := decide (op ≤ 0x2E) || op == 0x50

/-- The address of a memory operand lies in activation or partial-sum memory (R153). -/
def State.jibRegion (s : State) (a : Nat) : Bool :=
  match s.fuses.region a 1 with
  | some (.act _) => true
  | some (.psum _) => true
  | _ => false

/-- The runs meet a tile slot of a sail that executes a macro-instruction (R153). -/
def State.psumBusy (s : State) (r : JRun) : Bool :=
  r.mem && (match s.fuses.region r.at_.toNat r.len with
    | some (.psum k) => s.slotHeld k r.at_.toNat
    | _ => false)

/-- A list of runs split by space: its memory part as one footprint (R38). -/
def memRuns (l : List JRun) : List JRun := l.filter (fun r => r.mem && r.len != 0)

/-- The smallest run that covers the memory runs of a footprint. -/
def jHull (l : List JRun) : Option (Int × Nat) :=
  match memRuns l with
  | [] => none
  | r :: l =>
    let lo := l.foldl (fun a y => min a y.at_) r.at_
    let hi := l.foldl (fun a y => max a (y.at_ + Int.ofNat y.len)) (r.at_ + Int.ofNat r.len)
    some (lo, (hi - lo).toNat)

/-- The region check of one footprint (R38). -/
def State.jibFoot (s : State) (j : Nat) (write : Bool) (l : List JRun) : Status :=
  match jHull l with
  | none => .done
  | some (lo, n) => if lo < 0 then .outOfBounds else s.access (.unit (uJib j)) write lo.toNat n

/-- What an instruction reads: the runs of each source, and of its scales, as separate footprints. -/
def Jx.sources (x : Jx) (op : Nat) : List (List JRun) :=
  (jSources x.w op).flatMap (fun k => [x.srcFoot op k, x.srcScale op k]) ++
  (if op = 0x56 ∧ x.aux 0 0 = 1 then [x.dScales op] else []) ++
  (if op = 0x55 then [x.cFoot op] else []) ++ (if op = 0x53 ∧ x.aux 1 1 = 1 then [x.dFoot op] else [])

/-- The memory operands and scales whose place step 4 of R167 asks for: their addresses. -/
def Jx.places (x : Jx) (op : Nat) : List Nat :=
  let ks := jSources x.w op ++ (if 0x10 ≤ op ∧ op ≤ 0x12 then [] else [2]) ++ (if jDestC x.w op then [5] else [])
  ((ks.map (jop x.w)).filter (fun o => o.kind == 2)).map (·.addr) ++
  (if (jSources x.w op).any (fun k => x.srcScale op k != []) || x.dScales op != [] then [x.scale] else [])

/-- Steps 4 to 6 of R167 for an instruction with n elements. -/
def Jx.check (x : Jx) (op : Nat) : Status :=
  let srcs := (jSources x.w op).map (fun k => (x.srcFoot op k, x.srcScale op k))
  let d := x.dFoot op
  let ds := x.dScales op
  let c := x.cFoot op
  let expl := op == 0x56 && x.aux 0 0 == 1
  let all := srcs.flatMap (fun y => [y.1, y.2]) ++ [d, ds, c]
  let store (l : List JRun) : Bool := l.all (fun r => r.mem || decide (r.at_ + Int.ofNat r.len ≤ 65536))
  let dd := d ++ (if expl then [] else ds)
  let hit (l : List JRun) : Bool := dd.any (fun a => l.any (fun b => a.meets b))
  let clash := srcs.any (fun y => (hit y.1 && !(jMayCoincide op && y.1 == d)) || hit y.2) || (op == 0x55 && hit c) ||
    (expl && hit ds)
  let k := x.aux 6 0
  let st := (srcs.flatMap (fun y => [x.s.jibFoot x.j false y.1, x.s.jibFoot x.j false y.2])) ++
    [x.s.jibFoot x.j true d, x.s.jibFoot x.j (!expl) ds, x.s.jibFoot x.j true c]
  if x.n % x.r ≠ 0 ∨ (op = 0x54 ∧ 64 < x.n) ∨ ((op = 0x56 ∨ op = 0x57) ∧ x.n % 32 ≠ 0) ∨
      ((op = 0x55 ∨ op = 0x57) ∧ jPacked x.dty ∧ x.cols % 32 ≠ 0) ∨ (op = 0x52 ∧ (k = 0 ∨ 64 < k ∨ x.cols < k)) ∨
      (op = 0x70 ∧ x.n ≠ 1) ∨ (x.tile ∧ x.n % 1024 ≠ 0) ∨ !all.all store ∨
      !(x.places op).all x.s.jibRegion ∨ clash then .badDescriptor
  else
    let o := (st.filter (fun y => y != .busy)).foldl Status.or .done
    if o ≠ .done then o
    else if all.any (fun l => l.any x.s.psumBusy) then .busy else .done

/-- Poison every byte of a footprint in place (R154). -/
def Jx.taint (x : Jx) (l : List JRun) : List JWrite :=
  l.map (fun r =>
    let o : JOp := { kind := if r.mem then 2 else 1, bcast := 0, reg := 0, addr := 0, res := 0 }
    { mem := r.mem, at_ := r.at_.toNat, d := (List.range r.len).map (fun i => x.byte o (r.at_ + Int.ofNat i)), p := true })

/-- The JIB_ERR bit of a status (R169). -/
def jibErrField : Status → Option Field
  | .badDescriptor => some JIB_ERR.BAD_DESC
  | .outOfBounds => some JIB_ERR.OOB
  | .shapeOverflow => some JIB_ERR.SHAPE_OVF
  | .poisoned => some JIB_ERR.POISON
  | .busy => some JIB_ERR.BUSY
  | _ => none

/-- An instruction completes (R146, R168): record, signal, registers, end-of-step, the next instruction. Cycles is a free
value (log entry 4). -/
def State.jibDone (s : State) (j : Nat) (w : List Word) (op flags result : Nat) (st : Status) : State :=
  let m := j / 4
  let l := j % 4
  let u := uJib j
  let pc := s.f (.jibStat m l) JIB_STAT.PC
  let ra := actBase m + s.f (.jibRec m l) JIB_REC.OFFSET + 16 * pc
  let rb := [0] ++ leBytes 1 flags ++ leBytes 1 op ++ [0] ++ leBytes 4 result ++
    leBytes 4 (Config.freeNat s.free % 2 ^ 32) ++ leBytes 4 (s.unitTick u)
  let rst := s.recStatus u st
  let ok := jw w 0 24 24 == 1 && s.access (.unit u) true ra 16 == .done
  let f : Finish := {
    key := .jib j, unit := u, mast := m, recAt := if ok then some ra else none, recBytes := rb, recSt := 0,
    cleat := let d := jw w 0 57 42; if 49152 ≤ d then 0xFFFF else d, endStep := jw w 0 23 23 == 1, descIdx := pc }
  let s := s.setJib j { s.jib j with result := result }
  let s := (s.setF (.jibStat m l) JIB_STAT.BUSY 0).tickFree.finishOp f st
  let s := s.wr (.jibLast m l) (BitVec.ofNat 64 (leAt (putAt rb 0 [BitVec.ofNat 8 rst.code]) 0 8))
  let s := s.setF (.jibStat m l) JIB_STAT.LAST_STATUS rst.code
  let s := match jibErrField st with
    | some F => s.engineErr (.jibErr m l) F st u pc
    | none => s
  if f.endStep ∨ pc + 1 = s.f (.jibProg m l) JIB_PROG.LENGTH then
    (s.setF (.jibStat m l) JIB_STAT.STEP_DONE 1).report u
  else s.setF (.jibStat m l) JIB_STAT.PC (pc + 1)

/-- Apply what an executed instruction leaves, and complete it (R62, R154, R167). -/
def State.jibApply (s : State) (j : Nat) (w : List Word) (op : Nat) (x : Jx) : State :=
  let o := x.run op
  let extra := if x.predBad then x.taint (x.dFoot op ++ x.dScales op ++ x.cFoot op) else []
  let bad := x.predBad || o.writes.any (·.p) || (match o.pred with | some y => y.2.2 | none => false)
  let st : Status := if o.bad then .badDescriptor else if bad then .poisoned else .done
  let s := (s.readPass (uJib j) ((memRuns (x.sources op).flatten).map (fun r => (r.at_.toNat, r.len)))).jibPut j (o.writes ++ extra)
  let s := match o.pred with
    | some (k, bits, p) =>
      let y := s.jib j
      s.setJib j { y with preds := Tbl.set y.preds k bits,
                          predBad := setBits y.predBad k k (if p then 1 else 0) }
    | none => s
  let draws := if op = 0x53 ∨ (jw w 0 15 14 = 2 ∧ (jInt x.aty && jInt x.dty) = false) then o.draws else 0
  let s := s.setF (.jibRsctr (j / 4) (j % 4)) JIB_RSCTR.CTR
    ((s.f (.jibRsctr (j / 4) (j % 4)) JIB_RSCTR.CTR + draws) % 2 ^ 48)
  s.jibDone j w op o.flags o.result st

/-- An instruction whose wait has ended (R167): `hrecv` says what HRECV would do. -/
def State.jibBody (s : State) (j : Nat) (w : List Word) (op : Nat) (poisoned : Bool) (granted : Status)
    (hrecv : Jx → State) : State :=
  let tile := s.bit (.jibCtrl (j / 4) (j % 4)) JIB_CTRL.MODE
  let fail (st : Status) : State := s.jibDone j w op 0 0 st
  if poisoned then fail .poisoned
  else if granted ≠ .done then fail granted
  else if !jStep1 w tile op then fail .badDescriptor
  else
    let (n, st) := s.jibCount j w
    let r := if tile then n / 32 else max 1 (jw w 6 63 53)
    let x : Jx := { s := s, j := j, w := w, tile := tile, n := n, r := r }
    if st ≠ .done then fail st
    else if n = 0 ∧ op ≠ 0x54 then fail .done
    else if op = 0 then fail (if n % r ≠ 0 then .badDescriptor else .done)
    else
      let st := x.check op
      if st ≠ .done then fail st
      else if op = 0x70 then hrecv x
      else s.jibApply j w op x

/-- Where the next instruction of jib `j` stands (R146, R148). -/
def State.jibAt (s : State) (j : Nat) : Nat :=
  actBase (j / 4) + s.f (.jibProg (j / 4) (j % 4)) JIB_PROG.BASE + 64 * s.f (.jibStat (j / 4) (j % 4)) JIB_STAT.PC

/-- The jib reads its next instruction, unless it has it and waits (R190). -/
def State.jibTake (s : State) (j : Nat) : State :=
  s.fetchPass (uJib j) (s.bit (.jibStat (j / 4) (j % 4)) JIB_STAT.WAITING) (s.jibAt j) 64

/-- The instruction that jib `j` fetches next: its words, and whether they carry poison (R146, R148, R484). -/
def State.jibFetch (s : State) (j : Nat) : List Word × Bool :=
  let a := s.jibAt j
  ((List.range 8).map (fun i => BitVec.ofNat 64 (s.num (a + 8 * i) 8)), s.poisonedAt a 64)

/-- Issue one instruction of jib `j` (R146, R147): its mast takes part, the jib executes a step, the words are those that stand
at PC in its program, its wait has ended. -/
def State.jibIssueWith (s : State) (j op : Nat) (w : List Word) (poisoned : Bool) (hrecv : State → Jx → State) : State :=
  let m := j / 4
  let l := j % 4
  if !s.mastRuns m || !s.stepping (uJib j) || s.bit (.jibStat m l) JIB_STAT.STEP_DONE ||
     decide (s.f (.jibProg m l) JIB_PROG.LENGTH ≤ s.f (.jibStat m l) JIB_STAT.PC) || s.jibFetch j != (w, poisoned) ||
     (jibOps.contains (jw w 0 7 0) && jw w 0 7 0 != op) then s
  else
    let s := s.jibTake j
    let none_ := poisoned || jw w 1 31 16 == 0 || decide (cleatMax < jw w 1 15 0)
    match s.engineWait (.jib j) (uJib j) (if none_ then 0xFFFF else jw w 1 15 0) (jw w 1 31 16) (jw w 0 22 22 == 1) with
    | .wait s => s.setF (.jibStat m l) JIB_STAT.WAITING 1
    | .go st s =>
      let s := s.setF (.jibStat m l) JIB_STAT.WAITING 0
      s.jibBody j w op poisoned st (hrecv s)

/-- Issue of an instruction that is not HRECV. -/
def State.jibIssue (s : State) (j op : Nat) (w : List Word) (poisoned : Bool) : State :=
  s.jibIssueWith j op w poisoned (fun s _ => s)

/-- The operation that a row's instruction has: a row issues the instructions of its own Op; an Op the spec does not list goes
by any row, and fails step 1 of R167. -/
def jibOp (row : Nat) (w : List Word) : Nat := if jibOps.contains (jw w 0 7 0) then row else jw w 0 7 0

/-- NOP: its wait and its signal only (R152). -/
def execJibNop (j : Fin 32) (w : List Word) (poisoned : Bool) (s : State) : Host.Outcome State Fault Refusal :=
  .next (s.jibIssue j (jibOp 0x00 w) w poisoned)

/-- MOV: D = A (R152). -/
def execJibMov (j : Fin 32) (w : List Word) (poisoned : Bool) (s : State) : Host.Outcome State Fault Refusal :=
  .next (s.jibIssue j (jibOp 0x01 w) w poisoned)

/-- ADD (R152). -/
def execJibAdd (j : Fin 32) (w : List Word) (poisoned : Bool) (s : State) : Host.Outcome State Fault Refusal :=
  .next (s.jibIssue j (jibOp 0x02 w) w poisoned)

/-- SUB (R152). -/
def execJibSub (j : Fin 32) (w : List Word) (poisoned : Bool) (s : State) : Host.Outcome State Fault Refusal :=
  .next (s.jibIssue j (jibOp 0x03 w) w poisoned)

/-- MUL (R152). -/
def execJibMul (j : Fin 32) (w : List Word) (poisoned : Bool) (s : State) : Host.Outcome State Fault Refusal :=
  .next (s.jibIssue j (jibOp 0x04 w) w poisoned)

/-- FMA, one rounding (R152). -/
def execJibFma (j : Fin 32) (w : List Word) (poisoned : Bool) (s : State) : Host.Outcome State Fault Refusal :=
  .next (s.jibIssue j (jibOp 0x05 w) w poisoned)

/-- MAX (R152). -/
def execJibMax (j : Fin 32) (w : List Word) (poisoned : Bool) (s : State) : Host.Outcome State Fault Refusal :=
  .next (s.jibIssue j (jibOp 0x06 w) w poisoned)

/-- MIN (R152). -/
def execJibMin (j : Fin 32) (w : List Word) (poisoned : Bool) (s : State) : Host.Outcome State Fault Refusal :=
  .next (s.jibIssue j (jibOp 0x07 w) w poisoned)

/-- ABS (R152). -/
def execJibAbs (j : Fin 32) (w : List Word) (poisoned : Bool) (s : State) : Host.Outcome State Fault Refusal :=
  .next (s.jibIssue j (jibOp 0x08 w) w poisoned)

/-- NEG (R152). -/
def execJibNeg (j : Fin 32) (w : List Word) (poisoned : Bool) (s : State) : Host.Outcome State Fault Refusal :=
  .next (s.jibIssue j (jibOp 0x09 w) w poisoned)

/-- AND (R152). -/
def execJibAnd (j : Fin 32) (w : List Word) (poisoned : Bool) (s : State) : Host.Outcome State Fault Refusal :=
  .next (s.jibIssue j (jibOp 0x0A w) w poisoned)

/-- OR (R152). -/
def execJibOr (j : Fin 32) (w : List Word) (poisoned : Bool) (s : State) : Host.Outcome State Fault Refusal :=
  .next (s.jibIssue j (jibOp 0x0B w) w poisoned)

/-- XOR (R152). -/
def execJibXor (j : Fin 32) (w : List Word) (poisoned : Bool) (s : State) : Host.Outcome State Fault Refusal :=
  .next (s.jibIssue j (jibOp 0x0C w) w poisoned)

/-- SHL (R152). -/
def execJibShl (j : Fin 32) (w : List Word) (poisoned : Bool) (s : State) : Host.Outcome State Fault Refusal :=
  .next (s.jibIssue j (jibOp 0x0D w) w poisoned)

/-- SHR (R152). -/
def execJibShr (j : Fin 32) (w : List Word) (poisoned : Bool) (s : State) : Host.Outcome State Fault Refusal :=
  .next (s.jibIssue j (jibOp 0x0E w) w poisoned)

/-- ASR (R152). -/
def execJibAsr (j : Fin 32) (w : List Word) (poisoned : Bool) (s : State) : Host.Outcome State Fault Refusal :=
  .next (s.jibIssue j (jibOp 0x0F w) w poisoned)

/-- CMPEQ (R152). -/
def execJibCmpeq (j : Fin 32) (w : List Word) (poisoned : Bool) (s : State) : Host.Outcome State Fault Refusal :=
  .next (s.jibIssue j (jibOp 0x10 w) w poisoned)

/-- CMPLT (R152). -/
def execJibCmplt (j : Fin 32) (w : List Word) (poisoned : Bool) (s : State) : Host.Outcome State Fault Refusal :=
  .next (s.jibIssue j (jibOp 0x11 w) w poisoned)

/-- CMPLE (R152). -/
def execJibCmple (j : Fin 32) (w : List Word) (poisoned : Bool) (s : State) : Host.Outcome State Fault Refusal :=
  .next (s.jibIssue j (jibOp 0x12 w) w poisoned)

/-- SEL (R152). -/
def execJibSel (j : Fin 32) (w : List Word) (poisoned : Bool) (s : State) : Host.Outcome State Fault Refusal :=
  .next (s.jibIssue j (jibOp 0x13 w) w poisoned)

/-- CVT (R64) (R152). -/
def execJibCvt (j : Fin 32) (w : List Word) (poisoned : Bool) (s : State) : Host.Outcome State Fault Refusal :=
  .next (s.jibIssue j (jibOp 0x14 w) w poisoned)

/-- RCP (R70) (R152). -/
def execJibRcp (j : Fin 32) (w : List Word) (poisoned : Bool) (s : State) : Host.Outcome State Fault Refusal :=
  .next (s.jibIssue j (jibOp 0x20 w) w poisoned)

/-- DIV (R70) (R152). -/
def execJibDiv (j : Fin 32) (w : List Word) (poisoned : Bool) (s : State) : Host.Outcome State Fault Refusal :=
  .next (s.jibIssue j (jibOp 0x21 w) w poisoned)

/-- SQRT (R70) (R152). -/
def execJibSqrt (j : Fin 32) (w : List Word) (poisoned : Bool) (s : State) : Host.Outcome State Fault Refusal :=
  .next (s.jibIssue j (jibOp 0x22 w) w poisoned)

/-- RSQRT (R70) (R152). -/
def execJibRsqrt (j : Fin 32) (w : List Word) (poisoned : Bool) (s : State) : Host.Outcome State Fault Refusal :=
  .next (s.jibIssue j (jibOp 0x23 w) w poisoned)

/-- EXP (R70) (R152). -/
def execJibExp (j : Fin 32) (w : List Word) (poisoned : Bool) (s : State) : Host.Outcome State Fault Refusal :=
  .next (s.jibIssue j (jibOp 0x24 w) w poisoned)

/-- EXP2 (R70) (R152). -/
def execJibExp2 (j : Fin 32) (w : List Word) (poisoned : Bool) (s : State) : Host.Outcome State Fault Refusal :=
  .next (s.jibIssue j (jibOp 0x25 w) w poisoned)

/-- LOG (R70) (R152). -/
def execJibLog (j : Fin 32) (w : List Word) (poisoned : Bool) (s : State) : Host.Outcome State Fault Refusal :=
  .next (s.jibIssue j (jibOp 0x26 w) w poisoned)

/-- LOG2 (R70) (R152). -/
def execJibLog2 (j : Fin 32) (w : List Word) (poisoned : Bool) (s : State) : Host.Outcome State Fault Refusal :=
  .next (s.jibIssue j (jibOp 0x27 w) w poisoned)

/-- TANH (R70) (R152). -/
def execJibTanh (j : Fin 32) (w : List Word) (poisoned : Bool) (s : State) : Host.Outcome State Fault Refusal :=
  .next (s.jibIssue j (jibOp 0x28 w) w poisoned)

/-- SIGMOID (R70) (R152). -/
def execJibSigmoid (j : Fin 32) (w : List Word) (poisoned : Bool) (s : State) : Host.Outcome State Fault Refusal :=
  .next (s.jibIssue j (jibOp 0x29 w) w poisoned)

/-- SILU (R70) (R152). -/
def execJibSilu (j : Fin 32) (w : List Word) (poisoned : Bool) (s : State) : Host.Outcome State Fault Refusal :=
  .next (s.jibIssue j (jibOp 0x2A w) w poisoned)

/-- GELU (R70) (R152). -/
def execJibGelu (j : Fin 32) (w : List Word) (poisoned : Bool) (s : State) : Host.Outcome State Fault Refusal :=
  .next (s.jibIssue j (jibOp 0x2B w) w poisoned)

/-- SIN (R70) (R152). -/
def execJibSin (j : Fin 32) (w : List Word) (poisoned : Bool) (s : State) : Host.Outcome State Fault Refusal :=
  .next (s.jibIssue j (jibOp 0x2C w) w poisoned)

/-- COS (R70) (R152). -/
def execJibCos (j : Fin 32) (w : List Word) (poisoned : Bool) (s : State) : Host.Outcome State Fault Refusal :=
  .next (s.jibIssue j (jibOp 0x2D w) w poisoned)

/-- SILUMUL (R152). -/
def execSilumul (j : Fin 32) (w : List Word) (poisoned : Bool) (s : State) : Host.Outcome State Fault Refusal :=
  .next (s.jibIssue j (jibOp 0x2E w) w poisoned)

/-- RSUM (R71) (R152). -/
def execJibRsum (j : Fin 32) (w : List Word) (poisoned : Bool) (s : State) : Host.Outcome State Fault Refusal :=
  .next (s.jibIssue j (jibOp 0x40 w) w poisoned)

/-- RMAX (R152). -/
def execJibRmax (j : Fin 32) (w : List Word) (poisoned : Bool) (s : State) : Host.Outcome State Fault Refusal :=
  .next (s.jibIssue j (jibOp 0x41 w) w poisoned)

/-- RMIN (R152). -/
def execRmin (j : Fin 32) (w : List Word) (poisoned : Bool) (s : State) : Host.Outcome State Fault Refusal :=
  .next (s.jibIssue j (jibOp 0x42 w) w poisoned)

/-- ARGMAX (R155) (R152). -/
def execArgmax (j : Fin 32) (w : List Word) (poisoned : Bool) (s : State) : Host.Outcome State Fault Refusal :=
  .next (s.jibIssue j (jibOp 0x43 w) w poisoned)

/-- RMAXREC (R156) (R152). -/
def execRmaxrec (j : Fin 32) (w : List Word) (poisoned : Bool) (s : State) : Host.Outcome State Fault Refusal :=
  .next (s.jibIssue j (jibOp 0x44 w) w poisoned)

/-- COMPRESS (R157) (R152). -/
def execCompress (j : Fin 32) (w : List Word) (poisoned : Bool) (s : State) : Host.Outcome State Fault Refusal :=
  .next (s.jibIssue j (jibOp 0x50 w) w poisoned)

/-- EXPAND (R157) (R152). -/
def execExpand (j : Fin 32) (w : List Word) (poisoned : Bool) (s : State) : Host.Outcome State Fault Refusal :=
  .next (s.jibIssue j (jibOp 0x51 w) w poisoned)

/-- TOPK (R158) (R152). -/
def execTopk (j : Fin 32) (w : List Word) (poisoned : Bool) (s : State) : Host.Outcome State Fault Refusal :=
  .next (s.jibIssue j (jibOp 0x52 w) w poisoned)

/-- SAMPLE (R159, R160) (R152). -/
def execSample (j : Fin 32) (w : List Word) (poisoned : Bool) (s : State) : Host.Outcome State Fault Refusal :=
  .next (s.jibIssue j (jibOp 0x53 w) w poisoned)

/-- TREEMASK (R161) (R152). -/
def execTreemask (j : Fin 32) (w : List Word) (poisoned : Bool) (s : State) : Host.Outcome State Fault Refusal :=
  .next (s.jibIssue j (jibOp 0x54 w) w poisoned)

/-- SMXUPD (R162) (R152). -/
def execSmxupd (j : Fin 32) (w : List Word) (poisoned : Bool) (s : State) : Host.Outcome State Fault Refusal :=
  .next (s.jibIssue j (jibOp 0x55 w) w poisoned)

/-- QUANT (R163) (R152). -/
def execQuant (j : Fin 32) (w : List Word) (poisoned : Bool) (s : State) : Host.Outcome State Fault Refusal :=
  .next (s.jibIssue j (jibOp 0x56 w) w poisoned)

/-- RMSNORM (R163) (R152). -/
def execRmsnorm (j : Fin 32) (w : List Word) (poisoned : Bool) (s : State) : Host.Outcome State Fault Refusal :=
  .next (s.jibIssue j (jibOp 0x57 w) w poisoned)

/-- TMMA (R164) (R152). -/
def execTmma (j : Fin 32) (w : List Word) (poisoned : Bool) (s : State) : Host.Outcome State Fault Refusal :=
  .next (s.jibIssue j (jibOp 0x60 w) w poisoned)

/-- TTRANS (R164) (R152). -/
def execTtrans (j : Fin 32) (w : List Word) (poisoned : Bool) (s : State) : Host.Outcome State Fault Refusal :=
  .next (s.jibIssue j (jibOp 0x61 w) w poisoned)

end Sys2Proof.Machine
end

