-- ==== Sys2Proof/Machine/Halyards.lean ====
section
/-! DEFINITION. The commands of halyards and downhauls (10_halyards.md), with the units that consume notifications, and
the fabric's stall watchdog (04_sheave_fabric.md R136). HAL_MESSAGE_LAND and HAL_SEND stand in NetCommands.lean and
Registers.lean. -/

namespace Sys2Proof.Machine

/-! ### Sends -/

/-- The unit that owns a send slot runs (R290: a suspended mast takes no triggers). -/
def State.halRuns (s : State) (o : Nat) : Bool := o == 8 || s.mastRuns o

/-- The trigger of slot `i` of owner `o` (R282): the wait, the send, and parking when the trigger cleat has left the active
state. -/
def execHalSendTrigger (o : Fin 9) (i : Fin 64) (s : State) : Host.Outcome State Fault Refusal :=
  .next <|
  let t := s.f (.halSend o i 0) HAL_SEND.TRIG
  let parked := s.bit (.halSstat o i) HAL_SSTAT.PARKED
  let active := (s.cleat t).st == .active
  if !s.halRuns o || !s.bit (.halSend o i 0) HAL_SEND.VALID || t == 0xFFFF || (s.job o i).isSome || (parked && !active)
  then s
  else
    match (s.setF (.halSstat o i) HAL_SSTAT.PARKED 0).engineWait (.send o i) (uHal o i) t 1 true with
    | .wait s => s
    | .go st s =>
      let s := s.sendStart o i st
      if st ≠ .done ∧ (s.cleat t).st ≠ .active then s.setF (.halSstat o i) HAL_SSTAT.PARKED 1 else s

/-- A waiting request obtains its reservation and leaves (R284). -/
def execHalReserve (o : Fin 9) (i : Fin 64) (s : State) : Host.Outcome State Fault Refusal :=
  .next <|
  match s.job o i with
  | some x => if x.phase = .resv ∧ !x.reply then s.sendReserve o i else s
  | none => s

/-- A refused request is resent after its wait (R287). -/
def execHalResend (o : Fin 9) (i : Fin 64) (s : State) : Host.Outcome State Fault Refusal :=
  .next <|
  match s.job o i with
  | some x => if x.phase = .retry ∧ x.due ≤ s.now then s.sendDeliver o i else s
  | none => s

/-- The send timer expires: the send completes with FULL, and an answer that comes later finds it ended (R287). -/
def execHalSendTimeout (o : Fin 9) (i : Fin 64) (s : State) : Host.Outcome State Fault Refusal :=
  .next <|
  match s.job o i with
  | some x => if s.passed x.start x.tmo then (s.sendCut o i).sendEnd o i .full else s
  | none => s

/-! ### Notifications -/

/-- The sender of a landed message learns its status. -/
def State.landAnswer (s : State) (l : HalLand) (st : Status) : State :=
  match l.src with
  | .job o i => s.sendEnd o i st
  | .msg cn first => s.reasmEnd cn first st
  | .gone => s

/-- A landed message's notification enters its queue (R275): the reservation of a reply is freed, an AUTOACK halyard
answers, and a send of this device completes. A reply whose reservation has ended meanwhile enters none and is stale
(R284, R285). -/
def State.noteEnter (s : State) (e : Nat) (l : HalLand) : State :=
  let c := s.chan e
  let rest := delFirst (fun x => x == l) c.landing
  if l.note.reply && !s.resvLive e l.note.slot l.note.gen then
    ((s.setChan e { c with landing := rest }).incSat (.halDrop (e / 128)) HAL_DROP.STALE).landAnswer l .staleEpoch
  else
  let c := { c with landing := rest, queue := c.queue ++ [l.note] }
  let s := s.setChan e (if l.note.reply then c.setSlot l.note.slot { c.slot l.note.slot with held := false } else c)
  let s := s.landAnswer l (match l.src with
    | .job _ _ => if l.note.poison then .poisoned else .done
    | _ => .done)
  if !l.note.reply && s.hcfg e HAL_CFG.AUTOACK == 1 then
    s.sendEmptyReply e l.note.dev (l.note.unit % 4096) l.note.slot l.note.gen .done
  else s

/-- The oldest landed message of an endpoint enters its notification. -/
def execNotificationEnter (e : Fin 1152) (s : State) : Host.Outcome State Fault Refusal :=
  .next <|
  match (s.chan e).landing.find? (·.ready) with
  | some l => s.noteEnter e l
  | none => s

/-- RLIMIT edges have passed since the request completed (R289). A reply that has landed keeps its reservation. -/
def execHalRlimitTimeout (o : Fin 9) (c i : Fin 64) (s : State) : Host.Outcome State Fault Refusal :=
  .next <|
  let e := 128 * o.val + 64 + c.val
  let x := s.chan e
  let lim := s.hcfg e HAL_CFG.RLIMIT
  match (x.slot i).edges with
  | some n => if lim ≠ 0 ∧ lim ≤ n ∧ !x.replied i then s.resvFail e i (some .timeout) else s
  | none => s

/-- Crowsnest reads word 1 of HAL_NOTE: the head notification is popped; its bytes 0x08 to 0x0F with VALID, or 0 where
the queue is empty, return to crowsnest (R277). What firmware does with it: a service message enters the event log (R413), a
handshake message is taken (R458). -/
def State.readNote (s : State) (c : Nat) : Nat × State :=
  match s.halPop (1024 + c) with
  | none => (0, s)
  | some (x, s) =>
    let sec := if x.dev = s.dev then s.unitSection x.unit else 0xFF
    let post := s.logEvent 0x0080 .done x.unit sec (s.num x.addr (min 8 (16 * x.len)))
    (leAt x.bytes 8 8 % 2 ^ 63 + 2 ^ 63, if c = 0 then post else s.shakePop c x)

/-- The interrupt that device-level channel `c` raises to crowsnest: its IRQ is set and its queue is not empty (R277). -/
def State.halIrq (s : State) (c : Nat) : Bool := s.hcfg (1024 + c) HAL_CFG.IRQ == 1 && (s.chan (1024 + c)).queue != []

/-- HAL_NOTE word 1. -/
def execHalNote (c : Fin 128) (s : State) : Host.Outcome State Fault Refusal :=
  .next <|
  let (v, s) := s.readNote c
  { s with chip := { s.chip with results := Tbl.set s.chip.results (uCn 0) { data := leBytes 8 v } } }

/-- A write of HAL_REL: the `n` oldest popped messages are released, all of them where `n` is above 64 (R280). -/
def State.writeRel (s : State) (e n : Nat) : State :=
  if s.hcfg e HAL_CFG.RELMODE = 1 then s.halRelease e (if 64 < n then (s.chan e).popped.length else n) else s

/-- HAL_REL. -/
def execHalRel (o : Fin 9) (c : Fin 128) (n : BitVec 7) (s : State) : Host.Outcome State Fault Refusal :=
  .next (s.writeRel (128 * o.val + c.val) n.toNat)

/-! ### Consumers (R276) -/

/-- HRECV pops one notification of halyard Aux[5:0] of the jib's mast and writes it to D; Result is its length. A poisoned
predicate poisons D (R154). On an empty queue the jib is busy and waits, and its own cleat wait stays satisfied (R165,
R169). -/
def State.hrecvOp (s : State) (j : Nat) (w : List Word) (x : Jx) : State :=
  match s.halPop (128 * (j / 4) + x.aux 5 0) with
  | none =>
    let s := (s.setF (.jibStat (j / 4) (j % 4)) JIB_STAT.WAITING 1).setF (.jibStat (j / 4) (j % 4)) JIB_STAT.BUSY 1
    if jw w 1 31 16 = 0 ∨ cleatMax < jw w 1 15 0 then s
    else { s with clt := { s.clt with grants := s.clt.grants ++ [{ key := .jib j, st := .done }] } }
  | some (n, s) => (s.jibPut j [x.putAt (jop w 2) 0 n.bytes x.predBad]).jibDone j w 0x70 0 n.len
      (if x.predBad then .poisoned else .done)

/-- HRECV. -/
def execHrecv (j : Fin 32) (w : List Word) (poisoned : Bool) (s : State) : Host.Outcome State Fault Refusal :=
  .next (s.jibIssueWith j (jibOp 0x70 w) w poisoned (fun s x => s.hrecvOp j w x))

/-- The three scalar entries of a notification (R115). -/
def Note.entries (x : Note) : List FabEntry :=
  [{ v := x.addr % 2 ^ 32, tag := 1 },
   { v := x.addr / 2 ^ 32 % 2 ^ 15 + x.len % 512 * 2 ^ 15 + x.dev / 2 ^ 16 % 2 * 2 ^ 24, tag := 2 },
   { v := x.unit % 2 ^ 16 + x.dev % 2 ^ 16 * 2 ^ 16, tag := 3 }]

/-- A SRC_HALYARD port injects what its lane buffer has room for. -/
def State.injectHal (s : State) (m p : Nat) : List FabEntry → State
  | [] => s.setEport m p { s.eport m p with hal := [] }
  | e :: l => if s.injectRoom m p then State.injectHal (s.inject m p e) m p l
              else s.setEport m p { s.eport m p with hal := e :: l }

/-- SRC_HALYARD (R114, R115): the entries of the notification popped last are injected before the next pop. -/
def execSrcHalyard (m : Fin 8) (p : Fin 64) (s : State) : Host.Outcome State Fault Refusal :=
  .next <|
  if !s.edgeIs m p 2 || !s.srcRuns m then s
  else match (s.eport m p).hal with
  | e :: l => s.injectHal m p (e :: l)
  | [] => match s.halPop (128 * m.val + s.edge m p FAB_EDGE.CHAN) with
    | none => s
    | some (n, s) => s.injectHal m p n.entries

/-! ### Stall watchdog (R136, R137) -/

/-- A source port waits for data. One that has injected its STEP_COUNT waits for an edge and not for data; a SRC_TICK port's
data is its token (R137 does not say: DEDUCED, log entry 80). -/
def State.srcWaits (s : State) (m p : Nat) : Bool :=
  (s.edgeIs m p 0 && s.coilEmpty m (s.edge m p FAB_EDGE.COIL)) ||
  (s.edgeIs m p 1 && (s.eport m p).ticks == []) ||
  (s.edgeIs m p 2 && (s.eport m p).hal == [] && (s.chan (128 * m + s.edge m p FAB_EDGE.CHAN)).queue == [])

/-- The 16 B record of a sheave in the snapshot. -/
def State.snapSheave (s : State) (m n : Nat) : List Byte :=
  let x := s.sheave m n
  let o (q : Nat) : Nat := (x.outq q).length
  (List.range 12).map (fun q => BitVec.ofNat 8 (x.inq q).length) ++
  leBytes 1 (o 0 + 16 * o 1) ++ leBytes 1 (o 2 + 16 * o 3) ++ leBytes 1 (o 4) ++
  leBytes 1 (maskOf 8 (fun k => s.slotLive m n k && s.inputsReady m n k && !s.slotReady m n k))

/-- Flits in the lane buffers of a mast. -/
def State.linkFlits (s : State) (m : Nat) : Nat :=
  (s.fabric m).lanes.foldl (fun (n : Nat) (y : LaneKey × List FabEntry) => n + y.2.length) 0

/-- The records that spill coils hold. -/
def State.spillRecs (s : State) (m : Nat) : Nat :=
  (List.range 64).foldl (fun n e => if s.bit (.fabSpill m e) FAB_SPILL.VALID then
    n + s.coilCount m (s.f (.fabSpill m e) FAB_SPILL.COIL) else n) 0

/-- The 4,160 bytes of a snapshot (R137). -/
def State.snapBytes (s : State) (m : Nat) (st : Status) : List Byte :=
  leBytes 4 s.tickNum ++ leBytes 1 m ++ leBytes 1 st.code ++ zeros 2 ++ leBytes 8 s.tbNs ++
  leBytes 8 (maskOf 64 (fun p => s.srcWaits m p)) ++ leBytes 4 (s.linkFlits m) ++ leBytes 4 (s.spillRecs m) ++ zeros 32 ++
  (List.range 256).flatMap (fun n => s.snapSheave m n)

/-- Write a snapshot at the place FAB_SNAP names; what a late fabric writes is marked (R318). -/
def State.snapshot (s : State) (m : Nat) (st : Status) : State :=
  let a := actBase m + s.f (.fabSnap m) FAB_SNAP.OFFSET
  if s.access (.unit (uSheave (256 * m))) true a 4160 = .done then s.store a (s.snapBytes m st) (s.marked (uSheave (256 * m))) else s

/-- The stall count of a mast reaches its limit: STALL is set, the snapshot is written, FABRIC_STALL is raised, at most once
a tick (R136). -/
def State.stallCheck (s : State) (m : Nat) : State :=
  let x := s.fabric m
  if x.snapped || s.bit (.fabWd m) FAB_WD.DISABLE || decide (x.stall < 2 ^ s.f (.fabWd m) FAB_WD.EXP) then s
  else
    let s := (s.setF (.fabStat m) FAB_STAT.STALL 1).snapshot m .fabricStall
    let s := s.setFabric m { s.fabric m with snapped := true }
    s.logEvent 0x0022 .fabricStall (uSheave (256 * m)) (s.unitSection (uSheave (256 * m)))
      (s.f (.fabSnap m) FAB_SNAP.OFFSET + s.linkFlits m * 2 ^ 32)

/-- STALL_WATCHDOG. -/
def execStallWatchdog (m : Fin 8) (s : State) : Host.Outcome State Fault Refusal := .next (s.stallCheck m)

end Sys2Proof.Machine
end

