-- ==== Sys2Proof/Machine/Reductions.lean ====
section
/-! DEFINITION. The commands of buckets and ordered channels that no frame carries (12_reductions.md). The RADD messages
themselves are in Machine/NetCommands.lean. An entry is a bucket tag, or 4,096 + o for ordered channel o. -/

namespace Sys2Proof.Machine

/-- A CLOSED entry arms a round (R330): from its arm cleat, when the controller's wait has ended, or, for an entry that
crowsnest declared while RUN is 0, at once (R336). A wait that R302 passes a status on for arms no round: LAST_STATUS takes it,
and where the wait was satisfied DONECLEAT is signalled and the controller waits again; where it ended since the cleat left the
active state the entry stays CLOSED. -/
def execBucketArm (e : Fin 4104) (s : State) : Host.Outcome State Fault Refusal :=
  .next <|
  if s.entState e ≠ 1 then s
  else if s.entArm e = 0xFFFF then
    if s.entSection e = 0xFF ∧ s.f .stkCtrl STK_CTRL.RUN = 0 then s.armEntry e else s
  else
    let met := ((s.clt.grants.find? (fun g => g.key == entKey e)).map (·.met)).getD ((s.cleat (s.entArm e)).st == .active)
    match s.engineWait (entKey e) uRed (s.entArm e) 1 true with
  | .wait s => s
  | .go .done s => s.armEntry e
  | .go st s =>
    let s := s.setEnt e BKT.LAST_STATUS ORD.LAST_STATUS st.code
    if met then
      let s := s.signal uRed (s.ent e BKT.DONECLEAT ORD.DONECLEAT) st
      s.cltOp { op := 1, index := s.entArm e, operand := 1, consume := true } (s.gid uRed) (.eng (entKey e)) false
    else s

/-- Every zero line of an ARMING range is accepted and the entry opens (R330). -/
def execBucketArmDone (e : Fin 4104) (s : State) : Host.Outcome State Fault Refusal := .next (s.armDone e)

/-- A round whose contributions and applications are all in is checked and closes (R334). -/
def execRoundComplete (e : Fin 4104) (s : State) : Host.Outcome State Fault Refusal := .next (s.settleRound e)

/-- A round still incomplete after TMO edges of its owner completes with TIMEOUT (R335); for an entry of crowsnest while
RUN is 0 the edges are periods of STK_PERIOD (R336). -/
def execRoundTimeout (e : Fin 4104) (s : State) : Host.Outcome State Fault Refusal :=
  .next <|
  let r := s.round e
  let n := s.ent e BKT.TMO ORD.TMO
  let due := if s.entSection e = 0xFF ∧ s.f .stkCtrl STK_CTRL.RUN = 0
    then decide (r.first + n * s.f .stkPeriod STK_PERIOD.P ≤ s.tbNs) else decide (n ≤ r.edges)
  if s.entState e = 3 ∧ r.ticked ∧ !s.roundFull e ∧ due then s.closeRound e .timeout false else s

/-- An ordered channel applies the staged contribution of the next rank (R340). -/
def execOrdApply (o : Fin 8) (s : State) : Host.Outcome State Fault Refusal := .next (s.ordApply o)

end Sys2Proof.Machine
end

