-- ==== Sys2Proof/Machine/NetRx.lean ====
section
/-! DEFINITION. The transport: completion of remote operations, connection states, receive checks, and what each frame type
does (13_ghenko_ethernet.md). -/

namespace Sys2Proof.Machine

/-! ### Completion at the sender (R362) -/

/-- A load from another device ends: its unit gets the data (R356). -/
def State.readDone (s : State) (tag : Nat) (st : Status) : State :=
  match s.net.reads.find? (fun r => r.tag == tag) with
  | none => s
  | some r =>
    let d := r.got.foldl (fun (d : List Byte) (e : Nat × List Byte) => putAt d e.1 e.2) (zeros r.len)
    let res : ReadResult := { st := st, data := if st = .done then d else [], poison := r.poison }
    { s with net := { s.net with reads := s.net.reads.filter (fun q => q.tag != tag) }
             chip := { s.chip with results := Tbl.set s.chip.results r.unit res } }

/-- A remote operation completes with a status (R362, R371). -/
def State.opDone (s : State) (o : RemOp) (st : Status) : State :=
  let s := { s with net := { s.net with ops := s.net.ops.filter (fun q => q.id != o.id) } }
  match o.cont with
  | .none => s
  | .store u => s.readFail u st
  | .part p => s.pendStep p st
  | .read tag => if st = .done then s else s.readDone tag st
  | .proxy tag => if st = .done then s
    else s.proxyTake tag (fun s p => s.proxyFail p (uPort (s.cn o.cn CN.PORT)) st)
  | .radd id =>
    match s.red.inflight.find? (fun e => e.1 == o.id) with
    | none => s
    | some (_, r) =>
      let s := { s with red := { s.red with inflight := s.red.inflight.filter (fun e => e.1 != o.id) } }
      if st = .busy then s.raddBusy id r.wait r.msg else s.contribStep id st
  | .send ow i => s.sendAnswer ow i st
  | .reply _ _ => s
  | .fair f k n rel => (s.flSettle f k n (if st = .done then n else 0) st).releaseRec rel

/-! ### Connection states (R359, R371) -/

/-- Remove every frame of a connection from the queues. -/
def State.dropFrames (s : State) (c : Nat) : State :=
  { s with net := { s.net with txq := s.net.txq.filter (fun f => f.cn != c) } }

/-- The session keys of a HOST connection end with it (R455). -/
def State.endSession (s : State) (c : Nat) : State :=
  let l := s.sec.sessions.filter (fun x => x.conn != some c)
  ({ s with sec := { s.sec with sessions := l } } : State).setF .secStat SEC_STAT.SESSIONS l.length

/-- Every remote operation in flight on a connection completes with PEER_LOST (R359, R371), loads that wait for their data and
proxy operations that wait for their results among them. -/
def State.failOps (s : State) (c : Nat) : State :=
  let s := (s.net.ops.filter (fun o => o.cn == c)).foldl (fun (s : State) (o : RemOp) => s.opDone o .peerLost) s
  let s := (s.net.proxyOut.filter (fun e => e.2.1 == c)).foldl (fun (s : State) (e : Nat × Nat × ProxyOp) =>
    s.proxyTake e.1 (fun s p => s.proxyFail p (uPort (s.cn c CN.PORT)) .peerLost)) s
  (s.net.reads.filter (fun r => r.cn == c)).foldl (fun (s : State) (r : OutRead) => s.readDone r.tag .peerLost) s

/-- Partial messages of a connection that has ended: their landings that are not complete leave their channels
(log entry 29). -/
def State.dropReasm (s : State) (c : Nat) : State :=
  let gone := s.net.reasm.filter (fun r => r.cn == c)
  let s := gone.foldl (fun (s : State) (r : Reasm) =>
    let x := s.chan r.ep
    s.setChan r.ep { x with landing := x.landing.filter (fun l => l.ready || l.src != .msg c r.first) }) s
  { s with net := { s.net with reasm := s.net.reasm.filter (fun r => r.cn != c) }
           red := { s.red with early := s.red.early.filter (fun e => e.1 != c) } }

/-- A connection enters IDLE: its epoch increments, and the peer's index and epoch are not known any more (R359). -/
def State.connIdle (s : State) (c : Nat) : State :=
  let s := (((s.setCn c CN.STATE cnIdle).setCn c CN.EPOCH (s.cn c CN.EPOCH + 1)).setCn c CN.PEERCONN 0).endSession c
  let s := ((s.dropFrames c).setConn c {}).failOps c
  s.dropReasm c

/-- A device is lost (R371): its cleats, waits, shroud rounds and reservations. -/
def State.devGone (s : State) (d : Nat) : State :=
  let s := (s.setF .tpLost TP_LOST.DEV d).setF .tpLost TP_LOST.VALID 1
  let s : State := { s with net := { s.net with lost := d :: s.net.lost.filter (· != d) } }
  let s := s.clt.tab.foldl (fun (s : State) (e : Nat × Cleat) =>
    if e.2.peer = some d ∧ e.2.st ≠ .free then s.forceCleat e.1 { s.cleat e.1 with st := .abandoned } .abandoned true else s) s
  let s := if d = s.dev then s else
    { s with clt := { s.clt with waits := s.clt.waits.filter (fun w => w.unit / 65536 != d) } }
  let s := (List.range 16).foldl (fun (s : State) (g : Nat) =>
    if !s.bit (.shrGrp g) SHR_GRP.VALID then s
    else
      let x := s.shrGrp g
      let kids := (s.shrChildren g).filter (fun k => s.f (.shrChild g k) SHR_CHILD.DEV == d)
      let up := s.f (.shrGrp g) SHR_GRP.PARENT == d && s.f (.shrGrp g) SHR_GRP.ROOT == 0
      if kids = [] ∧ !up then s
      else
        let m := kids.foldl (fun (m : Nat) (k : Nat) => m ||| 2 ^ k) x.lostKids
        let s := s.setShr g { x with lostKids := m, parentLost := x.parentLost || up }
        if up ∧ x.sent then s.shrRelease g .peerLost true else s.shrStage g) s
  s.halPeerLost d

/-- A connection enters LOST with a cause (R371). -/
def State.connLost (s : State) (c cause : Nat) : State :=
  let d := s.cn c CN.PEER
  let port := s.cn c CN.PORT
  let wasOpen := s.cn c CN.STATE == cnOpen && s.cn c CN.HOST == 0
  let s := ((s.setCn c CN.STATE cnLost).setCn c CN.CAUSE cause).endSession c
  let s := ((s.dropFrames c).setConn c {}).failOps c
  let s := s.dropReasm c
  let gone := wasOpen && s.openTo d == []
  let s := s.logEvent 0x0040 .peerLost (uPort port) 0xFF
    (d + c * 2 ^ 17 + cause % 8 * 2 ^ 29 + (if gone then 2 ^ 32 else 0))
  if gone then (s.tpErr TP_ERR.PEER_LOST (uPort port)).devGone d else s

/-- The code of a window limit in an OPEN is at least 1 (R360). -/
def State.ownWin (s : State) (c : Nat) : Nat := max 1 (min (s.cn c CN.WIN) 4096)

/-- MAXPAY of a code (R351). -/
def maxPay (code : Nat) : Nat := if code = 0 then 1024 else if code = 1 then 2048 else 4096

/-- The retransmission limit RTOMAX in ns. -/
def State.rtoMax (s : State) : Nat := s.f .tpTimer TP_TIMER.RTOMAX * 1000

/-- The body of OPEN, OPEN_ACK, CLOSE and CLOSE_ACK: own index and epoch, the peer's, ISN, SessionId, WIN and MAXPAY code.
R359 and R456 name these and place SessionId only; the other places are the model's (DESIGN CHOICE, log entry 27). -/
def State.ctlBody (s : State) (c : Nat) : List Byte :=
  leBytes 2 (c + s.cn c CN.EPOCH * 4096) ++ leBytes 2 (s.cn c CN.PEERCONN) ++ leBytes 4 (s.conn c).isn ++ zeros 4 ++
  leBytes 2 (s.cn c CN.WIN) ++ leBytes 1 (s.cn c CN.MAXPAY) ++ zeros 1

/-- The system link secret, if it is installed (R453, R455). -/
def State.sls (s : State) : Option (List Byte) := (s.sec.link.find? (fun e => e.1 == 255)).map (·.2)

/-- The key of OPEN and OPEN_ACK between devices (R459). -/
def ghenkoOpenKey (sls : List Byte) : List Byte := Config.hkdf sls [] (ascii "BRECO ghenko open") 32

/-- The key of one direction of a connection between devices (R459): initial sequence numbers of OPEN and OPEN_ACK, then
device, connection and epoch of the sender and the receiver. -/
def ghenkoKey (sls : List Byte) (isnOpen isnAck dev conn dev' conn' : Nat) : List Byte :=
  Config.hkdf sls (leBytes 4 isnOpen ++ leBytes 4 isnAck)
    (ascii "BRECO ghenko" ++ leBytes 4 dev ++ leBytes 2 conn ++ leBytes 4 dev' ++ leBytes 2 conn') 32

/-- The nonce of Ghenko GCM: 32 zero bits, then TxCnt (R351). -/
def ghenkoNonce (cnt : Nat) : List Byte := zeros 4 ++ beBytes 8 cnt

/-- Send OPEN, OPEN_ACK, CLOSE or CLOSE_ACK (R359): NC 1, protected as PROT selects. -/
def State.sendCtl (s : State) (c sub : Nat) : State :=
  let host := s.cn c CN.HOST == 1
  if !host && !s.devAssigned then s
  else
    let x := s.conn c
    let (cnt, key, s) :=
      if s.cn c CN.PROT = 0 then (0, [], s)
      else if sub ≤ 2 && !host then
        (s.dev * 2 ^ 47 + s.sec.openCnt % 2 ^ 47, ((s.sls.map ghenkoOpenKey).getD []),
          { s with sec := { s.sec with openCnt := (s.sec.openCnt + 1) % 2 ^ 47 } })
      else (x.txCnt, x.txKey.getD [], s.setConn c { x with txCnt := x.txCnt + 1 })
    s.enqueue {
      port := s.cn c CN.PORT, sub := s.cn c CN.SUB, queue := 2, cn := 4096, typ := tControl, flags := 1, seq := 0,
      dst := s.cn c CN.PEER, srcUnit := uPort (s.cn c CN.PORT), subhdr := ctlSub sub, pay := s.ctlBody c,
      ctl := some (c, cnt, key) }

/-- Send CLOSE once every frame sent is acknowledged; an end that received CLOSE answers CLOSE_ACK and enters IDLE
(R359). -/
def State.tryClose (s : State) (c : Nat) : State :=
  let x := s.conn c
  if s.cn c CN.STATE = cnClosing ∧ x.unacked = [] ∧ !x.closeSent then
    if x.peerClose then (s.sendCtl c 4).connIdle c
    else ((s.setConn c { x with closeSent := true, tries := 0, triedAt := s.now }).sendCtl c 3)
  else s

/-- A connection enters CLOSING (R359): frames not yet sent are not sent, their operations complete with PEER_LOST. -/
def State.connClosing (s : State) (c : Nat) (peer : Bool) : State :=
  let x := s.conn c
  let s := (s.setCn c CN.STATE cnClosing).setConn c {
    x with peerClose := peer, unacked := x.unacked.filter (fun u => u.sentAt.isSome) }
  let unsent := (x.unacked.filter (fun u => u.sentAt.isNone)).map (fun u => u.frame.op)
  let s := { s with net := { s.net with txq := s.net.txq.filter (fun f => f.cn != c || f.queue == 1 || f.flags / 8 % 2 == 1) } }
  let s := (s.net.ops.filter (fun o => o.cn == c && unsent.contains o.id)).foldl
    (fun (s : State) (o : RemOp) => s.opDone o .peerLost) s
  s.tryClose c

/-- A connection enters OPEN (R354, R359, R360, R364): what the peer's OPEN or OPEN_ACK carries, with the keys of both
directions. On a sub-port with MACsec the link handshake begins (R458). -/
def State.connOpened (s : State) (c : Nat) (b : List Byte) (tx rx : Option (List Byte)) : State :=
  let x := s.conn c
  let x' : Conn := {
    isn := x.isn, peerWin := max 1 (min (leAt b 12 2) 4096)
    maxpay := min (maxPay (s.cn c CN.MAXPAY)) (maxPay (leAt b 14 1)), txKey := tx, rxKey := rx
    lastRx := s.now, lastTx := s.now, lastGrow := s.now }
  let s := s.setConn c x'
  let s := ((s.setCn c CN.PEERCONN (leAt b 0 2)).setCn c CN.RCVNXT (leAt b 4 4)).setCn c CN.SNDNXT x.isn
  let s := ((s.setCn c CN.SNDUNA x.isn).setCn c CN.RETRIES 0).setCn c CN.SRTT 0
  let s := (s.setCn c CN.RTO 4000).setCn c CN.CWND (s.connW c)
  let s := s.setCn c CN.STATE cnOpen
  let s : State := { s with net := { s.net with lost := s.net.lost.filter (fun d => s.cn c CN.HOST == 1 || d != s.cn c CN.PEER) } }
  if s.cn c CN.PROT = 1 ∧ s.cn c CN.HOST = 0 ∧ s.bit (.portCfg (s.cn c CN.PORT)) PORT_CFG.MACSEC then
    s.shakeStart (s.cn c CN.PORT) (s.cn c CN.SUB)
  else s

/-! ### Received frames -/

/-- The base header of a received frame (R352). -/
def frameBase (f : Frame) : List Byte :=
  [f.verFlags, f.typeCls] ++ leBytes 2 f.conn.toNat ++ leBytes 4 f.seq.toNat ++ leBytes 4 f.ackSeq.toNat ++
  leBytes 4 f.srcDev.toNat ++ leBytes 4 f.dstDev.toNat ++ leBytes 2 f.srcUnit.toNat ++ leBytes 2 f.length.toNat ++
  leBytes 4 f.tsVal.toNat ++ leBytes 4 f.tsEcr.toNat

/-- The GCM tag of a received frame verifies under a key (R351). -/
def frameTagOk (f : Frame) (key : List Byte) : Bool :=
  Config.gcmTag key (ghenkoNonce f.txCnt.toNat) (frameBase f ++ leBytes 8 f.txCnt.toNat) (f.subhdr ++ f.pay) ==
    leBytes 16 f.tag.toNat

/-- Bytes of the subheader of a type, from the subheader itself where its length varies (R353). -/
def subLen (typ : Nat) (sub : List Byte) : Nat :=
  if typ = tWrite ∨ typ = tRadd ∨ typ = tHalyard ∨ typ = tDownhaul then 24
  else if typ = tReadReq ∨ typ = tReadResp then 16
  else if typ = tCleatOp ∨ typ = tAbort then 32
  else if typ = tAck then 8 + 8 * leAt sub 4 1
  else if typ = tNak then 8 + 8 * leAt sub 0 1
  else if typ = tHeartbeat then 0
  else 8

/-- A reserved byte of a subheader is not zero (R352, R353). -/
def subBad (f : Frame) (typ : Nat) : Bool :=
  let on (o n : Nat) : Bool := leAt f.subhdr o n != 0
  if typ = tWrite then on 0x0A 6
  else if typ = tReadResp then on 0x05 1
  else if typ = tRadd then leAt f.subhdr 0x0A 1 == 1 && on 4 4
  else if typ = tCleatOp then on 0x15 11
  else if typ = tAck then on 0x05 3
  else if typ = tNak then on 0x01 7 || (List.range (leAt f.subhdr 0 1)).any (fun i => on (13 + 8 * i) 3)
  else if typ = tShroud then on 0x06 2
  else if typ = tControl then on 0x01 7
  else if typ = tAbort then on 0x05 3 || on 0x14 12 || (leAt f.subhdr 0 1 == 0 && on 0x04 1)
  else false

/-- Step 2 of R366: version, a reserved type, reserved bits, lengths that do not agree. -/
def frameBad (f : Frame) (typ : Nat) : Bool :=
  f.typeCls.toNat % 16 == 0 || decide (14 ≤ f.typeCls.toNat % 16) || subBad f typ ||
  f.verFlags.toNat / 16 != 1 || decide (64 ≤ f.typeCls.toNat) || decide (2 ^ 17 ≤ f.srcDev.toNat) ||
  decide (2 ^ 17 ≤ f.dstDev.toNat) || f.pay.length != f.length.toNat || decide (4096 < f.length.toNat) ||
  f.subhdr.length != subLen typ f.subhdr || (typ == tAck && decide (4 < leAt f.subhdr 4 1)) ||
  (typ == tNak && (leAt f.subhdr 0 1 == 0 || decide (8 < leAt f.subhdr 0 1)))

/-- MACsec is enabled on a sub-port: it is configured, and the handshake has installed an association (R349, R458). -/
def State.macsecOn (s : State) (p b : Nat) : Bool :=
  s.bit (.portCfg p) PORT_CFG.MACSEC && s.bit (.portStat p b) PORT_STAT.MACSEC_ACTIVE

/-- The multicast addresses of PTP, LLDP and IPv6 neighbour discovery (PRESUMED from the standards R346 names, log entry
33). -/
def multicastOk (mac : Nat) : Bool :=
  mac == 0x011B19000000 || mac == 0x0180C200000E || mac == 0x0180C2000003 || mac == 0x0180C2000000 ||
  mac == 0x01005E000181 || mac == 0x01005E00006B || mac == 0x333300000181 || mac == 0x33330000006B ||
  mac == 0x333300000001 || mac == 0x333300000002 || mac / 2 ^ 24 == 0x3333FF

/-- A sub-port accepts a destination address (R347) and a C-tag (R346): its own VID. -/
def State.macOk (s : State) (p b mac : Nat) (vid : Option Nat) : Bool :=
  (mac == s.f (.portMac p b) PORT_MAC.MAC || mac == 0xFFFFFFFFFFFF || multicastOk mac) &&
  vid.all (fun v => v == s.f (.portMac p b) PORT_MAC.VID)

/-- A Ghenko frame is one of those a sub-port accepts (R347), in an encapsulation of R350 whose UDP checksum is right. -/
def State.wireOk (s : State) (f : Frame) : Bool :=
  let w := f.wire
  s.macOk f.port f.sub w.dst.toNat (w.vid.map (·.toNat)) &&
  (if w.encap = 0 then w.port.toNat == s.f .tpEncap TP_ENCAP.ETYPE
   else w.port.toNat == s.f .tpEncap TP_ENCAP.UDPPORT && (w.sum == 0 || (w.sum == 2 && w.encap == 2)))

/-- Why the port drops a frame (R347, R349, R366 step 1): the counter of PORT_DROP. Under MACsec a frame must be protected by an
association that is installed; without it no protected frame is a Ghenko frame. -/
def State.portRefuses (s : State) (f : Frame) : Option Field :=
  let held (an : Fin 4) : Bool := s.sec.sak.any (fun e => e.1 == (f.port.val, f.sub.val, an.val))
  if !f.good || (s.macsecOn f.port f.sub && !f.wire.an.any held) then some PORT_DROP.BAD
  else if !s.wireOk f || (!s.macsecOn f.port f.sub && f.wire.an.isSome) then some PORT_DROP.FILT
  else none

/-- The poison mask of a frame's payload: `mask`, or all of it where an uncorrectable flit carried it into the mesh (R28). -/
def frameTaint (f : Frame) (mask : Nat) : Nat := if meshBad f.mesh then fullMask true f.pay.length else mask

/-- Count a drop of the transport (R373). -/
def State.tpDrop (s : State) (F : Field) : State := s.incSat .tpDrop F

/-- Count a refusal by a window (R355). -/
def State.winRefuse (s : State) (st : Status) : State :=
  match st with
  | .windowClosed => s.tpDrop TP_DROP.CLOSED
  | .staleEpoch => s.tpDrop TP_DROP.STALE
  | _ => s

/-- A dropped frame whose tag failed (R366 step 7, R459). -/
def State.authDrop (s : State) (port : Nat) : State := (s.tpDrop TP_DROP.AUTH).tpErr TP_ERR.AUTH (uPort port)

/-- An entry that an OPEN, OPEN_ACK, CLOSE or CLOSE_ACK of this frame can concern (R366 step 4, R41). -/
def State.ctlEntry (s : State) (f : Frame) (c : Nat) : Bool :=
  s.cn c CN.VALID == 1 && s.cn c CN.PORT == f.port.val && s.cn c CN.SUB == f.sub.val &&
  (s.cn c CN.HOST == 1 || (s.devAssigned && s.cn c CN.PEER == f.srcDev.toNat))

/-- The keys of a connection whose OPEN or OPEN_ACK is this frame: none where the tag or the session fails; answers transmit
and receive key and the session's number (R456, R459). -/
def State.openKeys (s : State) (f : Frame) (c : Nat) (ack : Bool) :
    Option (Option (List Byte) × Option (List Byte)) × Bool :=
  let b := f.pay
  let prot := s.cn c CN.PROT == 1
  if s.cn c CN.HOST = 1 then
    match s.sec.sessions.find? (fun x => x.id == leAt b 8 4 && x.conn == none) with
    | none => if ack && !prot then (some (none, none), false) else (none, false)
    | some x =>
      if !prot then (some (none, none), false)
      else if frameTagOk f x.h2d then (some (some x.d2h, some x.h2d), false) else (none, true)
  else if !prot then (some (none, none), false)
  else match s.sls with
    | none => (none, true)
    | some k =>
      if !frameTagOk f (ghenkoOpenKey k) then (none, true)
      else
        let own := (s.conn c).isn
        let peer := leAt b 4 4
        let (o, a) := if ack then (own, peer) else (peer, own)
        let mine := c + s.cn c CN.EPOCH * 4096
        (some (some (ghenkoKey k o a s.dev mine f.srcDev.toNat (leAt b 0 2)),
               some (ghenkoKey k o a f.srcDev.toNat (leAt b 0 2) s.dev mine)), false)

/-- The session an OPEN names is bound to its HOST connection (R456). -/
def State.bindSession (s : State) (f : Frame) (c : Nat) : State :=
  if s.cn c CN.HOST = 1 then
    let bind (x : Session) : Session := { x with conn := some c }
    let l := updFirst (fun x => x.id == leAt f.pay 8 4 && x.conn == none) bind s.sec.sessions
    { s with sec := { s.sec with sessions := l } }
  else s

/-- An OPENING connection takes an OPEN or OPEN_ACK (R359). -/
def State.openTake (s : State) (f : Frame) (c : Nat) (ack : Bool) : State :=
  match s.openKeys f c ack with
  | (none, true) => s.authDrop f.port
  | (none, false) => s.tpDrop TP_DROP.UNKNOWN
  | (some (tx, rx), _) =>
    let s := (s.bindSession f c).connOpened c f.pay tx rx
    if ack then s else s.sendCtl c 2

/-- The entry a CONTROL body names, with the epoch it names (R359). -/
def ctlNamed (f : Frame) : Nat × Nat := (leAt f.pay 2 2 % 4096, leAt f.pay 2 2 / 4096)

/-- An OPEN comes again for an OPEN entry: OPEN_ACK is sent again (DEDUCED, log entry 28), where its tag verifies (R459) and, on
a HOST connection, the session it names is known and not bound (R456). -/
def State.openAgain (s : State) (f : Frame) (c : Nat) : State :=
  if s.cn c CN.HOST = 1 then
    if s.sec.sessions.any (fun x => x.id == leAt f.pay 8 4 && x.conn == none) then s.sendCtl c 2 else s.tpDrop TP_DROP.UNKNOWN
  else if s.cn c CN.PROT = 0 || s.sls.any (fun k => frameTagOk f (ghenkoOpenKey k)) then s.sendCtl c 2
  else s.authDrop f.port

/-- OPEN (R359): the first OPENING entry of the sub-port and peer takes it, or an OPEN entry that has that peer. Where it names a
receiver's entry, 0 naming none, that entry alone can take it, under its epoch (log entry 28). -/
def State.recvOpen (s : State) (f : Frame) : State :=
  let (n, e) := ctlNamed f
  let named := leAt f.pay 2 2 != 0
  let l := (s.cnList.filter (s.ctlEntry f)).filter (fun c => !named || c == n)
  if named && s.ctlEntry f n && e != s.cn n CN.EPOCH then s.tpDrop TP_DROP.STALE
  else match l.find? (fun c => s.cn c CN.STATE == cnOpen && s.cn c CN.PEERCONN == leAt f.pay 0 2) with
  | some c => s.openAgain f c
  | none => match l.find? (fun c => s.cn c CN.STATE == cnOpening) with
    | some c => s.openTake f c false
    | none => s.tpDrop TP_DROP.UNKNOWN

/-- OPEN_ACK (R359). -/
def State.recvOpenAck (s : State) (f : Frame) : State :=
  let (c, e) := ctlNamed f
  if !s.ctlEntry f c then s.tpDrop TP_DROP.UNKNOWN
  else if e ≠ s.cn c CN.EPOCH then s.tpDrop TP_DROP.STALE
  else if s.cn c CN.STATE = cnOpening then s.openTake f c true
  else if s.cn c CN.STATE = cnOpen then s
  else s.tpDrop TP_DROP.UNKNOWN

/-- CLOSE and CLOSE_ACK carry the tag of their connection (R351). -/
def State.closeTag (s : State) (f : Frame) (c : Nat) : Bool :=
  match (s.conn c).rxKey with
  | some k => s.cn c CN.PROT == 0 || frameTagOk f k
  | none => true

/-- CLOSE (R359). -/
def State.recvClose (s : State) (f : Frame) : State :=
  let (c, e) := ctlNamed f
  let st := s.cn c CN.STATE
  if !s.ctlEntry f c then s.tpDrop TP_DROP.UNKNOWN
  else if st = cnIdle then
    if e = (s.cn c CN.EPOCH + 15) % 16 then s.sendCtl c 4 else s.tpDrop TP_DROP.STALE
  else if e ≠ s.cn c CN.EPOCH then s.tpDrop TP_DROP.STALE
  else if !s.closeTag f c then s.authDrop f.port
  else if st = cnClosing then (s.sendCtl c 4).connIdle c
  else if st = cnOpen then s.connClosing c true
  else s.tpDrop TP_DROP.UNKNOWN

/-- CLOSE_ACK (R359). -/
def State.recvCloseAck (s : State) (f : Frame) : State :=
  let (c, e) := ctlNamed f
  if !s.ctlEntry f c then s.tpDrop TP_DROP.UNKNOWN
  else if e ≠ s.cn c CN.EPOCH then s.tpDrop TP_DROP.STALE
  else if s.cn c CN.STATE ≠ cnClosing then s.tpDrop TP_DROP.UNKNOWN
  else if !s.closeTag f c then s.authDrop f.port
  else s.connIdle c

/-- Step 3 of R366 for a CONTROL frame of subtype `sub`. -/
def State.recvNc (s : State) (f : Frame) (sub : Nat) : State :=
  if sub = 1 then s.recvOpen f
  else if sub = 2 then s.recvOpenAck f
  else if sub = 3 then s.recvClose f
  else if sub = 4 then s.recvCloseAck f
  else if s.bit (.portCfg f.port) PORT_CFG.HOSTCH then s.mbxMsg (.host f.port f.sub f.src.toNat) true sub f.pay
  else s.tpDrop TP_DROP.UNKNOWN

/-! ### ACK and NAK at the sender -/

/-- The round-trip sample of an acknowledgement (R364); values are kept in whole ns (DESIGN CHOICE, log entry 30). -/
def State.rttSample (s : State) (c tsEcr : Nat) : State :=
  let x := s.conn c
  let r := (s.tbNs + 2 ^ 32 - tsEcr % 2 ^ 32) % 2 ^ 32
  let srtt := s.cn c CN.SRTT
  let (v, t) := if !x.hasSrtt then (r / 2, r)
    else ((3 * x.rttvar + (if srtt < r then r - srtt else srtt - r)) / 4, (7 * srtt + r) / 8)
  let s := (s.setConn c { x with rttvar := v, hasSrtt := true }).setCn c CN.SRTT t
  s.setCn c CN.RTO (min (max (t + 4 * v) 2000) s.rtoMax)

/-- Frames of a connection are acknowledged (R362, R364): `cov` says which sequence numbers. -/
def State.ackFrames (s : State) (c : Nat) (cov : Nat → Bool) (tsEcr : Nat) : State :=
  let x := s.conn c
  let hit := x.unacked.filter (fun u => u.sentAt.isSome && cov u.frame.seq)
  if hit = [] then s
  else
    let s := if hit.any (fun u => !u.resent) then s.rttSample c tsEcr else s
    let x := s.conn c
    let rest := x.unacked.filter (fun u => !(u.sentAt.isSome && cov u.frame.seq))
    let moved := (x.unacked.head?.map (·.frame.seq)) != (rest.head?.map (·.frame.seq))
    let timer := if moved then (if rest.any (·.sentAt.isSome) then some s.now else none) else x.timer
    let s := s.setConn c { x with unacked := rest, timer := timer }
    let s := if moved then s.setCn c CN.RETRIES 0 else s
    let s := s.setCn c CN.SNDUNA ((rest.head?.map (·.frame.seq)).getD (s.cn c CN.SNDNXT))
    let gone := hit.map (·.frame.seq)
    let upd (o : RemOp) : RemOp := if o.cn = c then { o with seqs := o.seqs.filter (fun q => !gone.contains q) } else o
    let done := (s.net.ops.map upd).filter (fun o => o.cn == c && o.seqs == [])
    let s := { s with net := { s.net with
      ops := s.net.ops.map upd
      txq := s.net.txq.filter (fun f => f.cn != c || f.flags / 8 % 2 == 0 || !gone.contains f.seq) } }
    (done.foldl (fun (s : State) (o : RemOp) => s.opDone o .done) s).tryClose c

/-- Sequence numbers below Cum and in the SACK blocks. -/
def covers (cum : Nat) (blocks : List (Nat × Nat)) (q : Nat) : Bool :=
  (decide (0 < serDist cum q) && decide (serDist cum q < 2 ^ 31)) ||
  blocks.any (fun (b : Nat × Nat) => decide (serDist q b.1 < serDist b.2 b.1))

/-- ECE on an ACK (R369): cwnd halves at most once per SRTT. -/
def State.ackEce (s : State) (c : Nat) : State :=
  let x := s.conn c
  if s.cn c CN.ECN = 0 then s
  else
    let cut := match x.lastCut with
      | none => true
      | some t => s.passed t (s.cn c CN.SRTT)
    if cut then
      (s.setConn c { x with lastCut := some s.now, lastGrow := s.now }).setCn c CN.CWND (max 1 (s.cn c CN.CWND / 2))
    else s.setConn c { x with lastGrow := s.now }

/-- ACK (R353, R362). -/
def State.recvAck (s : State) (f : Frame) (c : Nat) : State :=
  let b := (List.range (leAt f.subhdr 4 1)).map (fun i => (leAt f.subhdr (8 + 8 * i) 4, leAt f.subhdr (12 + 8 * i) 4))
  let s := if bitN f.typeCls.toNat 5 then s.ackEce c else s
  s.ackFrames c (covers (leAt f.subhdr 0 4) b) f.tsEcr.toNat

/-- NAK (R353, R362): the operation of a named frame completes with the entry's status; the frame is complete. -/
def State.recvNak (s : State) (f : Frame) (c : Nat) : State :=
  (List.range (leAt f.subhdr 0 1)).foldl (fun (s : State) (i : Nat) =>
    let q := leAt f.subhdr (8 + 8 * i) 4
    let st := Status.ofCode (leAt f.subhdr (12 + 8 * i) 1)
    if !((s.conn c).unacked.any (fun u => u.frame.seq == q && u.sentAt.isSome)) then s
    else
      let s := match s.net.ops.find? (fun o => o.cn == c && o.seqs.contains q) with
        | some o => s.opDone o st
        | none => s
      s.ackFrames c (· == q) f.tsEcr.toNat) s

/-! ### What a frame does (R362, R366 step 10) -/

/-- Payload bytes with the poison of their 64 B parts (R353). -/
def frameData (f : Frame) (mask : Nat) : List (Byte × Bool) := f.pay.mapIdx (fun i b => (b, bitN mask (i / 64)))

/-- WRITE (R353, R355). -/
def State.rxWrite (s : State) (f : Frame) : Status × State :=
  let a := leAt f.subhdr 0 8 % 2 ^ 47
  let h := leAt f.subhdr 8 2
  let n := f.pay.length
  let st := s.windowCheck h a n f.srcDev.toNat WIN.PW
  let st := if st ≠ .done then st else s.access .remote true a n
  if st ≠ .done then (st, s.winRefuse st)
  else
    let w := h % 1024
    let s := s.setF (.win w WIN.ACCEPTED.w) WIN.ACCEPTED (wrapAdd 64 (s.f (.win w WIN.ACCEPTED.w) WIN.ACCEPTED) 1)
    (.done, s.landBytes f.srcDev.toNat f.srcUnit.toNat a (frameData f (frameTaint f (leAt f.subhdr 16 8))))

/-- READ_REQ (R353, R355, R362): its READ_RESP fragments are queued on the connection it came on. -/
def State.rxReadReq (s : State) (f : Frame) (c : Nat) : Status × State :=
  let a := leAt f.subhdr 0 8 % 2 ^ 47
  let n := leAt f.subhdr 10 2
  let tag := leAt f.subhdr 12 4
  if n = 0 ∨ 4096 < n then (.badDescriptor, s)
  else
    let st := s.windowCheck (leAt f.subhdr 8 2) a n f.srcDev.toNat WIN.PR
    let st := if st ≠ .done then st else s.access .remote false a n
    if st ≠ .done then (st, s.winRefuse st)
    else if s.cn c CN.STATE ≠ cnOpen then (.done, s)
    else
      let s := s.readFrom f.srcDev.toNat f.srcUnit.toNat [(a, n)]
      let d := (List.range n).map (fun i => (s.byte (a + i), s.poisonedAt (a + i) 1))
      let mask := if meshBad f.mesh then fullMask true n else runMask d
      let fr := (pieces (s.conn c).maxpay (n + 1) 0 (d.map (·.1))).map (fun (e : Nat × List Byte) =>
        (leBytes 4 tag ++ leBytes 1 0 ++ zeros 1 ++ leBytes 2 e.1 ++ leBytes 8 (maskPiece mask e.1 e.2.length), e.2))
      (.done, s.startOp c tReadResp (uPort f.port) true fr .none)

/-- READ_RESP (R353, R362): the data is delivered to the requester. -/
def State.rxReadResp (s : State) (f : Frame) : Status × State :=
  let tag := leAt f.subhdr 0 4
  let st := Status.ofCode (leAt f.subhdr 4 1)
  match s.net.reads.find? (fun r => r.tag == tag) with
  | none => (.done, s)
  | some r =>
    let r' := { r with got := r.got ++ [(leAt f.subhdr 6 2, f.pay)], poison := r.poison || frameTaint f (leAt f.subhdr 8 8) != 0 }
    let s := { s with net := { s.net with reads := updFirst (fun x => x.tag == tag) (fun _ => r') s.net.reads } }
    if st ≠ .done then (.done, s.readDone tag st)
    else if r.len ≤ coverFrom r'.got (r'.got.length + 1) 0 then (.done, s.readDone tag .done)
    else (.done, s)

/-- A RADD message (R331, R353): one that is answered later stays incomplete. A trailer whose element messages may still be on
their way waits until every lower number of its connection has come. -/
def State.rxRadd (s : State) (f : Frame) (c : Nat) (trailer : Bool) : Option Status × State :=
  let w (o n : Nat) : Nat := leAt f.subhdr o n
  let m : RaddMsg := {
    trailer := trailer, tag := w 8 2 % 4096, epoch := w 8 2 / 4096, tick := w 12 4
    k16 := !trailer && bitN (w 11 1) 0, addr := if trailer then 0 else w 0 8 % 2 ^ 47, data := if trailer then [] else f.pay
    mask := if trailer then 0 else frameTaint f (w 16 8), f := if trailer then w 11 1 % 64 else 0, count := if trailer then w 0 4 else 0
    cksum := if trailer then w 16 8 else 0, dev := f.srcDev.toNat, unit := f.srcUnit.toNat }
  let q := f.seq.toNat
  if s.trailerEarly m && decide (serDist q (s.rcvNxt c) < 2 ^ 31) then
    (none, { s with red := { s.red with early := s.red.early ++ [(c, q, m)] } })
  else s.raddTake m (.frame c q)

/-- The trailers of a connection that wait, once no lower number of it is missing (R327). -/
def State.earlyTrailers (s : State) (c : Nat) : State :=
  let ok (e : Nat × Nat × RaddMsg) : Bool := e.1 == c && decide (2 ^ 31 ≤ serDist e.2.1 (s.rcvNxt c))
  (s.red.early.filter ok).foldl (fun (s : State) (e : Nat × Nat × RaddMsg) =>
    match s.raddTake e.2.2 (.frame c e.2.1) with
    | (some st, s) => s.completeFrame c e.2.1 st
    | (none, s) => s) { s with red := { s.red with early := s.red.early.filter (fun e => !ok e) } }

/-- A CLEAT_OP result returns to its issuer (R357): TAKE's result goes to the unit, a failed ADD, SUB or SET sets PROXY. -/
def State.rxCleatResult (s : State) (f : Frame) : State :=
  let w (o n : Nat) : Nat := leAt f.subhdr o n
  let st := if meshBad f.mesh then .poisoned else Status.ofCode (w 4 1)
  let r : CltResult := {
    value := w 0 4, st := st, err := Status.ofCode (w 5 1), state := w 6 1, epoch := w 7 1, tick := w 8 4 }
  s.proxyTake (w 16 4) (fun s p =>
    (if p.op ≠ 4 ∧ st ≠ .done then s.tpErr TP_ERR.PROXY (uPort f.port) else s).proxyReturn p r)

/-- CLEAT_OP (R297, R353, R366). An operation that an uncorrectable flit carried has no effect and returns POISONED (R28, log
entry 84). -/
def State.rxCleatOp (s : State) (f : Frame) (c : Nat) : Status × State :=
  let w (o n : Nat) : Nat := leAt f.subhdr o n
  let x := s.cleat (CltReq.ofWords (w 0 8) (w 8 8)).index
  if w 20 1 = 0 ∧ meshBad f.mesh then
    (.done, s.cltReturn (.remote c (w 16 4)) (f.srcDev.toNat * 65536 + f.srcUnit.toNat) (s.cltResult x x.value .poisoned x.err))
  else if w 20 1 = 0 then
    (.done, s.cltOp (CltReq.ofWords (w 0 8) (w 8 8)) (f.srcDev.toNat * 65536 + f.srcUnit.toNat) (.remote c (w 16 4)) false)
  else (.done, s.rxCleatResult f)

/-- SHROUD (R307, R308): a stale generation and a second ARRIVE are dropped and counted. -/
def State.rxShroud (s : State) (f : Frame) (kind : Nat) : Status × State :=
  let w (o n : Nat) : Nat := leAt f.subhdr o n
  let g := w 0 1 % 16
  let slot := w 2 1 % 16
  let st := Status.ofCode (w 3 1)
  let stale (s : State) : State := s.incSat .shrStale SHR_STALE.CNT
  if !s.bit (.shrGrp g) SHR_GRP.VALID || w 4 2 != s.shrStat g SHR_STAT.GEN then (.done, stale s)
  else if s.bit (.shrStat g) SHR_STAT.LOST then (.done, s)
  else if kind = 0 then
    let arr := s.shrStat g SHR_STAT.ARRIVED
    if slot = 15 ∨ bitN arr slot then (.done, stale s)
    else
      let x := s.shrGrp g
      let s := (s.setF (.shrStat g) SHR_STAT.ARRIVED (arr + 2 ^ slot)).setShr g { x with st := Status.or x.st st }
      (.done, s.shrStage g)
  else (.done, s.shrRelease g st false)

/-- A HALYARD or DOWNHAUL fragment (R273, R285, R354): none while the fragment waits for its notification. A reply without
payload carries its status where its handle would stand (log entry 21). -/
def State.rxHal (s : State) (f : Frame) (c : Nat) (reply : Bool) : Option Status × State :=
  let w (o n : Nat) : Nat := leAt f.subhdr o n
  let land := w 0 8
  let total := land / 2 ^ 47 % 512
  let frag := land / 2 ^ 56
  let mp := (s.conn c).maxpay
  let first := (f.seq.toNat + 2 ^ 32 - frag * 16 / mp) % 2 ^ 32
  let m : HalMsg := {
    reply := reply, dst := w 10 2, src := w 12 2, dev := f.srcDev.toNat, slot := w 14 1 % 64, gen := w 15 1 % 16
    land := land % 2 ^ 47, handle := w 8 2, total := total }
  if reply ∧ total = 0 then
    if halEps ≤ m.dst then (some .badDescriptor, s)
    else if isHalyard m.dst then (some .badDescriptor, s.incSat (.halDrop (m.dst / 128)) HAL_DROP.REFUSED)
    else
      (some (if s.resvLive m.dst m.slot m.gen then .done else .staleEpoch),
        s.emptyReply m.dst m.slot m.gen m.src m.dev (Status.ofCode (m.handle % 256)))
  else
    let s := if s.net.reasm.any (fun r => r.cn == c && r.first == first) then s
      else
        let live := s.resvLive m.dst m.slot m.gen
        let (st, note, s) := s.halDecide m
        let s := if st = .windowClosed ∨ (st = .staleEpoch ∧ (!reply ∨ live)) then s.winRefuse st else s
        let s := match note with
          | some n => s.addLanding m.dst { note := n, src := .msg c first }
          | none => s
        { s with net := { s.net with reasm := s.net.reasm ++ [{
            cn := c, first := first, st := st, land := (note.map (·.addr)).getD 0, total := total, got := [],
            granules := 0, poison := false, ep := m.dst }] } }
    match s.net.reasm.find? (fun r => r.cn == c && r.first == first) with
    | none => (some .badDescriptor, s)
    | some r =>
      let g := (f.pay.length + 15) / 16
      let set (s : State) (r' : Reasm) : State :=
        { s with net := { s.net with reasm := updFirst (fun x => x.cn == c && x.first == first) (fun _ => r') s.net.reasm } }
      let r' := { r with got := r.got ++ [frag], granules := r.granules + g }
      let all := decide (r.total ≤ r'.granules)
      if r.st ≠ .done then
        (some r.st, if all then
          { s with net := { s.net with reasm := s.net.reasm.filter (fun x => !(x.cn == c && x.first == first)) } }
          else set s r')
      else if r.total < frag + g then (some .badDescriptor, s)
      else
        let mask := frameTaint f (w 16 8)
        let r' := { r' with poison := r.poison || mask != 0, last := some f.seq.toNat }
        let s := (set s r').landBytes f.srcDev.toNat f.srcUnit.toNat (r.land + frag * 16) (frameData f mask)
        if all then
          let x := s.chan r.ep
          let up (l : HalLand) : HalLand := { l with ready := true, note := { l.note with poison := r'.poison } }
          (none, s.setChan r.ep { x with landing := updFirst (fun l => l.src == .msg c first) up x.landing })
        else (some .done, s)

/-- CONTROL on a connection (R548): CMD and DATA_IN of a HOST connection go to crowsnest. -/
def State.rxControl (s : State) (f : Frame) (c sub : Nat) : Status × State :=
  let host := s.cn c CN.HOST == 1
  if host && (sub == 0x10 || sub == 0x12) then (.done, s.mbxMsg (.conn c) false sub f.pay)
  else if !host && decide (0x10 ≤ sub) && decide (sub ≤ 0x1F) then (.denied, s.mbxDrop)
  else (.badDescriptor, s.mbxDrop)

/-- A sequenced frame of type `typ` that passes steps 1 to 9 of R366; `sub` is the subtype of a CONTROL frame, the kind of
a RADD or SHROUD frame. A HOST connection carries only CONTROL (R358; DEDUCED, log entry 31). The links that its flits cross
count and record their errors; CONTROL, SHROUD and trailers have no place for poison and end with POISONED (R28, log entry 84). -/
def State.rxPerform (s : State) (f : Frame) (c typ sub : Nat) : Option Status × State :=
  let one (r : Status × State) : Option Status × State := (some r.1, r.2)
  let s := s.meshErrors f.mesh
  if meshBad f.mesh && (typ == tControl || typ == tShroud || (typ == tRadd && sub == 1)) then (some .poisoned, s)
  else if typ = tControl then one (s.rxControl f c sub)
  else if s.cn c CN.HOST = 1 then (some .denied, s)
  else if typ = tWrite then one (s.rxWrite f)
  else if typ = tReadReq then one (s.rxReadReq f c)
  else if typ = tReadResp then one (s.rxReadResp f)
  else if typ = tRadd then s.rxRadd f c (sub == 1)
  else if typ = tCleatOp then one (s.rxCleatOp f c)
  else if typ = tHalyard then s.rxHal f c false
  else if typ = tDownhaul then s.rxHal f c true
  else if typ = tShroud then one (s.rxShroud f sub)
  else (some .badDescriptor, s)

/-- A frame that has passed steps 1 to 7 of R366. One that fails step 9 is not taken: neither its acknowledgement nor what it
does; an unsequenced one has no number that a NAK could name (DEDUCED, log entry 31). -/
def State.rxFrame (s : State) (f : Frame) (c typ sub : Nat) : State :=
  let x := s.conn c
  let ce := f.ce && s.cn c CN.ECN == 1
  let s := s.setConn c { x with lastRx := s.now, tsRecent := f.tsVal.toNat, ece := x.ece || ce }
  let pass := f.dstDev.toNat == s.dev && s.devAssigned || (!s.devAssigned && s.cn c CN.HOST == 1)
  if typ = tAck then (if pass then s.recvAck f c else s)
  else if typ = tNak then (if pass then s.recvNak f c else s)
  else
    let s := if pass then s.ackFrames c (covers f.ackSeq.toNat []) f.tsEcr.toNat else s
    if typ = tHeartbeat ∨ (s.cn c CN.STATE ≠ cnOpen ∧ s.cn c CN.STATE ≠ cnClosing) then s
    else
      let q := f.seq.toNat
      let d := serDist q (s.rcvNxt c)
      if 2 ^ 31 ≤ d ∨ (s.conn c).marked.contains q then (if s.frameDone c q then s.sendAck c else s)
      else if 4096 ≤ d then s
      else
        let s := s.markFrame c q (bitN f.verFlags.toNat 1)
        let (r, s) := if pass then s.rxPerform f c typ sub else (some .denied, s)
        let s := match r with
          | some st => s.completeFrame c q st
          | none => s
        s.earlyTrailers c

/-- The FEC codewords that came with a frame are counted; corrected ones are corrected errors (R374, R482). -/
def State.fecCount (s : State) (f : Frame) : State :=
  let r := Reg.portFec f.port f.sub
  let add (F : Field) (n : Nat) (s : State) : State := if n = 0 then s else s.setF r F (min (s.f r F + n) (2 ^ 32 - 1))
  let s := add PORT_FEC.UNCORR f.fec.2 (add PORT_FEC.CORR f.fec.1 s)
  if f.fec.1 = 0 then s else s.ceAdd f.fec.1

/-- A received Ghenko frame of type `typ` (R366). -/
def State.rx (s : State) (f : Frame) (typ sub : Nat) : State :=
  let c := f.conn.toNat % 4096
  let st := s.cn c CN.STATE
  let s := s.fecCount f
  match s.portRefuses f with
  | some F => s.incSat (.portDrop f.port f.sub) F
  | none =>
  if frameBad f typ then s.tpDrop TP_DROP.UNKNOWN
  else if bitN f.verFlags.toNat 0 then
    if typ = tControl then s.recvNc f sub else s.tpDrop TP_DROP.UNKNOWN
  else if typ = tAbort ∨ s.cn c CN.VALID = 0 ∨ (s.cn c CN.HOST = 0 ∧ s.cn c CN.PEER ≠ f.srcDev.toNat) then
    s.tpDrop TP_DROP.UNKNOWN
  else if s.cn c CN.EPOCH ≠ f.conn.toNat / 4096 then s.tpDrop TP_DROP.STALE
  else if (st ≠ cnOpen ∧ st ≠ cnClosing) ∨ (s.cn c CN.HOST = 0 ∧ !s.devAssigned) then s.tpDrop TP_DROP.UNKNOWN
  else if s.cn c CN.PROT = 1 ∧ !(((s.conn c).rxKey.map (frameTagOk f)).getD false) then s.authDrop f.port
  else (s.rxFrame f c typ sub).shroudPass

end Sys2Proof.Machine
end

