-- ==== Sys2Proof/Machine/Ptp.lean ====
section
/-! DEFINITION. PTP messages at a sub-port (13_ghenko_ethernet.md R346, R348): where a message stands in a frame, what crowsnest
answers, and the timestamp of an event message that leaves. The layout of PTP messages and headers is that of IEEE 1588-2019,
which R346 names (PRESUMED, log entry 86). -/

namespace Sys2Proof.Machine

/-- The one's-complement sum of bytes, folded to 16 bits and inverted. -/
def inetSum (l : List Byte) : Nat :=
  let s := (List.range ((l.length + 1) / 2)).foldl (fun (a : Nat) (i : Nat) => a + beNat (fit 2 ((l.drop (2 * i)).take 2))) 0
  let s := s / 65536 + s % 65536
  let s := s / 65536 + s % 65536
  65535 - s

/-- `n` bytes of a frame at `o`, most significant first. -/
def beAt (l : List Byte) (o n : Nat) : Nat := beNat ((l.drop o).take n)

/-- The offset of the EtherType of a frame, behind a C-tag. -/
def etherAt (l : List Byte) : Nat := if beAt l 12 2 = 0x8100 then 16 else 12

/-- The offset of the UDP header of a frame; none: it carries no IP. -/
def udpAt (l : List Byte) : Option Nat :=
  let o := etherAt l
  if beAt l o 2 = 0x0800 then some (o + 2 + beAt l (o + 2) 1 % 16 * 4)
  else if beAt l o 2 = 0x86DD then some (o + 42) else none

/-- The offset of the PTP header of a frame that carries PTP. -/
def ptpAt (l : List Byte) : Nat :=
  match udpAt l with
  | some u => u + 8
  | none => etherAt l + 2

/-- A frame with its UDP checksum computed again. -/
def udpSummed (l : List Byte) : List Byte :=
  match udpAt l with
  | none => l
  | some u =>
    let ip := etherAt l + 2
    let six := beAt l (ip - 2) 2 == 0x86DD
    let n := beAt l (u + 4) 2
    let ends := if six then (l.drop (ip + 8)).take 32 else (l.drop (ip + 12)).take 8
    let sum := inetSum (ends ++ beBytes 2 17 ++ beBytes 2 n ++ (putAt l (u + 6) (zeros 2)).drop u)
    putAt l (u + 6) (beBytes 2 (if sum = 0 then 65535 else sum))

/-- The event message that answers one that has come: Delay_Req to Sync, Pdelay_Resp to Pdelay_Req. -/
def ptpAnswer (typ : Nat) : Option Nat := if typ = 0 then some 1 else if typ = 2 then some 3 else none

/-- The frame that carries the answer `typ` to a frame: addresses turned round, the port identity of `mac`, the time and fraction
`at_` at which the request came in a Pdelay_Resp. -/
def ptpFrame (l : List Byte) (mac typ : Nat) (at_ : Nat × Nat) : List Byte :=
  let h := ptpAt l
  let ip := etherAt l + 2
  let own := beBytes 3 (mac / 2 ^ 24) ++ [0xFF, 0xFE] ++ beBytes 3 (mac % 2 ^ 24) ++ beBytes 2 1
  let d := putAt (putAt l 0 ((l.drop 6).take 6)) 6 (beBytes 6 mac)
  let d := match udpAt l with
    | none => d
    | some _ => if beAt l (ip - 2) 2 = 0x86DD then putAt (putAt d (ip + 8) ((l.drop (ip + 24)).take 16)) (ip + 24) ((l.drop (ip + 8)).take 16)
      else putAt (putAt d (ip + 12) ((l.drop (ip + 16)).take 4)) (ip + 16) ((l.drop (ip + 12)).take 4)
  let d := putAt d h [BitVec.ofNat 8 (beAt l h 1 / 16 * 16 + typ)]
  let d := putAt (putAt d (h + 8) (zeros 8)) (h + 20) own
  let body := if typ = 3 then beBytes 6 (at_.1 / 1000000000) ++ beBytes 4 (at_.1 % 1000000000) ++ (l.drop (h + 20)).take 10
    else zeros 10
  udpSummed (putAt d (h + 34) body)

/-- The answer of crowsnest to a PTP frame that a sub-port has accepted: a frame for it, where PTP_CONFIG gives the sub-port a
role and the domain is that of the message (R346; which messages it answers: DESIGN CHOICE, log entry 86). -/
def State.ptpReply (s : State) (p b : Nat) (l : List Byte) : State :=
  let c := Tbl.get (0, 0, 0) s.net.ptp (p, b)
  let h := ptpAt l
  match ptpAnswer (beAt l h 1 % 16) with
  | some t =>
    if c.1 = 0 ∨ beAt l (h + 4) 1 ≠ c.2.2 then s
    else s.enqueue {
      port := p, sub := b, queue := 2, cn := 4096, typ := 0, flags := 1, seq := 0, dst := 0, srcUnit := uCn 0, subhdr := []
      pay := ptpFrame l (s.f (.portMac p b) PORT_MAC.MAC) t (s.tbNs, s.tbFrac) }
  | none => s

/-- A PTP event message leaves (R348): in one-step mode the timestamp is written into it, the fraction added to its correction
field and its UDP checksum computed again; in two-step mode its timestamp enters PORT_TXTS, which holds 64 of a sub-port (one
that finds it full is lost: DESIGN CHOICE, log entry 86). -/
def State.ptpStamp (s : State) (p b : Nat) (l : List Byte) : List Byte × State :=
  let h := ptpAt l
  if (Tbl.get (0, 0, 0) s.net.ptp (p, b)).2.1 = 2 then
    let q := Tbl.get [] s.net.txts (p, b)
    (l, if 64 ≤ q.length then s else
      { s with net := { s.net with txts := Tbl.set s.net.txts (p, b) (q ++ [(s.tbNs, s.tbFrac, beAt l (h + 30) 2)]) } })
  else
    let at_ := beBytes 6 (s.tbNs / 1000000000) ++ beBytes 4 (s.tbNs % 1000000000)
    let corr := beBytes 8 (beAt l (h + 8) 8 + s.tbFrac)
    (udpSummed (putAt (putAt l (h + 34) at_) (h + 8) corr), s)

end Sys2Proof.Machine
end

