-- ==== Sys2Proof/Machine/NetCommands.lean ====
section
/-! DEFINITION. The commands of the transport and the ports (13_ghenko_ethernet.md), and the frames of other chapters: RADD
(12), SHROUD (11), HALYARD and DOWNHAUL (10), CONTROL (15). A row named after a frame type takes that type, or that
CONTROL subtype, whatever code its frame carries in that place. -/

namespace Sys2Proof.Machine

/-! ### Frames that leave (R350 to R352, R360, R367) -/

/-- The base header of a frame that leaves (R352). -/
def TxFrame.base (f : TxFrame) (dev : Nat) : List Byte :=
  leBytes 1 (16 + f.flags % 16) ++
  leBytes 1 (f.typ + (if f.queue = 0 then 16 else 0) + (if bitN f.flags 4 then 32 else 0)) ++
  leBytes 2 f.conn ++ leBytes 4 f.seq ++ leBytes 4 f.ackSeq ++ leBytes 4 dev ++ leBytes 4 f.dst ++
  leBytes 2 f.srcUnit ++ leBytes 2 f.pay.length ++ leBytes 4 f.tsVal ++ leBytes 4 f.tsEcr

/-- Encapsulation of a PDU on connection `c` (R350, R367): MAC header, C-tag, and IP and UDP headers. Addresses in registers
are numbers whose most significant byte leaves first (PRESUMED, log entry 32). -/
def State.encapBytes (s : State) (c : Nat) (express : Bool) (pdu : List Byte) : List Byte :=
  let port := s.cn c CN.PORT
  let sub := s.cn c CN.SUB
  let enc := s.cn c CN.ENCAP
  let ix := s.cn c CN.IPIDX
  let vid := s.cn c CN.VID
  let e (F : Field) : Nat := s.f .tpEncap F
  let pcp := if express then e TP_ENCAP.EXPCP else e TP_ENCAP.BULKPCP
  let dscp := if express then e TP_ENCAP.EXDSCP else e TP_ENCAP.BULKDSCP
  let tc := dscp * 4 + (if s.cn c CN.ECN = 1 then 2 else 0)
  let h := Config.connHash c
  let w (r : Reg) : Nat := (s.rd r).toNat
  let mac := if enc = 0 then s.cn c CN.PEERMAC else s.f (.ipt ix 2) IPT.NEXTHOP
  let l2 := beBytes 6 mac ++ beBytes 6 (s.f (.portMac port sub) PORT_MAC.MAC) ++
    (if vid = 0 then [] else beBytes 2 0x8100 ++ beBytes 2 (pcp * 8192 + vid))
  let udpLen := 8 + pdu.length
  let ports := beBytes 2 (0xC000 + h % 0x4000) ++ beBytes 2 (e TP_ENCAP.UDPPORT)
  let dst6 := beBytes 8 (w (.ipt ix 1)) ++ beBytes 8 (w (.ipt ix 0))
  if enc = 0 then l2 ++ beBytes 2 (e TP_ENCAP.ETYPE)
  else if enc = 1 then
    let src6 := beBytes 8 (w (.portIp6 port sub 1)) ++ beBytes 8 (w (.portIp6 port sub 0))
    let sum := inetSum (src6 ++ dst6 ++ beBytes 4 udpLen ++ beBytes 4 17 ++ ports ++ beBytes 2 udpLen ++ pdu)
    l2 ++ beBytes 2 0x86DD ++ beBytes 4 (6 * 2 ^ 28 + tc * 2 ^ 20 + h % 2 ^ 20) ++ beBytes 2 udpLen ++ beBytes 1 17 ++
      beBytes 1 64 ++ src6 ++ dst6 ++ ports ++ beBytes 2 udpLen ++ beBytes 2 (if sum = 0 then 65535 else sum)
  else
    let ip (sum : Nat) : List Byte := beBytes 1 0x45 ++ beBytes 1 tc ++ beBytes 2 (20 + udpLen) ++
      beBytes 2 (Config.freeNat s.free) ++ beBytes 2 0x4000 ++ beBytes 1 64 ++ beBytes 1 17 ++ beBytes 2 sum ++
      beBytes 4 (s.f (.portIp4 port sub) PORT_IP4.ADDR) ++ dst6.drop 12
    let sum := inetSum ((ip 0).drop 12 ++ beBytes 2 17 ++ beBytes 2 udpLen ++ ports ++ beBytes 2 udpLen ++ pdu)
    l2 ++ beBytes 2 0x0800 ++ ip (inetSum (ip 0)) ++ ports ++ beBytes 2 udpLen ++
      beBytes 2 (if sum = 0 then 65535 else sum)

/-- The PDU of a frame under a key (R351). -/
def TxFrame.pdu (f : TxFrame) (dev : Nat) (key : Option (List Byte)) : List Byte × List Byte :=
  match key with
  | none => (f.base dev ++ f.subhdr ++ f.pay, [])
  | some k =>
    let cnt := leBytes 8 f.txCnt
    let tag := Config.gcmTag k (ghenkoNonce f.txCnt) (f.base dev ++ cnt) (f.subhdr ++ f.pay)
    (f.base dev ++ cnt ++ Config.gcmEnc k (ghenkoNonce f.txCnt) (f.subhdr ++ f.pay) ++ tag, tag)

/-- The frame is sequenced (R353). -/
def TxFrame.sequenced (f : TxFrame) : Bool := f.cn != 4096 && f.queue != 1 && f.typ != tHeartbeat

/-- A frame may leave now: its link is up, its priority is not paused, its connection's window takes it (R346, R360). -/
def State.maySend (s : State) (f : TxFrame) : Bool :=
  let x := s.conn f.cn
  let pcp := if f.queue = 0 then s.f .tpEncap TP_ENCAP.EXPCP else s.f .tpEncap TP_ENCAP.BULKPCP
  let first := f.sequenced && !bitN f.flags 3
  s.bit (.portStat f.port f.sub) PORT_STAT.LINK &&
  !s.net.pauses.any (fun (e : (Nat × Nat × Nat) × Nat) => e.1 == (f.port, f.sub, pcp) && decide (s.now < e.2)) &&
  (!first || (decide (x.flight true < s.connW f.cn) && (f.queue == 0 || decide (x.flight false < s.cn f.cn CN.CWND))))

/-- The first frame of each bulk connection of a sub-port, in order of the round robin after `last` (R367). -/
def bulkOrder (l : List TxFrame) (last : Nat) : List TxFrame :=
  let firsts := l.foldl (fun (a : List TxFrame) (f : TxFrame) => if a.any (fun g => g.cn == f.cn) then a else a ++ [f]) []
  let rank (c : Nat) : Nat := (c + 4096 - last) % 4097
  firsts.foldl (fun (a : List TxFrame) (f : TxFrame) =>
    (a.filter (fun g => decide (rank g.cn ≤ rank f.cn))) ++ [f] ++ a.filter (fun g => decide (rank f.cn < rank g.cn))) []

/-- The frame a sub-port sends next (R367). -/
def State.nextFrame (s : State) (p b : Nat) : Option TxFrame :=
  let l := s.net.txq.filter (fun f => f.port == p && f.sub == b)
  match l.find? (fun f => f.queue == 0 && s.maySend f) with
  | some f => some f
  | none => match l.find? (fun f => f.queue == 1 && s.maySend f) with
    | some f => some f
    | none => (bulkOrder (l.filter (fun f => f.queue == 2)) (Tbl.get 4096 s.net.rr (p, b))).find? s.maySend

/-- An Ethernet frame of crowsnest leaves its port: a PTP event message with its timestamp (R348). -/
def State.sendEther (s : State) (f : TxFrame) : State :=
  let (d, s) := s.ptpStamp f.port f.sub f.pay
  { s with net := { s.net with txq := delFirst (fun g => g == f) s.net.txq, sent := s.net.sent ++ [{ f with pay := d }] } }

/-- A frame carries the completion of command `seq` of mailbox `i` (R398, R399). -/
def TxFrame.completes (f : TxFrame) (i seq : Nat) : Bool :=
  f.typ == tControl && leAt f.subhdr 0 1 == 0x11 && leAt f.pay 0 1 == i &&
  (List.range (leAt f.pay 2 1)).any (fun k => leAt f.pay (16 + 64 * k) 2 == seq % 65536)

/-- The completion that an ordered warm reset runs from leaves its port: the reset begins 100 µs later (R411). -/
def State.warmFrom (s : State) (f : TxFrame) : State :=
  match s.boot.warmFor with
  | some (i, q, r) =>
    if f.completes i q then { s with boot := { s.boot with warmFor := none, warmAt := some (s.now + 100000, r) } } else s
  | none => s

/-- A frame leaves its port (R349, R351, R352, R363, R364, R411). -/
def State.sendFrame (s : State) (f : TxFrame) : State :=
  if f.typ = 0 then s.sendEther f else
  let s := s.warmFrom f
  let x := s.conn f.cn
  let own := f.cn != 4096
  let first := f.sequenced && !bitN f.flags 3
  let limit := min (s.connW f.cn) (if f.queue = 0 then 4096 else s.cn f.cn CN.CWND)
  let req := first && decide (3 * limit ≤ 4 * (x.flight true + 1)) && !bitN f.flags 1
  let key := match f.ctl with
    | some (_, _, k) => if k = [] then none else some k
    | none => if own && s.cn f.cn CN.PROT == 1 then some (x.txKey.getD []) else none
  let f' := { f with
    flags := if req then f.flags + 2 else f.flags, conn := if own then s.cn f.cn CN.PEERCONN else 0
    ackSeq := if own then s.cumOf f.cn else 0, tsVal := s.tbNs % 2 ^ 32, tsEcr := if own then x.tsRecent else 0
    txCnt := match f.ctl with | some (_, n, _) => n | none => if key.isSome then x.txCnt else 0 }
  let (pdu, tag) := f'.pdu s.dev key
  let enc := match f.ctl with
    | some (c, _, _) => s.encapBytes c false pdu
    | none => if own then s.encapBytes f.cn (f.queue == 0) pdu else []
  let mark (u : Unacked) : Unacked := if u.frame.seq = f.seq ∧ u.sentAt.isNone then { u with sentAt := some s.now } else u
  let x' := if !own then x else
    { x with lastTx := s.now, txCnt := if key.isSome then x.txCnt + 1 else x.txCnt
             unacked := if f.sequenced then x.unacked.map mark else x.unacked
             timer := if first && x.timer.isNone then some s.now else x.timer }
  let s := if own then s.setConn f.cn x' else s
  { s with net := { s.net with
    txq := delFirst (fun g => g == f) s.net.txq
    sent := s.net.sent ++ [{ f' with
      tag := tag, encap := enc
      an := if s.macsecOn f.port f.sub then some (s.f (.portStat f.port f.sub) PORT_STAT.AN_CUR) else none }]
    rr := if f.queue = 2 then Tbl.set s.net.rr (f.port, f.sub) f.cn else s.net.rr } }

/-- The congestion window grows by 1 after each SRTT without ECE (R369). -/
def State.growCwnd (s : State) (c : Nat) : State :=
  let x := s.conn c
  if s.cn c CN.ECN = 1 ∧ s.cn c CN.STATE = cnOpen ∧ x.hasSrtt ∧ s.passed x.lastGrow (s.cn c CN.SRTT) then
    (s.setConn c { x with lastGrow := s.now }).setCn c CN.CWND (min (s.connW c) (s.cn c CN.CWND + 1))
  else s

/-- The PFC frames that the ports generate (R346): where priorities of a port honour PFC, its sub-ports ask their peers for pauses
on them as their receive buffers fill, which the spec does not give (DESIGN CHOICE, log entry 87). -/
def State.sendPfc (s : State) : State :=
  (List.range 18).foldl (fun (s : State) (p : Nat) =>
    let on := s.f (.portCfg p) PORT_CFG.PFC
    if on = 0 then s
    else (List.range 4).foldl (fun (s : State) (b : Nat) =>
      match Config.pfcAsk s.refs p b with
      | none => s
      | some q =>
        if !s.bit (.portStat p b) PORT_STAT.LINK then s
        else
          let d := beBytes 6 0x0180C2000001 ++ beBytes 6 (s.f (.portMac p b) PORT_MAC.MAC) ++ beBytes 2 0x8808 ++
            beBytes 2 0x0101 ++ beBytes 2 on ++
            (List.range 8).flatMap (fun i => beBytes 2 (if bitN on i then q.getD i 0 else 0)) ++ zeros 26
          let f : TxFrame := {
            port := p, sub := b, queue := 0, cn := 4096, typ := 0, flags := 1, seq := 0, dst := 0, srcUnit := uPort p
            subhdr := [], pay := d }
          { s with net := { s.net with sent := s.net.sent ++ [f] } }) s) s

/-- One reference period of the transport: each sub-port sends the first frame it may (log entry 1). -/
def State.netClock (s : State) : State :=
  let s := (State.rekeyPass { s with net := { s.net with sent := [] } }).sendPfc
  let s := s.net.conns.foldl (fun (s : State) (e : Nat × Conn) => (s.growCwnd e.1).tryClose e.1) s
  let subs := s.net.txq.foldl (fun (l : List (Nat × Nat)) (f : TxFrame) =>
    if l.contains (f.port, f.sub) then l else l ++ [(f.port, f.sub)]) []
  subs.foldl (fun (s : State) (p : Nat × Nat) => match s.nextFrame p.1 p.2 with
    | some f => s.sendFrame f
    | none => s) s

/-! ### Frame rows -/

/-- WRITE. -/
def execWrite (f : Frame) (s : State) : Host.Outcome State Fault Refusal := .next (s.rx f tWrite 0)
/-- READ_REQ. -/
def execReadReq (f : Frame) (s : State) : Host.Outcome State Fault Refusal := .next (s.rx f tReadReq 0)
/-- READ_RESP. -/
def execReadResp (f : Frame) (s : State) : Host.Outcome State Fault Refusal := .next (s.rx f tReadResp 0)
/-- RADD, Kind 0: an element message (R331). -/
def execRaddElement (f : Frame) (s : State) : Host.Outcome State Fault Refusal := .next (s.rx f tRadd 0)
/-- RADD, Kind 1: a trailer (R331). -/
def execRaddTrailer (f : Frame) (s : State) : Host.Outcome State Fault Refusal := .next (s.rx f tRadd 1)
/-- CLEAT_OP. -/
def execCleatOp (f : Frame) (s : State) : Host.Outcome State Fault Refusal := .next (s.rx f tCleatOp 0)
/-- SHROUD ARRIVE (R308). -/
def execShroudArrive (f : Frame) (s : State) : Host.Outcome State Fault Refusal := .next (s.rx f tShroud 0)
/-- SHROUD RELEASE (R307). -/
def execShroudRelease (f : Frame) (s : State) : Host.Outcome State Fault Refusal := .next (s.rx f tShroud 1)
/-- ACK. -/
def execAck (f : Frame) (s : State) : Host.Outcome State Fault Refusal := .next (s.rx f tAck 0)
/-- NAK. -/
def execNak (f : Frame) (s : State) : Host.Outcome State Fault Refusal := .next (s.rx f tNak 0)
/-- HEARTBEAT. -/
def execHeartbeat (f : Frame) (s : State) : Host.Outcome State Fault Refusal := .next (s.rx f tHeartbeat 0)
/-- CONTROL OPEN. -/
def execOpenConn (f : Frame) (s : State) : Host.Outcome State Fault Refusal := .next (s.rx f tControl 1)
/-- CONTROL OPEN_ACK. -/
def execOpenAck (f : Frame) (s : State) : Host.Outcome State Fault Refusal := .next (s.rx f tControl 2)
/-- CONTROL CLOSE. -/
def execCloseConn (f : Frame) (s : State) : Host.Outcome State Fault Refusal := .next (s.rx f tControl 3)
/-- CONTROL CLOSE_ACK. -/
def execCloseAck (f : Frame) (s : State) : Host.Outcome State Fault Refusal := .next (s.rx f tControl 4)
/-- CONTROL CMD (R398, R400). -/
def execCmd (f : Frame) (s : State) : Host.Outcome State Fault Refusal := .next (s.rx f tControl 0x10)
/-- CONTROL DATA_IN (R398, R405). -/
def execDataIn (f : Frame) (s : State) : Host.Outcome State Fault Refusal := .next (s.rx f tControl 0x12)

/-- CONTROL of any other subtype (R548): the frame's own Sub; a Sub of another row is not this command. -/
def execControl (f : Frame) (s : State) : Host.Outcome State Fault Refusal :=
  let sub := leAt f.subhdr 0 1
  .next (if (1 ≤ sub ∧ sub ≤ 4) ∨ sub = 0x10 ∨ sub = 0x12 then s else s.rx f tControl sub)

/-- A halyard message or downhaul reply lands (R273, R285, R354): from a send slot of this device, or as a frame. -/
def execHalMessageLand (src : HalSrc) (s : State) : Host.Outcome State Fault Refusal :=
  .next <|
  match src with
  | .frame f => s.rx f (if f.typeCls.toNat % 16 = tDownhaul then tDownhaul else tHalyard) 0
  | .job o i mesh =>
    match s.job o i with
    | none => s
    | some x =>
      if x.phase ≠ .travel then s
      else
        let m : HalMsg := {
          reply := x.reply, dst := x.ep, src := x.src, dev := s.dev, slot := x.rslot, gen := x.rgen, land := x.land
          handle := x.handle, total := x.len / 16 }
        let (st, note, s) := s.halDecide m
        match note with
        | none => s.sendAnswer o i st
        | some n =>
          let d := if meshBad mesh then x.data.map (fun e => (e.1, true)) else x.data
          let s := (s.meshErrors mesh).landBytes s.dev (uHal o i) n.addr d
          let s := s.addLanding x.ep { note := { n with poison := d.any (·.2) }, src := .job o i, ready := true }
          s.setJob o i { x with phase := .landed }

/-! ### Ethernet frames that are not Ghenko (R346, R347, R349) -/

/-- What a frame is: 1 PTP, 2 LLDP, 3 another frame for crowsnest, 0 anything else (R347); `l` from the EtherType on. -/
def etherKind (l : List Byte) : Nat :=
  let b (o n : Nat) : Nat := beNat ((l.drop o).take n)
  let ptpPort (o : Nat) : Bool := b (o + 2) 2 == 319 || b (o + 2) 2 == 320
  let t := b 0 2
  if t = 0x88F7 then 1
  else if t = 0x88CC then 2
  else if t = 0x0806 then 3
  else if t = 0x0800 then
    let hl := b 2 1 % 16 * 4
    if b 11 1 = 17 ∧ ptpPort (2 + hl) then 1
    else if b 11 1 = 1 ∧ (b (2 + hl) 1 = 8 ∨ b (2 + hl) 1 = 0) then 3 else 0
  else if t = 0x86DD then
    if b 8 1 = 17 ∧ ptpPort 42 then 1
    else if b 8 1 = 58 ∧ ((133 ≤ b 42 1 ∧ b 42 1 ≤ 137) ∨ b 42 1 = 128 ∨ b 42 1 = 129) then 3 else 0
  else 0

/-- The bytes from the EtherType on are a Ghenko frame's (R350). -/
def State.isGhenko (s : State) (l : List Byte) : Bool :=
  let u (o : Nat) : Bool := beAt l (o + 2) 2 == s.f .tpEncap TP_ENCAP.UDPPORT
  beAt l 0 2 == s.f .tpEncap TP_ENCAP.ETYPE ||
  (beAt l 0 2 == 0x0800 && beAt l 11 1 == 17 && u (2 + beAt l 2 1 % 16 * 4)) ||
  (beAt l 0 2 == 0x86DD && beAt l 8 1 == 17 && u 42)

/-- Crowsnest answers a frame it has taken that carries PTP (`k` 1). -/
def State.ptpIn (k p b : Nat) (l : List Byte) (s : State) : State := if k = 1 then s.ptpReply p b l else s

/-- ETHERNET_FRAME_RX (R347, R349): `good` says that FCS, ICV and replay checks passed, `prot` that MACsec protected the
frame; `bytes` run from the destination MAC to before the FCS. A Ghenko frame goes to the transport: the row of its type is its
reception (log entry 85). Crowsnest answers a PTP event message (R346, R348). -/
def execEthernetFrameRx (port : Fin 18) (sub : Fin 4) (good prot : Bool) (bytes : List Byte) (s : State) :
    Host.Outcome State Fault Refusal :=
  .next <|
  let body := bytes.drop (etherAt bytes)
  let k := etherKind body
  let gh := s.isGhenko body
  let size := bytes.length + 4
  let vid := if etherAt bytes = 16 then some (beAt bytes 14 2 % 4096) else none
  if !good || (s.macsecOn port sub && !prot && k != 1 && k != 2) then s.incSat (.portDrop port sub) PORT_DROP.BAD
  else if size < 64 ∨ 4256 < size ∨ !s.macOk port sub (beAt bytes 0 6) vid ∨ (k = 0 ∧ !gh) then
    s.incSat (.portDrop port sub) PORT_DROP.FILT
  else if gh then s
  else State.ptpIn k port sub bytes { s with net := { s.net with cnFrames := s.net.cnFrames ++ [(port.val, sub.val, (s.tbNs, s.tbFrac), bytes)] } }

/-- A PFC frame (R346): `enable` names the priorities, `quanta` the pause of each of the eight in units of 512 bit times.
A priority whose PFC bit is clear is not paused. -/
def execPfcFrame (port : Fin 18) (sub : Fin 4) (enable : Byte) (quanta : List (BitVec 16)) (s : State) :
    Host.Outcome State Fault Refusal :=
  .next <|
  let mode := Tbl.get 0 s.net.mode port.val
  let rate := (if port.val < 16 then 1600 else 800) / 2 ^ mode
  (List.range 8).foldl (fun (s : State) (q : Nat) =>
    if bitN enable.toNat q && bitN (s.f (.portCfg port) PORT_CFG.PFC) q then
      let t := s.now + ((quanta.getD q 0).toNat * 512 + rate - 1) / rate
      { s with net := { s.net with pauses := Tbl.set s.net.pauses (port.val, sub.val, q) t } }
    else s) s

/-! ### Timers -/

/-- A transport timer that started at `start` has expired in an earlier reference period: it is evaluated after the updates of
the period in which it expires (R365). -/
def State.timerOver (s : State) (start ns : Nat) : Bool := decide (start + ns < s.now)

/-- Frames to be sent again stand before those of their connection not yet sent (R364). -/
def State.resendFrames (s : State) (l : List Unacked) : State :=
  { s with net := { s.net with txq := l.map (fun u => { u.frame with flags := u.frame.flags ||| 8 }) ++ s.net.txq } }

/-- The retransmit timer expires (R359, R364): at its sixteenth expiry an end that owes CLOSE_ACK sends it, and at its seventeenth a
connection enters LOST. -/
def execRetransmitTimeout (c : Fin 4096) (s : State) : Host.Outcome State Fault Refusal :=
  .next <|
  let x := s.conn c
  let st := s.cn c CN.STATE
  match x.timer with
  | none => s
  | some t =>
    let sent := x.unacked.filter (fun u => u.sentAt.isSome)
    if (st ≠ cnOpen ∧ st ≠ cnClosing) ∨ sent = [] ∨ !s.timerOver t (s.cn c CN.RTO) then s
    else if st = cnClosing ∧ x.peerClose ∧ 15 ≤ s.cn c CN.RETRIES then (s.sendCtl c 4).connIdle c
    else if 16 ≤ s.cn c CN.RETRIES then (s.setCn c CN.RETRIES (s.cn c CN.RETRIES + 1)).connLost c 1
    else
      let again := sent.filter (fun u => !s.net.txq.any (fun f => f.cn == c.val && f.seq == u.frame.seq && f.sequenced))
      let s := s.setCn c CN.RETRIES (s.cn c CN.RETRIES + 1)
      let mark (u : Unacked) : Unacked := if u.sentAt.isSome then { u with resent := true } else u
      let s := s.setConn c { x with timer := some s.now, unacked := x.unacked.map mark }
      let s := s.setCn c CN.RTO (min (2 * s.cn c CN.RTO) s.rtoMax)
      s.resendFrames again

/-- An OPEN is repeated, or after 16 retries the connection enters LOST (R359). The retransmit timeout doubles as in R364
(DEDUCED, log entry 28). -/
def execOpenRetry (c : Fin 4096) (s : State) : Host.Outcome State Fault Refusal :=
  .next <|
  let x := s.conn c
  if s.cn c CN.STATE ≠ cnOpening ∨ !s.timerOver x.triedAt (s.cn c CN.RTO) then s
  else if 16 ≤ x.tries then (s.connLost c 4).tpErr TP_ERR.OPEN_FAILED (uPort (s.cn c CN.PORT))
  else
    let s := s.setConn c { x with tries := x.tries + 1, triedAt := s.now }
    ((s.setCn c CN.RETRIES (x.tries + 1)).setCn c CN.RTO (min (2 * s.cn c CN.RTO) s.rtoMax)).sendCtl c 1

/-- A CLOSE is repeated; after 16 retries the connection returns to IDLE (R359). -/
def execCloseRetry (c : Fin 4096) (s : State) : Host.Outcome State Fault Refusal :=
  .next <|
  let x := s.conn c
  if s.cn c CN.STATE ≠ cnClosing ∨ !x.closeSent ∨ !s.timerOver x.triedAt (s.cn c CN.RTO) then s
  else if 16 ≤ x.tries then s.connIdle c
  else
    let s := s.setConn c { x with tries := x.tries + 1, triedAt := s.now }
    ((s.setCn c CN.RETRIES (x.tries + 1)).setCn c CN.RTO (min (2 * s.cn c CN.RTO) s.rtoMax)).sendCtl c 3

/-- ACKDLY expires (R363). -/
def execAckDelay (c : Fin 4096) (s : State) : Host.Outcome State Fault Refusal :=
  .next <|
  match (s.conn c).ackSince with
  | some t => if s.timerOver t (10 * s.f .tpTimer TP_TIMER.ACKDLY) then s.sendAck c else s
  | none => s

/-- HBINT in ns. -/
def State.hbInt (s : State) : Nat := 1000 * s.f .tpTimer TP_TIMER.HBINT

/-- HBINT has passed without a frame sent (R370). -/
def execHeartbeatSend (c : Fin 4096) (s : State) : Host.Outcome State Fault Refusal :=
  .next <|
  let x := s.conn c
  if s.cn c CN.STATE = cnOpen ∧ s.timerOver x.lastTx s.hbInt ∧ (s.cn c CN.HOST = 1 ∨ s.devAssigned) then
    (s.setConn c { x with lastTx := s.now }).sendUnseq c tHeartbeat 0 []
  else s

/-- No frame has been received for HBMISS × HBINT (R370). -/
def execHeartbeatLoss (c : Fin 4096) (s : State) : Host.Outcome State Fault Refusal :=
  .next <|
  let st := s.cn c CN.STATE
  if (st = cnOpen ∨ st = cnClosing) ∧ s.timerOver (s.conn c).lastRx (s.f .tpTimer TP_TIMER.HBMISS * s.hbInt) then
    s.connLost c 2
  else s

/-! ### Links -/

/-- The connections of a sub-port that have left IDLE and are not LOST. -/
def State.boundTo (s : State) (p b : Nat) : List Nat :=
  s.cnList.filter (fun c => s.cn c CN.PORT == p && s.cn c CN.SUB == b && s.cn c CN.STATE != cnIdle && s.cn c CN.STATE != cnLost)

/-- The link of a sub-port goes down (R370, R455): its connections enter LOST, its MACsec key ends. -/
def State.linkDown (s : State) (p b : Nat) : State :=
  let r := Reg.portStat p b
  let s := (((s.setF r PORT_STAT.LINK 0).setF r PORT_STAT.AN_DONE 0).setF r PORT_STAT.PREEMPT_ACTIVE 0).setF r
    PORT_STAT.MACSEC_ACTIVE 0
  let keep {α : Type} (l : List ((Nat × Nat) × α)) : List ((Nat × Nat) × α) := l.filter (fun e => e.1 != (p, b))
  let s := { s with
    sec := { s.sec with
      sak := s.sec.sak.filter (fun e => (e.1.1, e.1.2.1) != (p, b)), shake := keep s.sec.shake, shakeAt := keep s.sec.shakeAt }
    net := { s.net with verified := s.net.verified.filter (· != (p, b)) } }
  (s.boundTo p b).foldl (fun (s : State) (c : Nat) => s.connLost c 3) s

/-- LINK_DOWN. -/
def execLinkDown (p : Fin 18) (b : Fin 4) (s : State) : Host.Outcome State Fault Refusal := .next (s.linkDown p b)

/-- Sub-ports of a port in the mode in force (R345). -/
def State.subPorts (s : State) (p : Nat) : Nat := 2 ^ Tbl.get 0 s.net.mode p

/-- PREEMPT_ACTIVE of a sub-port (R368): PREEMPT is set and the verify procedure has succeeded; a link on which it has not sets
PREEMPT_OFF while PREEMPT is set. -/
def State.preemptNow (s : State) (p b : Nat) : State :=
  let r := Reg.portStat p b
  if !s.bit r PORT_STAT.LINK then s
  else if !s.bit (.portCfg p) PORT_CFG.PREEMPT then s.setF r PORT_STAT.PREEMPT_ACTIVE 0
  else if s.net.verified.contains (p, b) then s.setF r PORT_STAT.PREEMPT_ACTIVE 1
  else (s.setF r PORT_STAT.PREEMPT_ACTIVE 0).tpErr TP_ERR.PREEMPT_OFF (uPort p)

/-- LINK_UP (R368): negotiation and training are done; `verify` is the outcome of the 802.3br verify procedure. -/
def execLinkUp (p : Fin 18) (b : Fin 4) (verify : Bool) (s : State) : Host.Outcome State Fault Refusal :=
  .next <|
  if s.subPorts p ≤ b.val then s
  else
    let r := Reg.portStat p b
    let s := (s.setF r PORT_STAT.LINK 1).setF r PORT_STAT.AN_DONE 1
    let others := s.net.verified.filter (· != (p.val, b.val))
    let s : State := { s with net := { s.net with verified := if verify then others ++ [(p.val, b.val)] else others } }
    s.preemptNow p b

/-! ### OP fields -/

/-- OP OPEN (R359, R459): from IDLE. -/
def State.connOpenOp (s : State) (c : Nat) : State :=
  if s.cn c CN.STATE ≠ cnIdle ∨ s.cn c CN.VALID = 0 then s
  else
    let isn := leNat (Config.drbg s.free 4) % 2 ^ 32
    let s := s.tickFree.setConn c { isn := isn, triedAt := s.now, lastTx := s.now, lastRx := s.now }
    let s := ((s.setCn c CN.STATE cnOpening).setCn c CN.RTO 4000).setCn c CN.RETRIES 0
    let s := (s.setCn c CN.SNDNXT isn).setCn c CN.SNDUNA isn
    if s.cn c CN.PROT = 1 ∧ s.cn c CN.HOST = 0 ∧ s.sls = none then s.connLost c 4
    else s.sendCtl c 1

/-- CONN_OPEN. -/
def execConnOpen (c : Fin 4096) (s : State) : Host.Outcome State Fault Refusal := .next (s.connOpenOp c)

/-- OP CLOSE (R359): from OPEN. -/
def State.connCloseOp (s : State) (c : Nat) : State :=
  if s.cn c CN.STATE = cnOpen then s.connClosing c false else s

/-- CONN_CLOSE. -/
def execConnClose (c : Fin 4096) (s : State) : Host.Outcome State Fault Refusal := .next (s.connCloseOp c)

/-- OP RESET (R359): from LOST. -/
def State.connResetOp (s : State) (c : Nat) : State := if s.cn c CN.STATE = cnLost then s.connIdle c else s

/-- CONN_RESET. -/
def execConnReset (c : Fin 4096) (s : State) : Host.Outcome State Fault Refusal := .next (s.connResetOp c)

/-- OP OPEN of a window (R355): its epoch stays; ACCEPTED counts from here. -/
def State.winOpenOp (s : State) (w : Nat) : State :=
  if s.f (.win w 0) WIN.OPEN = 1 then s
  else (s.setF (.win w 0) WIN.OPEN 1).setF (.win w 3) WIN.ACCEPTED 0

/-- WIN_OPEN. -/
def execWinOpen (w : Fin 1024) (s : State) : Host.Outcome State Fault Refusal := .next (s.winOpenOp w)

/-- Writes of other devices that have passed the check of window `w` and are not accepted yet. -/
def State.winWaits (s : State) (w : Nat) : Bool :=
  let b := s.f (.win w 0) WIN.BASE
  let e := b + s.f (.win w 1) WIN.LENGTH
  s.chip.writes.any (fun t => t.dev != s.dev && decide (b ≤ t.addr) && decide (t.addr < e))

/-- OP CLOSE of a window (R355): at once; its epoch increments; BUSY while a write that passed is not accepted. -/
def State.winCloseOp (s : State) (w : Nat) : State :=
  if s.f (.win w 0) WIN.OPEN = 0 then s
  else
    let s := (s.setF (.win w 0) WIN.OPEN 0).setF (.win w 0) WIN.EPOCH (s.f (.win w 0) WIN.EPOCH + 1)
    if s.winWaits w then s.setF (.win w 2) WIN.BUSY 1 else s

/-- WIN_CLOSE. -/
def execWinClose (w : Fin 1024) (s : State) : Host.Outcome State Fault Refusal := .next (s.winCloseOp w)

/-- WINDOW_CLOSE_DONE: every write that passed before the close is accepted (R355). -/
def execWindowCloseDone (w : Fin 1024) (s : State) : Host.Outcome State Fault Refusal :=
  .next <|
  if s.winWaits w then s
  else
    let s := s.setF (.win w 2) WIN.BUSY 0
    (s.mbxUnderWay 0x51).foldl (fun (s : State) (e : Nat × MbxCmd) =>
      if e.2.p 0x10 2 = w.val then s.mbxEnd e.1 e.2.seq .done (leBytes 8 (s.f (.win w 3) WIN.ACCEPTED)) else s) s

/-- The oldest transmit timestamp of a sub-port as PORT_TXTS shows it (R374). -/
def State.txtsWord (s : State) (p b w : Nat) : Nat :=
  match Tbl.get [] s.net.txts (p, b) with
  | [] => 0
  | (ns, fr, q) :: _ => if w = 0 then ns else fr + q * 65536 + 2 ^ 63

/-- PORT_TXTS: crowsnest reads word 1, and the entry is popped (R348, R374). -/
def State.popTxts (s : State) (p b : Nat) : State :=
  { s with net := { s.net with txts := Tbl.set s.net.txts (p, b) ((Tbl.get [] s.net.txts (p, b)).drop 1) } }

/-- PORT_TXTS. -/
def execPortTxts (p : Fin 18) (b : Fin 4) (s : State) : Host.Outcome State Fault Refusal :=
  .next { s.popTxts p b with
    chip := { s.chip with results := Tbl.set s.chip.results (uCn 0) { data := leBytes 8 (s.txtsWord p b 1) } } }

/-- A refused RADD message is repeated after its wait; a contribution whose first refusal lies a tick period back ends with
BUSY first (R332). -/
def execRaddRetry (s : State) : Host.Outcome State Fault Refusal :=
  .next <|
  match s.red.contribs.find? s.raddOver with
  | some c => s.contribEnds c .busy
  | none =>
    match s.red.retries.find? (fun r => decide (r.due ≤ s.now)) with
    | none => s
    | some r => State.raddSend { s with red := { s.red with retries := s.red.retries.erase r } } r.contrib
        (min (2 * r.wait) 4096) r.msg

end Sys2Proof.Machine
end

