-- ==== Sys2Proof/Machine/TackleOps.lean ====
section
/-! DEFINITION. The shared operations of the tackle: fields of a descriptor, the index mapping, conversion, the two passes
(08_tackle.md). `w` is the twenty-four words of a descriptor, `n` its list count. -/

namespace Sys2Proof.Machine

/-! ### Fields (R230) -/

def tkSrcFmt (w : List Word) : Nat := wf w 0 14 11
def tkDstFmt (w : List Word) : Nat := wf w 0 18 15
def tkAccum (w : List Word) : Bool := wb w 0 4
def tkPad (w : List Word) : Bool := wb w 0 5
def tkRnd (w : List Word) : Nat := wf w 0 10 9
def tkCoil (w : List Word) : Bool := wb w 0 23
def tkSs (w : List Word) (k : Nat) : Int := ws w (8 + 3 * k) 39 0
def tkExt (w : List Word) (k : Nat) : Nat := wf w (8 + 3 * k) 63 40
def tkDs (w : List Word) (k : Nat) : Int := ws w (9 + 3 * k) 39 0
def tkWin (w : List Word) (k : Nat) : Nat := wf w (9 + 3 * k) 63 40
def tkOff (w : List Word) (k : Nat) : Int := ws w (10 + 3 * k) 23 0
def tkRot (w : List Word) (k : Nat) : Nat := wf w (10 + 3 * k) 47 24
def tkRev (w : List Word) (k : Nat) : Bool := wb w (10 + 3 * k) 48
/-- Source and destination scale strides, of dimensions 1 to 3. -/
def tkSss (w : List Word) (k : Nat) : Int :=
  match k with | 1 => ws w 20 31 0 | 2 => ws w 20 63 32 | 3 => ws w 21 31 0 | _ => 0
def tkDss (w : List Word) (k : Nat) : Int :=
  match k with | 1 => ws w 21 63 32 | 2 => ws w 22 31 0 | 3 => ws w 22 63 32 | _ => 0

/-- Bytes of an element that is not packed. -/
def tkBytes (f : Nat) : Nat := jBits f / 8

/-- How often dimension `k` iterates (R232, R236, R237). -/
def tkCount (op n : Nat) (w : List Word) (k : Nat) : Nat :=
  match op, k with
  | 2, 1 => n | 3, 1 => n | 2, 2 => 1 | 3, 2 => 1 | 2, 3 => 1 | 3, 3 => 1
  | 4, 2 => n | 5, 2 => n | 4, 3 => 1 | 5, 3 => 1
  | _, k => tkExt w k

/-- The dimension-0 runs in iteration order: i3 outermost (R235). -/
def tkRuns (op n : Nat) (w : List Word) : List (Nat × Nat × Nat) :=
  (List.range (tkCount op n w 3)).flatMap (fun c => (List.range (tkCount op n w 2)).flatMap (fun b =>
    (List.range (tkCount op n w 1)).map (fun a => (a, b, c))))

/-! ### The index mapping (R231 to R237) -/

/-- The window index of a position of dimension `k`; none: padding (R232). -/
def tkWindow (w : List Word) (k : Nat) (a : Int) : Option Nat :=
  let t := a + tkOff w k
  if t < 0 ∨ Int.ofNat (tkWin w k) ≤ t then none
  else
    let u := (t.toNat + tkRot w k) % max 1 (tkWin w k)
    some (if tkRev w k then tkWin w k - 1 - u else u)

/-- The window pair of (i0, i1) under an orientation (R232). -/
def tkOrient (o e0 e1 i0 i1 : Nat) : Int × Int :=
  let x : Int := Int.ofNat i0
  let y : Int := Int.ofNat i1
  let r0 : Int := Int.ofNat e0 - 1 - x
  let r1 : Int := Int.ofNat e1 - 1 - y
  match o with
  | 1 => (y, r0) | 2 => (r0, r1) | 3 => (r1, x) | 4 => (y, x) | 5 => (r1, r0) | _ => (x, y)

/-- Where one position reads and writes: a run address, a scale-run address and an element number on each side. `src`
none: an out-of-bounds read; `drop`: an out-of-bounds write; `bad`: its list entry is poisoned. -/
structure TkPos where
  src : Option (Int × Int × Nat)
  dst : Int × Int × Nat
  drop : Bool := false
  bad : Bool := false
  deriving DecidableEq, Repr

/-- A list entry, its poison (R236, R237). -/
def State.tkEntry (s : State) (op : Nat) (w : List Word) (e : Nat) : Int × Int × Bool :=
  let b := wf w 6 46 0
  if op ≤ 3 then (sext 32 (s.num (b + 4 * e) 4), 0, s.poisonedAt (b + 4 * e) 4)
  else (sext 32 (s.num (b + 8 * e) 4), sext 32 (s.num (b + 8 * e + 4) 4), s.poisonedAt (b + 8 * e) 8)

/-- An index inside a window. -/
def inWin (i : Int) (n : Nat) : Bool := decide (0 ≤ i) && decide (i < Int.ofNat n)

/-- The position i0 of a run (R232, R236, R237). -/
def State.tkPos (s : State) (op : Nat) (w : List Word) (r : Nat × Nat × Nat) (i0 : Nat) : TkPos :=
  let src := Int.ofNat (wf w 2 46 0)
  let ssc := Int.ofNat (wf w 4 46 0)
  let dst := Int.ofNat (wf w 3 46 0)
  let dsc := Int.ofNat (wf w 5 46 0)
  let (i1, i2, i3) := r
  let lin (st : Nat → Int) (a b c : Int) : Int := a * st 1 + b * st 2 + c * st 3
  let z1 := Int.ofNat i1
  let z2 := Int.ofNat i2
  let z3 := Int.ofNat i3
  let home : Int × Int × Nat := (dst + lin (tkDs w) z1 z2 z3, dsc + lin (tkDss w) z1 z2 z3, i0)
  match op with
  | 2 =>
    let (x, _, p) := s.tkEntry op w i1
    let u := tkWindow w 0 (Int.ofNat i0)
    { src := if p || !inWin x (tkWin w 1) then none else u.map (fun u => (src + x * tkSs w 1, ssc + x * tkSss w 1, u))
      dst := home, bad := p }
  | 3 =>
    let (x, _, p) := s.tkEntry op w i1
    let u := tkWindow w 0 (Int.ofNat i0)
    { src := u.map (fun u => (src + z1 * tkSs w 1, ssc + z1 * tkSss w 1, u))
      dst := (dst + x * tkDs w 1, dsc + x * tkDss w 1, i0), drop := p || !inWin x (tkWin w 1), bad := p }
  | 4 =>
    let (c1, c0, p) := s.tkEntry op w i2
    let x := c0 + Int.ofNat i0
    let y := c1 + z1
    { src := if p || !inWin x (tkWin w 0) || !inWin y (tkWin w 1) then none
        else some (src + y * tkSs w 1, ssc + y * tkSss w 1, x.toNat)
      dst := home, bad := p }
  | 5 =>
    let (c1, c0, p) := s.tkEntry op w i2
    let x := c0 + Int.ofNat i0
    let y := c1 + z1
    { src := some (src + lin (tkSs w) z1 z2 0, ssc + lin (tkSss w) z1 z2 0, i0)
      dst := (dst + y * tkDs w 1, dsc + y * tkDss w 1, x.toNat)
      drop := p || !inWin x (tkWin w 0) || !inWin y (tkWin w 1), bad := p }
  | _ =>
    let (a0, a1) := tkOrient (wf w 0 8 6) (tkExt w 0) (tkExt w 1) i0 i1
    let u := match tkWindow w 0 a0, tkWindow w 1 a1, tkWindow w 2 z2, tkWindow w 3 z3 with
      | some u0, some u1, some u2, some u3 =>
        let l (st : Nat → Int) : Int := lin st (Int.ofNat u1) (Int.ofNat u2) (Int.ofNat u3)
        some (src + l (tkSs w), ssc + l (tkSss w), u0)
      | _, _, _, _ => none
    { src := u, dst := home }

/-! ### Elements (R231, R235, R239) -/

/-- The byte address of element `e` of a run; a packed run is contiguous. -/
def tkAt (f : Nat) (stride : Int) (run : Int) (e : Nat) : Nat :=
  if jPacked f then (run + Int.ofNat (e * jBits f / 8)).toNat else (run + Int.ofNat e * stride).toNat

/-- The code of an element, and its poison. -/
def State.tkCode (s : State) (f : Nat) (stride run : Int) (e : Nat) : Nat × Bool :=
  let a := tkAt f stride run e
  if jPacked f then
    let b := e * jBits f
    let n := (b % 8 + jBits f + 7) / 8
    (s.num a n / 2 ^ (b % 8) % 2 ^ jBits f, s.poisonedAt a n)
  else (s.num a (tkBytes f), s.poisonedAt a (tkBytes f))

/-- A source element: code, value, poison; a packed element under its block scale. -/
structure TkElem where
  code : Nat
  v : Option Q
  p : Bool
  deriving DecidableEq, Repr

/-- The fill value in the destination format (R235): rounded to nearest, no flag. -/
def tkFill (w : List Word) : TkElem :=
  let f := tkDstFmt w
  let raw := wf w 1 47 16
  let v : Option Q := if jFloat f then Fmt.k32.dec raw else some (Q.ofInt (sext 32 raw))
  { code := if jInt f then (encInt (jBits f) 0 0 v).1 else (jFmt f).enc 0 0 v |>.1, v := v, p := false }

/-- The element a position reads. -/
def State.tkRead (s : State) (w : List Word) (x : TkPos) : TkElem :=
  match x.src with
  | none => { tkFill w with p := x.bad }
  | some (run, sc, e) =>
    let f := tkSrcFmt w
    let (c, p) := s.tkCode f (tkSs w 0) run e
    if jPacked f then
      let a := (sc + Int.ofNat (e / 32)).toNat
      { code := c, v := some (dequant (f == 5) c (s.num a 1)), p := p || s.poisonedAt a 1 }
    else { code := c, v := jDec f c, p := p }

/-- A converted element: code and flags (R64, R239). -/
def tkConv (w : List Word) (draw : Nat) (x : TkElem) : Nat × Nat :=
  let f := tkDstFmt w
  if tkSrcFmt w = f then (x.code, 0)
  else if jInt f then encInt (jBits f) (tkRnd w) draw x.v
  else (jFmt f).enc (tkRnd w) draw x.v

/-- Packed blocks are copied with their scales: R239's condition on dimension 0. -/
def tkBlockCopy (op : Nat) (w : List Word) : Bool :=
  tkSrcFmt w == tkDstFmt w && jPacked (tkSrcFmt w) && wf w 0 8 6 == 0 && tkRot w 0 == 0 && !tkRev w 0 &&
  decide (tkOff w 0 % 32 = 0) && tkWin w 0 % 32 == 0 && !wb w 0 19 && decide (op ≤ 5)

/-- Elements of a destination block under a scale: those of the data pass round as the descriptor says, the `i`-th on draw `i`
(R239); a padding element is the fill value, rounded to nearest with no flag and no draw (R235). -/
def tkElems (k6 : Bool) (mode : Nat) (draw : Nat → Nat) (sc : Nat) : Nat → List (Bool × Option Q) → List Nat × Nat
  | _, [] => ([], 0)
  | i, (data, x) :: l =>
    let (c, fl) := match x with
      | none => (0, fInv)
      | some v => encElem k6 (if data then mode else 0) (if data then draw i else 0) (v.div (decS8 sc))
    let (cs, fs) := tkElems k6 mode draw sc (if data then i + 1 else i) l
    (c :: cs, (if data then fl else 0) ||| fs)

/-- A destination block under an explicit scale code, or a generated one: scale code, element codes, flags (R66, R546). -/
def tkQuant (k6 : Bool) (mode : Nat) (draw : Nat → Nat) (sc : Option Nat) (es : List (Bool × Option Q)) :
    Nat × List Nat × Nat :=
  let inv := if es.any (fun e => e.1 && e.2.isNone) then fInv else 0
  let m := es.foldl (fun m e => match e.2 with | some v => qMax m v.abs | none => m) Q.zero
  match sc with
  | some 0 => (0, es.map (fun _ => 0), inv)
  | some c => let (cs, fl) := tkElems k6 mode draw c 0 es; (c, cs, fl)
  | none =>
    if m.num = 0 then (0, es.map (fun _ => 0), inv)
    else
      let c := genScale k6 m
      let (cs, fl) := tkElems k6 mode draw c 0 es
      if cs.all (· == 0) then (0, cs, fl) else (c, cs, fl)

/-! ### The passes (R235, R238) -/

/-- What a descriptor accumulates. -/
structure TkAcc where
  s : State
  flags : Nat := 0
  bad : Bool := false
  drop : Nat := 0
  draws : Nat := 0
  /-- a record of the destination coil ended with BUSY (R186) -/
  busy : Bool := false
  deriving DecidableEq, Repr

/-- Add into one destination element, which is read first (R238, R243). -/
def State.tkAdd (s : State) (u f a c : Nat) (p : Bool) : State × Nat :=
  let n := tkBytes f
  let s := s.readPass u [(a, n)]
  let y := s.num a n
  let q := p || s.poisonedAt a n
  if jInt f then (s.storeBy u a (leBytes n ((y + c) % 2 ^ (8 * n))) q, 0)
  else
    let k := jFmt f
    let a' := k.dec y
    let b := k.dec c
    let (r, fl) := encOp k 0 0 (a'.isNone || b.isNone) (lift2 (fun p q => some (p.add q)) a' b)
    (s.storeBy u a (leBytes n r) q, fl)

/-- Write or add one element that is not packed, in the padding pass (`pad`) or the data pass. An element whose scatter write is
dropped is not converted and takes no draw (DESIGN CHOICE, log entry 61). -/
def TkAcc.elem (acc : TkAcc) (m op : Nat) (w : List Word) (pad : Bool) (x : TkPos) : TkAcc :=
  let s := acc.s
  let u := uTackle m
  let f := tkDstFmt w
  let a := tkAt f (tkDs w 0) x.dst.1 x.dst.2.2
  if x.drop then (if pad then acc else { acc with drop := acc.drop + 1, bad := acc.bad || x.bad })
  else if x.src.isNone then
    if !pad then { acc with bad := acc.bad || x.bad }
    else if (!tkPad w && !x.bad) || tkAccum w || op = 0 then acc
    else { acc with s := s.storeBy u a (leBytes (tkBytes f) (tkFill w).code) x.bad }
  else if pad then acc
  else
    let e := s.tkRead w x
    let draw := drawRS (s.seedOf u) u (s.f (.tkRsctr m) TK_RSCTR.CTR + acc.draws)
    let (c, fl) := tkConv w draw e
    let (s, fl') := if tkAccum w then s.tkAdd u f a c e.p else (s.storeBy u a (leBytes (tkBytes f) c) e.p, 0)
    { acc with s := s, flags := acc.flags ||| fl ||| fl', bad := acc.bad || e.p
               draws := acc.draws + (if tkSrcFmt w = f then 0 else 1) }

/-- Write the elements of one destination block of a packed format (R231, R235, R546, R66). `xs` are its positions. -/
def TkAcc.block (acc : TkAcc) (m op : Nat) (w : List Word) (pad : Bool) (xs : List TkPos) : TkAcc :=
  let s := acc.s
  let u := uTackle m
  let f := tkDstFmt w
  let k6 := f == 5
  let live := xs.filter (fun x => !x.drop)
  let data := live.filter (fun x => x.src.isSome)
  let bad := xs.any (·.bad)
  let put := live.filter (fun x => x.src.isSome || tkPad w || x.bad)
  let drops := xs.length - live.length
  match put with
  | [] => if pad then acc else { acc with drop := acc.drop + drops, bad := acc.bad || bad }
  | x0 :: _ =>
    if pad != (data == []) then (if pad then acc else { acc with bad := acc.bad || bad, drop := acc.drop + drops })
    else
      let b := x0.dst.2.2 / 32
      let a := tkAt f 0 x0.dst.1 (32 * b)
      let sa := (x0.dst.2.1 + Int.ofNat b).toNat
      let aligned := tkBlockCopy op w && put.all (fun x => x.src.elim false (fun y => y.2.2 % 32 == x.dst.2.2 % 32))
      -- elements that are kept, and the scale that is not generated, are read where they stand (R243)
      let s := s.readPass u ((if put.length < 32 then [(a, elemBytes k6 32)] else []) ++
        (if !aligned && !wb w 0 19 then [(sa, 1)] else []))
      let es := put.map (fun x => (x.dst.2.2 % 32, s.tkRead w x))
      let vs := put.map (fun x => (x.src.isSome, (s.tkRead w x).v))
      let p := es.any (fun e => e.2.p)
      let draw (i : Nat) : Nat := drawRS (s.seedOf u) u (s.f (.tkRsctr m) TK_RSCTR.CTR + acc.draws + i)
      let old (i : Nat) : Nat := (s.tkCode f 0 x0.dst.1 (32 * b + i)).1
      let code (cs : List Nat) (i : Nat) : Nat :=
        match (List.range es.length).find? (fun k => (es.getD k (0, { code := 0, v := none, p := false })).1 == i) with
        | some k => cs.getD k 0
        | none => old i
      let (sc, cs, fl, n) :=
        if aligned then
          let y := (x0.src.getD (0, 0, 0))
          (some (s.num (y.2.1 + Int.ofNat (y.2.2 / 32)).toNat 1), es.map (fun e => e.2.code), 0, 0)
        else
          let (sc, cs, fl) := tkQuant k6 (tkRnd w) draw (if wb w 0 19 then none else some (s.num sa 1)) vs
          (if wb w 0 19 then some sc else none, cs, fl, data.length)
      let p := p || (sc.isNone && s.poisonedAt sa 1)
      let s := s.storeBy u a (packElems k6 ((List.range 32).map (code cs))) p
      let s := match sc with
        | some c => s.storeBy u sa (leBytes 1 c) p
        | none => s
      { acc with s := s, flags := acc.flags ||| fl, bad := acc.bad || p || bad
                 drop := acc.drop + drops, draws := acc.draws + n }

/-- Positions of a run grouped by destination block, in order. -/
def tkBlocks (xs : List TkPos) : List (List TkPos) :=
  let bs := xs.foldl (fun (l : List Nat) x => if l.contains (x.dst.2.2 / 32) then l else l ++ [x.dst.2.2 / 32]) []
  bs.map (fun b => xs.filter (fun x => x.dst.2.2 / 32 == b))

/-- The bytes a position reads: its element, and the scale of its block (R231). -/
def TkPos.reads (x : TkPos) (w : List Word) : List (Nat × Nat) :=
  match x.src with
  | none => []
  | some (run, sc, e) =>
    let f := tkSrcFmt w
    (tkAt f (tkSs w 0) run e, if jPacked f then (e * jBits f % 8 + jBits f + 7) / 8 else tkBytes f) ::
      (if jPacked f then [((sc + Int.ofNat (e / 32)).toNat, 1)] else [])

/-- The list entry of a run (R236, R237). -/
def tkListAt (op : Nat) (w : List Word) (r : Nat × Nat × Nat) : List (Nat × Nat) :=
  match op with
  | 2 | 3 => [(wf w 6 46 0 + 4 * r.1, 4)]
  | 4 | 5 => [(wf w 6 46 0 + 8 * r.2.1, 8)]
  | _ => []

/-- One run of a pass; in the data pass its reads reach their memories (R190, R243). With a coil, `rec` is the address of its record. -/
def TkAcc.run (acc : TkAcc) (m op : Nat) (w : List Word) (pad : Bool) (rec_ : Option Nat) (r : Nat × Nat × Nat) : TkAcc :=
  let fix (x : TkPos) : TkPos := match rec_ with
    | some a => { x with dst := (Int.ofNat a, x.dst.2) }
    | none => x
  let xs := (List.range (tkExt w 0)).map (fun i => fix (acc.s.tkPos op w r i))
  let acc := if pad then acc else
    { acc with s := acc.s.readPass (uTackle m) (tkListAt op w r ++ (xs.filter (fun x => !x.drop)).flatMap (fun x => x.reads w)) }
  if jPacked (tkDstFmt w) then (tkBlocks xs).foldl (fun a l => a.block m op w pad l) acc
  else xs.foldl (fun a x => a.elem m op w pad x) acc

/-- The unit that reserved record `n` no longer waits to write it; the record stays reserved (R186). -/
def State.coilForget (s : State) (m k n : Nat) : State :=
  s.setCoilSt m k { s.coilSt m k with resBy := (s.coilSt m k).resBy.filter (fun e => e.1 != n) }

/-- The runs of a coil destination from number `k` on: each reserves its record, and commits it when its writes are accepted;
a full coil holds the descriptor, in the order of the coil's requests (R184, R185, R239). A record in tile slots of a
macro-instruction ends the descriptor with BUSY (R186; log entry 61). -/
def TkAcc.coilRuns (acc : TkAcc) (m op : Nat) (w : List Word) : Nat → List (Nat × Nat × Nat) → TkAcc × Option Nat
  | _, [] => (acc, none)
  | k, r :: l =>
    let c := (wf w 3 2 0, wf w 3 10 3)
    let u := uTackle m
    let s := if (acc.s.coilMine c.1 c.2 u).isSome || (acc.s.coilSt c.1 c.2).resWait.contains u then acc.s
      else acc.s.coilReserveBy c.1 c.2 u
    match s.coilMine c.1 c.2 u with
    | none => ({ acc with s := s }, some k)
    | some n =>
      if s.coilBusy c.1 c.2 n then ({ acc with s := s.coilForget c.1 c.2 n, busy := true }, none)
      else
        let a := some (s.recAddr c.1 c.2 n)
        let acc := (({ acc with s := s } : TkAcc).run m op w true a r).run m op w false a r
        TkAcc.coilRuns { acc with s := (acc.s.settle acc.s.dev u).coilCommit c.1 c.2 n } m op w (k + 1) l

/-! ### Checks (R240) -/

/-- The pairs of formats R239 and R64 allow. -/
def tkPairOk (a b : Nat) : Bool :=
  a == b || (jPacked a && (b ≤ 1 || jPacked b)) || (a == 1 && b == 0) || (a == 0 && b == 1) ||
  (a ≤ 1 && jPacked b) || (a == 0 && jInt b) || ((a == 3 || a == 4) && b ≤ 1) || (a == 2 && b ≤ 1)

/-- Step 1 of R240. -/
def State.tkBad (s : State) (op : Nat) (w : List Word) : Bool :=
  let sf := tkSrcFmt w
  let df := tkDstFmt w
  let listed := decide (2 ≤ op)
  let k4 := List.range 4
  let dims (l : List Nat) (off : Bool) : Bool :=
    l.any (fun k => (off && tkOff w k != 0) || tkRot w k != 0 || tkRev w k)
  let reg := s.fuses.region (wf w 3 46 0) 1
  let hbmAct := match reg with
    | some .hbm => true
    | some (.act _) => true
    | _ => false
  let rec_ := s.recSize (wf w 3 2 0) (wf w 3 10 3)
  decide (5 < wf w 0 3 0) || wf w 0 31 25 != 0 || wf w 1 63 48 != 0 || wf w 23 63 0 != 0 ||
  k4.any (fun k => wf w (10 + 3 * k) 63 49 != 0) || decide (6 < sf) || decide (6 < df) || decide (5 < wf w 0 8 6) ||
  wf w 0 10 9 == 3 || !tkPairOk sf df || (wb w 0 19 && !jPacked df) ||
  (tkAccum w && (!(df == 0 || df == 1 || df == 2) || tkCoil w || !hbmAct)) ||
  (!tkAccum w && k4.any (fun k => tkDs w k == 0 && decide (1 < tkExt w k) && !(k == 0 && jPacked df) &&
    !(tkCoil w && k != 0) && !((op == 2 || op == 3) && k == 1) && !((op == 4 || op == 5) && k == 2))) ||
  k4.any (fun k => if 0 < tkWin w k then decide (tkWin w k ≤ tkRot w k) else decide (0 < tkRot w k)) ||
  ((op == 2 || op == 3) && (tkExt w 2 != 1 || tkExt w 3 != 1 || wf w 0 8 6 != 0 || dims [1] true)) ||
  ((op == 4 || op == 5) && (tkExt w 3 != 1 || wf w 0 8 6 != 0 || dims [0, 1] true)) ||
  (jPacked df && tkExt w 0 % 32 != 0) ||
  (tkCoil w && (s.co (wf w 3 2 0) (wf w 3 10 3) COIL.VALID == 0 || 8 * rec_ != tkExt w 0 * jBits df)) ||
  (listed && (!s.actRange (wf w 6 46 0) 1 || (wb w 0 24 && !s.actRange (wf w 7 63 17) 1))) ||
  decide (65536 < wf w 7 16 0) || !cleatOk (wf w 0 47 32) ||
  (wf w 1 15 0 != 0 && decide (49151 < wf w 0 63 48))

/-- A footprint: a base, the extents and strides of dimensions, the bytes of dimension 0's last element. -/
def tkHull (base : Nat) (l : List (Nat × Int)) (last : Nat) : Int × Int :=
  l.foldl (fun (h : Int × Int) (x : Nat × Int) =>
    let e := (Int.ofNat x.1 - 1) * x.2
    (h.1 + min 0 e, h.2 + max 0 e)) (Int.ofNat base, Int.ofNat (base + last))

/-- Dimension 0 of a footprint, and the bytes it ends with: a packed run is contiguous. -/
def tkDim0 (f n : Nat) (stride : Int) : List (Nat × Int) × Nat :=
  if jPacked f then ([], (n * jBits f + 7) / 8) else ([(n, stride)], tkBytes f)

/-- The source footprints: elements and scales; none where the window is empty (R240). -/
def tkSrcHulls (op n : Nat) (w : List Word) : List (Int × Int) :=
  let sf := tkSrcFmt w
  let (n0, dims) : Nat × List Nat := match op with
    | 2 => (tkWin w 0, [tkWin w 1]) | 3 => (tkWin w 0, [n]) | 4 => (tkWin w 0, [tkWin w 1])
    | 5 => (tkExt w 0, [tkExt w 1, n]) | _ => (tkWin w 0, [tkWin w 1, tkWin w 2, tkWin w 3])
  if n0 = 0 ∨ dims.any (· == 0) then []
  else
    let (d0, last) := tkDim0 sf n0 (tkSs w 0)
    let rest (st : Nat → Int) : List (Nat × Int) := (List.range dims.length).map (fun k => (dims.getD k 0, st (k + 1)))
    tkHull (wf w 2 46 0) (d0 ++ rest (tkSs w)) last ::
      (if jPacked sf then [tkHull (wf w 4 46 0) (rest (tkSss w)) ((n0 + 31) / 32)] else [])

/-- The destination footprints at an address: elements and scales; none where the window is empty. Of a scatter's rows `e0`
elements count, in R240 those of the window. -/
def tkDstHulls (op n e0 : Nat) (w : List Word) : List (Int × Int) :=
  let df := tkDstFmt w
  let (n0, dims) : Nat × List Nat := match op with
    | 2 => (tkExt w 0, [n]) | 3 => (e0, [tkWin w 1]) | 4 => (tkExt w 0, [tkExt w 1, n])
    | 5 => (e0, [tkWin w 1]) | _ => (tkExt w 0, [tkExt w 1, tkExt w 2, tkExt w 3])
  if n0 = 0 ∨ dims.any (· == 0) then []
  else
    let (d0, last) := tkDim0 df n0 (tkDs w 0)
    let rest (st : Nat → Int) : List (Nat × Int) := (List.range dims.length).map (fun k => (dims.getD k 0, st (k + 1)))
    tkHull (wf w 3 46 0) (d0 ++ rest (tkDs w)) last ::
      (if jPacked df then [tkHull (wf w 5 46 0) (rest (tkDss w)) ((n0 + 31) / 32)] else [])

/-- The destination footprints of a descriptor: a coil's records, with dimension 0 inside one, and its scales. -/
def State.tkDstOf (s : State) (op n e0 : Nat) (w : List Word) : List (Int × Int) :=
  if tkCoil w then
    let c := s.coilHull (wf w 3 2 0, wf w 3 10 3)
    let r := Int.ofNat (s.recSize (wf w 3 2 0) (wf w 3 10 3))
    let (d0, last) := tkDim0 (tkDstFmt w) (tkExt w 0) (tkDs w 0)
    let h := tkHull 0 d0 last
    (c.1 + min 0 h.1, c.2 + max 0 (h.2 - r)) :: (tkDstHulls op n e0 w).drop 1
  else tkDstHulls op n e0 w

/-- The destination footprints that R240 checks. -/
def State.tkDst (s : State) (op n : Nat) (w : List Word) : List (Int × Int) := s.tkDstOf op n (tkWin w 0) w

/-- The byte range from the lowest to the highest byte that a descriptor can write, scales among them (R227). -/
def State.tkSpan (s : State) (op n : Nat) (w : List Word) : Int × Int := hullOf (s.tkDstOf op n (max (tkWin w 0) (tkExt w 0)) w)

/-- The source is denied to the tackle (R39, R240). -/
def regDenied (dst : Bool) : Option Region → Bool
  | some .sram => true
  | some .regs => true
  | some .cleat => true
  | some (.weight _) => dst
  | _ => false

/-- The places of R240 step 2 are denied. -/
def State.tkDenied (s : State) (w : List Word) : Bool :=
  (!tkCoil w && regDenied true (s.fuses.region (wf w 3 46 0) 1)) || regDenied false (s.fuses.region (wf w 2 46 0) 1)

/-- The checks of R240 come to the count word: steps 1 and 2 pass, and the word lies in activation memory. -/
def State.tkCounts (s : State) (op : Nat) (w : List Word) : Bool :=
  decide (2 ≤ op) && wb w 0 24 && !s.tkBad op w && !s.tkDenied w && s.actRange (wf w 7 63 17) 4

/-- The checks of R240, for a NOP those of step 1: DONE where it executes, else its status; `true`: empty. A poisoned
count is poisoned control data (R484). -/
def State.tkCheck (s : State) (m op n : Nat) (w : List Word) : Status × Bool :=
  let u := uTackle m
  let listed := decide (2 ≤ op)
  if s.tkBad op w then (.badDescriptor, false)
  else if op = 0 then (.done, true)
  else if s.tkDenied w then (.denied, false)
  else if listed ∧ wb w 0 24 ∧ !s.actRange (wf w 7 63 17) 4 then (.outOfBounds, false)
  else if listed ∧ wb w 0 24 ∧ s.poisonedAt (wf w 7 63 17) 4 then (.poisoned, false)
  else if listed ∧ wf w 7 16 0 < n then (.shapeOverflow, false)
  else if (List.range 4).any (fun k => tkCount op n w k == 0) then (.done, true)
  else
    let src := tkSrcHulls op n w
    let dst := s.tkDst op n w
    let list := if listed then (if s.actRange (wf w 6 46 0) ((if op ≤ 3 then 4 else 8) * n) then .done else .outOfBounds) else .done
    let st := Status.or list (Status.or (s.rangesCheck u false src) (s.rangesCheck u true dst))
    if st ≠ .done then (st, false)
    else if src.any (fun a => dst.any (fun b => meets a b)) then (.badDescriptor, false)
    else (.done, false)

end Sys2Proof.Machine
end

