-- ==== Sys2Proof/Machine/Tackle.lean ====
section
/-! DEFINITION. The commands of the tackle (08_tackle.md): each stands for the descriptor the tackle issues next. -/

namespace Sys2Proof.Machine

/-- The bit of TK_ERR that a status sets (R244). -/
def tkErrField : Status → Option Field
  | .badDescriptor => some TK_ERR.BAD_DESC
  | .outOfBounds => some TK_ERR.OOB
  | .shapeOverflow => some TK_ERR.SHAPE_OVF
  | .poisoned => some TK_ERR.POISON
  | .denied => some TK_ERR.DENIED
  | _ => none

/-- The state of the tackle of mast `m`. -/
def State.tack (s : State) (m : Nat) : TkSt := Tbl.get {} s.tk m
/-- Store the state of a tackle; TK_STAT shows how many descriptors are in flight (R244). -/
def State.setTack (s : State) (m : Nat) (x : TkSt) : State :=
  (State.setF { s with tk := Tbl.set s.tk m x } (.tkStat m) TK_STAT.INFLIGHT x.flight.length).setF (.tkStat m) TK_STAT.BUSY
    (if x.flight = [] then 0 else 1)

/-- The tackle reports end-of-step once the descriptor that ends it and every earlier one have completed (R228). -/
def State.tkReport (s : State) (m : Nat) : State :=
  if (s.tack m).ending && (s.tack m).flight == [] then
    ((s.setTack m {}).setF (.tkStat m) TK_STAT.STEP_DONE 1).report (uTackle m)
  else s

/-- A descriptor completes: record, DoneCleat, registers, EndStep (R228, R241). -/
def State.tkDone (s : State) (m : Nat) (k : TkRun) (flags drop : Nat) (st : Status) : State :=
  let u := uTackle m
  let w := k.w
  let a := actBase m + s.f (.tkRec m) TK_REC.OFFSET + 16 * k.pc
  let rb := [0] ++ leBytes 1 flags ++ leBytes 1 k.op ++ [0] ++ leBytes 4 (min drop (2 ^ 32 - 1)) ++
    leBytes 4 (Config.freeNat s.free % 2 ^ 32) ++ leBytes 4 (s.unitTick u)
  let rst := s.recStatus u st
  let ok := wb w 0 20 && s.access (.unit u) true a 16 == .done
  let f : Finish := {
    key := .tackle m, unit := u, mast := m, recAt := if ok then some a else none, recBytes := rb, recSt := 0
    cleat := if wf w 0 47 32 < 49152 then wf w 0 47 32 else 0xFFFF, endStep := wb w 0 21, descIdx := k.pc }
  let s := s.tickFree.finishOp f st
  let s := s.wr (.tkLast m) (BitVec.ofNat 64 (leAt (putAt rb 0 [BitVec.ofNat 8 rst.code]) 0 8))
  let s := s.setF (.tkStat m) TK_STAT.LAST_STATUS rst.code
  let s := s.setTack m { s.tack m with flight := (s.tack m).flight.filter (fun x => x.pc != k.pc) }
  let s := s.incSat (.tkDropped m) TK_DROPPED.ALL drop
  let s := match tkErrField st with
    | some F => s.engineErr (.tkErr m) F st u k.pc
    | none => s
  s.tkReport m

/-- The counter of draws moves on by the draws of a descriptor (R62): those of descriptors in flight together stand in the order
in which their elements are converted (DESIGN CHOICE, log entry 61). -/
def State.tkDraws (s : State) (m : Nat) (k : TkRun) (n : Nat) : State :=
  if tkRnd k.w = 2 then s.setF (.tkRsctr m) TK_RSCTR.CTR ((s.f (.tkRsctr m) TK_RSCTR.CTR + n) % 2 ^ 48) else s

/-- The end of a descriptor's passes. -/
def State.tkEnd (m : Nat) (k : TkRun) (acc : TkAcc) : State :=
  let s := acc.s.tkDraws m k acc.draws
  s.tkDone m k acc.flags acc.drop (if acc.busy then .busy else if acc.bad then .poisoned else .done)

/-- The start of a descriptor's runs, or where a full coil held them. -/
def State.tkAcc (s : State) (k : TkRun) : TkAcc := { s := s, flags := k.flags, bad := k.bad, drop := k.drop }

/-- The two passes of a descriptor without a coil: its padding, then its data (R235, R239). -/
def State.tkPasses (s : State) (m : Nat) (k : TkRun) : TkAcc :=
  let runs := tkRuns k.op k.n k.w
  let acc := runs.foldl (fun (a : TkAcc) r => a.run m k.op k.w true none r) (s.tkAcc k)
  runs.foldl (fun (a : TkAcc) r => a.run m k.op k.w false none r) acc

/-- Run a descriptor whose checks passed, from the run at which a full coil held it (R235, R239). -/
def State.tkGo (s : State) (m : Nat) (k : TkRun) : State :=
  if tkCoil k.w then
    match (s.tkAcc k).coilRuns m k.op k.w k.runs ((tkRuns k.op k.n k.w).drop k.runs) with
    | (acc, none) => State.tkEnd m k acc
    | (acc, some j) =>
      let k' : TkRun := { k with runs := j, flags := acc.flags, bad := acc.bad, drop := acc.drop }
      let s := acc.s.tkDraws m k acc.draws
      s.setTack m { s.tack m with flight := (s.tack m).flight.map (fun x => if x.pc = k.pc then k' else x) }
  else State.tkEnd m k (s.tkPasses m k)

/-- A descriptor stays behind an earlier one in flight (R227): their coil is the same, or the ranges from the lowest to the
highest destination byte of the two meet. One whose checks failed writes nothing. -/
def State.tkBehind (s : State) (k e : TkRun) : Bool :=
  let c (x : TkRun) : Nat × Nat := (wf x.w 3 2 0, wf x.w 3 10 3)
  (tkCoil k.w && tkCoil e.w && c k == c e) ||
  (k.over_.isNone && e.over_.isNone && meets (s.tkSpan k.op k.n k.w) (s.tkSpan e.op e.n e.w))

/-- The descriptor at `pc`, if it is in flight and no earlier one holds it, goes on. -/
def State.tkTry (s : State) (m pc : Nat) : State :=
  let l := (s.tack m).flight
  match l.find? (fun k => k.pc == pc) with
  | none => s
  | some k =>
    if (l.takeWhile (fun e => e.pc != pc)).any (fun e => s.tkBehind k e) then s
    else match k.over_ with
      | some st => s.tkDone m k 0 0 st
      | none => s.tkGo m k

/-- The descriptors in flight of a tackle go on, in issue order, as coils take their records (R227, R239). -/
def State.tkClock (s : State) (m : Nat) : State :=
  if !s.mastClocked m then s else (s.tack m).flight.foldl (fun s k => s.tkTry m k.pc) s

/-- A descriptor whose wait has ended issues (R226, R240): its checks, or poisoned control data (R484), may decide it; it is
in flight, and PC moves on. -/
def State.tkEnter (s : State) (m op : Nat) (w : List Word) (poisoned : Bool) (granted : Status) : State × TkRun :=
  let s := if !poisoned && granted == .done && s.tkCounts op w then s.readPass (uTackle m) [(wf w 7 63 17, 4)] else s
  let n := if wb w 0 24 then s.num (wf w 7 63 17) 4 else wf w 7 16 0
  let pc := s.f (.tkStat m) TK_STAT.PC
  let c := if poisoned then (.poisoned, false) else if granted ≠ .done then (granted, false) else s.tkCheck m op n w
  let k : TkRun := { pc := pc, op := op, n := n, w := w, over_ := if c.1 ≠ .done ∨ c.2 then some c.1 else none }
  let s := s.setF (.tkStat m) TK_STAT.PC (pc + 1)
  (s.setTack m { flight := (s.tack m).flight ++ [k], ending := wb w 0 21 || pc + 1 == s.f (.tkProg m) TK_PROG.LENGTH }, k)

/-- A descriptor whose wait has ended issues, and goes on where no earlier one holds it. -/
def State.tkBody (s : State) (m op : Nat) (w : List Word) (poisoned : Bool) (granted : Status) : State :=
  let (s, k) := s.tkEnter m op w poisoned granted
  s.tkTry m k.pc

/-- Where the next descriptor of a tackle stands (R226). -/
def State.tkAt_ (s : State) (m : Nat) : Nat := actBase m + s.f (.tkProg m) TK_PROG.BASE + 192 * s.f (.tkStat m) TK_STAT.PC

/-- The tackle reads its next descriptor, unless it has it and waits (R190, R243). -/
def State.tkTake (s : State) (m : Nat) : State :=
  s.fetchPass (uTackle m) (s.bit (.tkStat m) TK_STAT.WAITING) (s.tkAt_ m) 192

/-- The words of the descriptor at PC in the program, and whether a byte of them is poisoned (R226). -/
def State.tkFetch (s : State) (m : Nat) : List Word × Bool :=
  let a := s.tkAt_ m
  ((List.range 24).map (fun i => BitVec.ofNat 64 (s.num (a + 8 * i) 8)), s.poisonedAt a 192)

/-- The tackle of mast `m` may issue: its mast takes part, it executes a step whose program is not over, fewer than four
descriptors are in flight (R226, R228, R229). After the descriptor that ends the step none issues (log entry 61). -/
def State.tkMay (s : State) (m : Nat) : Bool :=
  s.mastRuns m && s.stepping (uTackle m) && !s.bit (.tkStat m) TK_STAT.STEP_DONE &&
  decide (s.f (.tkStat m) TK_STAT.PC < s.f (.tkProg m) TK_PROG.LENGTH) && decide ((s.tack m).flight.length < 4) &&
  !(s.tack m).ending

/-- Issue the descriptor of the tackle of mast `m` (R226 to R229): its words are those that stand at PC in its program, and
its wait has ended. A row issues the descriptors of its own Op; an Op the spec does not list goes by any row, and fails step
1 of R240. -/
def State.tkIssue (s : State) (m row : Nat) (w : List Word) (poisoned : Bool) : State :=
  if !s.tkMay m || s.tkFetch m != (w, poisoned) || (decide (wf w 0 3 0 ≤ 5) && wf w 0 3 0 != row) then s
  else
    let s := s.tkTake m
    let none_ := poisoned || wf w 1 15 0 == 0 || decide (cleatMax < wf w 0 63 48)
    match s.engineWait (.tackle m) (uTackle m) (if none_ then 0xFFFF else wf w 0 63 48) (wf w 1 15 0) (wb w 0 22) with
    | .wait s => s.setF (.tkStat m) TK_STAT.WAITING 1
    | .go st s => (s.setF (.tkStat m) TK_STAT.WAITING 0).tkBody m (wf w 0 3 0) w poisoned st

/-- TK_NOP: wait, record and signal only (R230). -/
def execTkNop (m : Fin 8) (w : List Word) (poisoned : Bool) (s : State) : Host.Outcome State Fault Refusal :=
  .next (s.tkIssue m 0 w poisoned)

/-- COPY (R232, R235). -/
def execCopy (m : Fin 8) (w : List Word) (poisoned : Bool) (s : State) : Host.Outcome State Fault Refusal :=
  .next (s.tkIssue m 1 w poisoned)

/-- GATHER (R236). -/
def execGather (m : Fin 8) (w : List Word) (poisoned : Bool) (s : State) : Host.Outcome State Fault Refusal :=
  .next (s.tkIssue m 2 w poisoned)

/-- SCATTER (R236). -/
def execScatter (m : Fin 8) (w : List Word) (poisoned : Bool) (s : State) : Host.Outcome State Fault Refusal :=
  .next (s.tkIssue m 3 w poisoned)

/-- BGATHER (R237). -/
def execBgather (m : Fin 8) (w : List Word) (poisoned : Bool) (s : State) : Host.Outcome State Fault Refusal :=
  .next (s.tkIssue m 4 w poisoned)

/-- BSCATTER (R237). -/
def execBscatter (m : Fin 8) (w : List Word) (poisoned : Bool) (s : State) : Host.Outcome State Fault Refusal :=
  .next (s.tkIssue m 5 w poisoned)

end Sys2Proof.Machine
end

