-- ==== Sys2Proof/Machine/Tick.lean ====
section
/-! DEFINITION. The time base, the tick logic, steps, deadlines and overruns (11_cleats_and_step_tick.md R311 to R322), and
one period of the reference clock. -/

namespace Sys2Proof.Machine

/-! ### The time base (R311) -/

/-- A signed number of `n` bits. -/
def State.sf (s : State) (r : Reg) (F : Field) : Int := sext (F.hi + 1 - F.lo) (s.f r F)

/-- The slew a follower applies in one reference period: at most 1,000 ppm (R312). -/
def slewPart (x : Int) : Int := max (-137438953) (min 137438953 x)

/-- One reference period of the time base: 6.4 ns, TB_RATE × 2^-32 ns, and the follower's slew (R311, R312). TICK_OUT stays
high for 64 ns, and while RUN is 0 a whole millisecond is a gear opportunity (R474). -/
def State.tbClock (s : State) : State :=
  let follow := s.f .stkCtrl STK_CTRL.PINMODE % 2 == 1
  let d := if follow then slewPart s.tick.slew else 0
  let tb := Int.ofNat s.tick.tb + 32 * 2 ^ 32 + 5 * s.sf .tbRate TB_RATE.RATE + d
  let out := s.tick.tickOut.filter (fun t => decide (s.now < t + 64))
  let ms (t : Nat) : Nat := t / (1000000 * tbUnit)
  let opp := if !s.bit .stkCtrl STK_CTRL.RUN && ms s.tick.tb != ms tb.toNat then some s.refs else s.tick.opp
  { s with tick := { s.tick with tb := tb.toNat, slew := s.tick.slew - d, tickOut := out, opp := opp } }

/-- The time base at `sub` tenths of a ns after the last reference period. -/
def State.tbAt (s : State) (sub : Nat) : Nat := s.tick.tb + sub * tbUnit / 10

/-- Add signed ns to the time base (R311): ignored while RUN is 1; never below zero. -/
def State.tbStepBy (s : State) (v : Word) : State :=
  if s.bit .stkCtrl STK_CTRL.RUN then s.setF .stkErr STK_ERR.WR_IGNORED 1
  else { s with tick := { s.tick with tb := (Int.ofNat s.tick.tb + v.toInt * Int.ofNat tbUnit).toNat } }

/-- TB_STEP. -/
def execTbStep (v : Word) (s : State) : Host.Outcome State Fault Refusal := .next (s.tbStepBy v)

/-- Pins are watched from boot phase 3 on (R477). -/
def State.pinsOn (s : State) : Bool := decide (3 ≤ s.f .bootStat BOOT_STAT.PHASE)

/-- PPS_IN rises `sub` tenths of a ns after the last reference period (R311, R519). -/
def execPpsInEdge (sub : Fin 64) (s : State) : Host.Outcome State Fault Refusal :=
  .next (if s.pinsOn then s.setF .tbPps TB_PPS.ALL (s.tbAt sub / tbUnit) else s)

/-! ### TICK_IN (R312) -/

/-- T0, P in ns. -/
def State.t0 (s : State) : Nat := s.f .stkT0 STK_T0.ALL
/-- The tick period in ns. -/
def State.period (s : State) : Nat := s.f .stkPeriod STK_PERIOD.P

/-- STK_CABLE in units of the time base. -/
def State.cable (s : State) : Nat := s.f .stkCable STK_CABLE.NS * tbUnit + s.f .stkCable STK_CABLE.FRAC * tbUnit / 65536

/-- The follower loses lock. -/
def State.unlock (s : State) : State :=
  if !s.bit .stkStat STK_STAT.LOCKED then s
  else
    let s := (s.setF .stkStat STK_STAT.LOCKED 0).setF .stkErr STK_ERR.UNLOCK 1
    s.logEvent 0x0023 .done 0xFFFF 0xFF (s.f .stkStat STK_STAT.PHASE_ERR)

/-- TICK_IN rises (R311, R312): timestamped; a follower compares it with the nearest expected edge and removes the error by
a slew, or ignores it outside the window. -/
def execTickInEdge (sub : Fin 64) (s : State) : Host.Outcome State Fault Refusal :=
  .next <|
  if !s.pinsOn then s
  else
    let ts := s.tbAt sub
    let s := s.setF .tbTickin TB_TICKIN.ALL (ts / tbUnit)
    if s.f .stkCtrl STK_CTRL.PINMODE % 2 = 0 then s
    else
      let base := s.t0 * tbUnit + s.cable
      let p := s.period * tbUnit
      let k := if ts < base then 0 else (ts - base + p / 2) / p
      let e : Int := Int.ofNat ts - Int.ofNat (base + k * p)
      if 1000 * tbUnit < e.natAbs then s.setF .stkErr STK_ERR.WINDOW 1
      else
        let ns : Int := max (-32767) (min 32767 (Int.tdiv e (Int.ofNat tbUnit)))
        let s := s.setF .stkStat STK_STAT.PHASE_ERR (wrapI 16 ns)
        let t := s.tick
        let good := decide (e.natAbs ≤ 10 * tbUnit)
        let s := { s with tick := { t with
          slew := -e, expectK := k + 1, lockMissed := 0
          lockGood := if good then t.lockGood + 1 else 0, lockBad := if good then 0 else t.lockBad + 1 } }
        if good && decide (16 ≤ t.lockGood + 1) then s.setF .stkStat STK_STAT.LOCKED 1
        else if !good && decide (4 ≤ t.lockBad + 1) then s.unlock
        else s

/-- An expected TICK_IN edge has not come: its window has passed (R312). -/
def execTickInMiss (s : State) : Host.Outcome State Fault Refusal :=
  .next <|
  let due := s.t0 * tbUnit + s.cable + s.tick.expectK * (s.period * tbUnit) + 1000 * tbUnit
  if s.f .stkCtrl STK_CTRL.PINMODE % 2 = 0 ∨ s.tick.tb ≤ due then s
  else
    let n := s.tick.lockMissed + 1
    let s := { s with tick := { s.tick with lockMissed := n, lockGood := 0, expectK := s.tick.expectK + 1 } }
    if 4 ≤ n then s.unlock else s

/-! ### Reduction rounds at edges (R330, R335, R336) -/

/-- A tick edge reaches an entry of near-memory reduction: an OPEN round counts it, and times out after TMO of them. -/
def State.entEdge (s : State) (e : Nat) : State :=
  let r := s.round e
  if s.entState e ≠ 3 ∨ !r.ticked then s
  else if s.ent e BKT.TMO ORD.TMO ≤ r.edges + 1 ∧ !s.roundFull e then
    (s.setRound e { r with edges := r.edges + 1 }).closeRound e .timeout false
  else s.setRound e { r with edges := r.edges + 1 }

/-- The entries of an owner count an edge; `arm`: those without an arm cleat arm a round (R330). -/
def State.entsEdge (s : State) (sec : Nat) (arm : Bool) : State :=
  s.entList.foldl (fun (s : State) (e : Nat) =>
    if s.entSection e ≠ sec ∨ s.entState e = 0 then s
    else
      let closed := s.entState e == 1
      let s := s.entEdge e
      if arm && closed && s.entArm e == 0xFFFF then s.armEntry e else s) s

/-! ### Device edges (R314) -/

/-- Time of device edge k in ns of the time base. -/
def State.edgeAt (s : State) (k : Nat) : Nat := s.t0 + k * s.period

/-- The first device edge at least 1 µs from now (R314). -/
def State.firstEdge (s : State) : Nat :=
  let x := s.tick.tb + 1000 * tbUnit
  let t0 := s.t0 * tbUnit
  let p := s.period * tbUnit
  if x ≤ t0 then 0 else (x - t0 + p - 1) / p

/-- The sections that are loaded and not running: their entries count device edges (R335). -/
def State.idleSections (s : State) : List Nat :=
  (List.range 8).filterMap (fun i =>
    if s.bit (.slSec i 0) SL_SEC.VALID && s.f (.slSec i 0) SL_SEC.STATE != secRunning
    then some (s.f (.slSec i 0) SL_SEC.SECTION) else none)

/-- TICK_EDGE: device edge E_k falls (R312, R314, R324). -/
def execTickEdge (s : State) : Host.Outcome State Fault Refusal :=
  .next <|
  let k := s.tick.nextK
  if !s.bit .stkCtrl STK_CTRL.RUN || decide (s.tick.tb < s.edgeAt k * tbUnit) then s
  else
    let s := (s.setF .stkNum STK_NUM.NUM (k % 2 ^ 32)).setF .stkStat STK_STAT.RUNNING 1
    let out := if 2 ≤ s.f .stkCtrl STK_CTRL.PINMODE then some s.now else s.tick.tickOut
    let s := { s with tick := { s.tick with
      nextK := k + 1, policy := s.bit .stkCtrl STK_CTRL.POLICY, tickOut := out, opp := some s.refs } }
    let s := (0xFF :: s.idleSections).foldl (fun (s : State) (x : Nat) => s.entsEdge x (x == 0xFF)) s
    s.halEdge

/-! ### Section edges (R315, R316) -/

/-- Phase and budget of a section, from the binding of its first mast. -/
def State.binding (s : State) (sec : Nat) : Nat × Nat :=
  match s.sectionMasts sec with
  | m :: _ => (s.f (.stkMast m) STK_MAST.PHASE, s.f (.stkMast m) STK_MAST.BUDGET)
  | [] => (0, 0)

/-- The reporters of a section (R316). -/
def State.reporters (s : State) (sec : Nat) : List Nat :=
  let ms := s.sectionMasts sec
  ms.flatMap (fun m =>
    (if s.f (.seqProg m) SEQ_PROG.LENGTH = 0 then [] else [uSeq m]) ++
    ((List.range 4).filter (fun l => s.f (.jibProg m l) JIB_PROG.LENGTH != 0)).map (fun l => uJib (4 * m + l)) ++
    (if s.f (.tkProg m) TK_PROG.LENGTH = 0 then [] else [uTackle m]) ++
    (if s.stepPorts m = [] then [] else [uSheave (256 * m)])) ++
  ((List.range 16).filter (fun f => s.f (.flStep f) FL_STEP.LENGTH != 0 && ms.contains (s.f (.flStep f) FL_STEP.MAST))).map
    uFairlead

/-- The section edge reaches the fabric of a mast (R114, R117, R136). The watchdog's count goes on through the edge, so a fabric
that is still stuck fires it again at once (R136 says that it re-arms, and nothing of its count: DEDUCED, log entry 80). -/
def State.fabEdge (s : State) (m tag : Nat) : State :=
  let r := Reg.fabStat m
  let s := (((s.setF r FAB_STAT.STALL 0).setF r FAB_STAT.STEP_DONE 0).setF r FAB_STAT.TICK_LAG 0).setF r FAB_STAT.FLAGS 0
  let s := s.setF r FAB_STAT.FIRINGS 0
  let s := s.setFabric m { s.fabric m with snapped := false }
  let s := (List.range 64).foldl (fun (s : State) (p : Nat) =>
    if s.edge m p FAB_EDGE.VALID = 0 then s
    else
      let x := s.eport m p
      if s.edge m p FAB_EDGE.KIND = 1 then
        let s := if x.ticks = [] then s else s.setF r FAB_STAT.TICK_LAG 1
        s.setEport m p { x with inj := 0, ticks := (x.ticks ++ [tag % 128]).take 255 }
      else s.setEport m p { x with inj := 0 }) s
  s.fabStep m

/-- The section edge reaches a reporter that is not in an older step: its program starts at 0 (R98, R146, R207, R228). -/
def State.unitEdge (s : State) (u tag : Nat) : State :=
  let i := u % 4096
  match u / 4096 % 16 with
  | 3 => ((s.setTack i { s.tack i with ending := false }).setF (.tkStat i) TK_STAT.STEP_DONE 0).setF (.tkStat i) TK_STAT.PC 0
  | 2 =>
    let r := Reg.jibStat (i / 4) (i % 4)
    (s.setF r JIB_STAT.STEP_DONE 0).setF r JIB_STAT.PC 0
  | 4 => s.flEdge i
  | 0 => s.fabEdge (i / 256) tag
  | _ =>
    let r := Reg.seqStat (i / 16)
    (s.setF r SEQ_STAT.STEP_DONE 0).setF r SEQ_STAT.PC 0

/-- The reporters of an open step with no report for it issued by time `t`: reports on their way count, each for the
oldest step its unit is missing from (R316, R317). -/
def State.lateAt (s : State) (sec : Nat) (o : OpenStep) (t : Nat) : List Nat :=
  let before (u : Nat) : Nat := ((s.stepOf sec).opens.filter (fun p => decide (p.k < o.k) && p.missing.contains u)).length
  o.missing.filter (fun u => decide (s.reported u t ≤ before u))

/-- A fairlead that will not report for the step it is in: the edge restarts it (R208). -/
def State.flLost (s : State) (u : Nat) : Bool := u / 4096 % 16 == 4 && s.flRestarts (u % 4096)

/-- Under FAULT an edge that falls at `t` before the last report of an overrun step is skipped (R318). No report comes of a fairlead
that the edge restarts, and none is waited for (R208, log entry 62). -/
def State.skips (s : State) (sec t : Nat) : Bool :=
  !s.tick.policy && (s.stepOf sec).opens.any (fun o => o.mark && (s.lateAt sec o t).any (fun u => !s.flLost u))

/-- A step has nothing more to come: every reporter has reported, and a fairlead that left it without a report has been counted as
missing at its deadline (R208, R316). -/
def OpenStep.over (o : OpenStep) : Bool := o.missing == [] && (o.gone == [] || o.mark)

/-- D_k of a section in time-base ns (R317). -/
def State.deadlineAt (s : State) (sec k : Nat) : Nat :=
  s.edgeAt (k + 1) + (s.binding sec).1 - s.f .stkGuard STK_GUARD.G

/-- The section's edges are delivered (R428, R434, R438). -/
def State.secTicks (s : State) (sec : Nat) : Bool :=
  s.bit .stkCtrl STK_CTRL.RUN && s.sectionMasts sec != [] && !s.aborting sec &&
  (match s.secState sec with
  | none => true
  | some st => st == secRunning)

/-- The next edge of a section: the model's own index, or the last device edge, if one has fallen since RUN was set, for a
section that has none yet. -/
def State.secNext (s : State) (sec : Nat) : Nat :=
  match s.tick.steps.find? (fun e => e.1 == sec) with
  | some e => e.2.nextEdge
  | none => if s.bit .stkStat STK_STAT.RUNNING then s.tick.nextK - 1 else s.tick.nextK

/-! ### Reports and deadlines (R316 to R321) -/

/-- The cleat on which a unit waits; 0xFFFF: none. -/
def State.waitCleat (s : State) (u : Nat) : Nat :=
  match s.clt.waits.find? (fun w => w.unit == s.gid u && (match w.who with | .eng _ => true | _ => false)) with
  | some w => w.cleat
  | none => 0xFFFF

/-- Raise TICK_OVERRUN for step `k` of a section with a cause (R318, R321, R492). -/
def State.overrun (s : State) (sec k cause : Nat) (missing : List Nat) : State :=
  let first := missing.foldl (fun (m : Nat) (u : Nat) => min m u) 0xFFFF
  let wc := if missing = [] then 0xFFFF else s.waitCleat first
  let n := missing.length % 65536
  let late := if missing = [] then 0 else 2 ^ 32 - 1
  let s := s.setF .stkErr STK_ERR.OVERRUN 1
  let s := if cause = 2 then s.setF .stkErr STK_ERR.THERMAL 1 else s
  let s := s.wr .stkOvr0 (BitVec.ofNat 64 (k % 2 ^ 32 + sec * 2 ^ 32 + cause * 2 ^ 40 + n * 2 ^ 48))
  let s := s.wr .stkOvr1 (BitVec.ofNat 64 (first + wc * 65536 + late * 2 ^ 32))
  s.logEvent 0x0020 .tickOverrun first sec (cause + n * 256 + wc * 2 ^ 24)

/-- Put a step that is open back. -/
def State.updOpen (s : State) (sec : Nat) (o : OpenStep) : State :=
  let x := s.stepOf sec
  s.setStep sec { x with opens := updFirst (fun p => p.k == o.k) (fun _ => o) x.opens }

/-- The overrun rules apply to a step from now on (R318 steps 1 and 2). -/
def State.stepOverrun (s : State) (sec cause : Nat) (o : OpenStep) (late : List Nat) : State :=
  let had := o.ovr.isSome
  let s := s.updOpen sec { o with ovr := some (o.ovr.getD cause), mark := true, checked := true }
  let s := s.incSat .stkCnt STK_CNT.OVERRUN
  if had then s else s.overrun sec o.k cause late

/-- STEP_DEADLINE: D_k of the oldest step not yet examined passes (R317, R318, R319). -/
def execStepDeadline (sec : Byte) (s : State) : Host.Outcome State Fault Refusal :=
  .next <|
  let sec := sec.toNat
  match (s.stepOf sec).opens.find? (fun o => !o.checked) with
  | none => s
  | some o =>
    let d := s.deadlineAt sec o.k
    let late := s.lateAt sec o d ++ o.gone
    if s.tick.tb < d * tbUnit then s
    else if late = [] ∨ s.tick.policy then s.updOpen sec { o with checked := true }
    else s.stepOverrun sec 0 o late

/-- The grace in force (R319). -/
def State.grace (s : State) : Nat := min (s.f .stkGrace STK_GRACE.GR) (s.period / 4)

/-- The fairleads of a mast (R315). -/
def State.mastFairleads (s : State) (m : Nat) : List Nat := (List.range 16).filter (fun f => s.flMast f == m)

/-- Engine waits of a mast: its sequencer, jibs, tackle, send slots. -/
def engOfMast (m : Nat) : EngKey → Bool
  | .seq k => k == m
  | .jib j => j / 4 == m
  | .tackle k => k == m
  | .send o _ => o == m
  | _ => false

/-- Withdraw the engine waits of a mast (R301). A wait that was satisfied before stays so, its count consumed. -/
def State.dropMastWaits (s : State) (m : Nat) : State :=
  { s with clt := { s.clt with
      waits := s.clt.waits.filter (fun w => match w.who with | .eng k => !engOfMast m k | _ => true) } }

/-- Forget the waits of a mast's engines that were satisfied and not yet taken up: the engines end (R436). -/
def State.dropMastGrants (s : State) (m : Nat) : State :=
  { s with clt := { s.clt with grants := s.clt.grants.filter (fun g => !engOfMast m g.key) } }

/-- The engines of a mast show no wait, and its jibs no instruction: one that a jib still executes is an HRECV that waits for a
message (R169). -/
def State.clearWaiting (s : State) (m : Nat) : State :=
  let s := (s.setF (.seqStat m) SEQ_STAT.WAITING 0).setF (.tkStat m) TK_STAT.WAITING 0
  (List.range 4).foldl (fun (s : State) (l : Nat) => (s.setF (.jibStat m l) JIB_STAT.WAITING 0).setF (.jibStat m l) JIB_STAT.BUSY 0) s

/-- The sources of a suspending section stop and its masts drain (R438 steps 2 and 3, R99, R147, R224, R229, R290,
R301). -/
def State.stopSources (s : State) (sec : Nat) : State :=
  let x := Tbl.get {} s.secs sec
  if x.stopped then s
  else
    let s := { s with secs := Tbl.set s.secs sec { x with stopped := true } }
    (s.loadedMasts sec).foldl (fun (s : State) (m : Nat) =>
      let s := (s.mastFairleads m).foldl State.flSuspend (s.dropMastWaits m)
      (s.clearWaiting m).startDrain m) s

/-- A suspending section without a step in progress stops its sources (R438). -/
def State.suspendStop (s : State) (sec : Nat) : State :=
  if s.secState sec = some secSuspending ∧ (s.stepOf sec).opens = [] then s.stopSources sec else s

/-- A step is done (R317, R319, R321, R485). BUDGET counts it where it is done after its Budget, late or overrun too (R322, R324). -/
def State.stepDone (s : State) (sec : Nat) (o : OpenStep) : State :=
  let x := s.stepOf sec
  let s := s.setStep sec { x with opens := x.opens.filter (fun p => p.k != o.k) }
  let d := s.deadlineAt sec o.k
  let s := if o.ovr.isSome then
      let late := min (o.last - d) (2 ^ 32 - 1)
      let same := s.rd .stkOvr0 == (s.rd .stkOvr0 &&& 0xFFFFFF0000000000) + BitVec.ofNat 64 (o.k % 2 ^ 32 + sec * 2 ^ 32)
      let s := if same then s.wr .stkOvr1 (BitVec.ofNat 64 ((s.rd .stkOvr1).toNat % 2 ^ 32 + late * 2 ^ 32)) else s
      s.logEvent 0x0021 .tickOverrun o.lastUnit sec late
    else s
  let s := if o.mark then s
    else if d < o.last then s.incSat .stkCnt STK_CNT.LATE
    else s
  let s := if s.edgeAt o.k + (s.binding sec).1 + (s.binding sec).2 < o.last then s.incSat .stkCnt STK_CNT.BUDGET else s
  let s := if o.bad = 0 then s else s.logEvent 0x0011 .poisoned 0xFFFF sec (min o.bad 65535)
  s.suspendStop sec

/-- STEP_GRACE_EXPIRY: D_k + GR passes under LATE_OK with reporters missing (R319). -/
def execStepGraceExpiry (sec : Byte) (s : State) : Host.Outcome State Fault Refusal :=
  .next <|
  let sec := sec.toNat
  match (s.stepOf sec).opens.find? (fun o => o.checked && !o.mark) with
  | none => s
  | some o =>
    let d := s.deadlineAt sec o.k + s.grace
    let late := s.lateAt sec o d ++ o.gone
    if !s.tick.policy || decide (s.tick.tb < d * tbUnit) || late == [] then s
    else
      let s := s.stepOverrun sec 1 o late
      match (s.stepOf sec).opens.find? (fun p => p.k == o.k) with
      | some p => if p.over then s.stepDone sec p else s
      | none => s

/-! ### The edges of a section (R315, R316, R318, R319) -/

/-- A fairlead that a malformed entry has stopped, or whose step list ran out, restarts at the edge that falls at `t`: it leaves the
older steps without a report. Under FAULT their deadline has passed; under LATE_OK a step stays open until its grace has passed, so
that its overrun record counts the fairlead (R207, R208, log entry 62). -/
def State.flResume (s : State) (sec t u : Nat) : State :=
  (s.stepOf sec).opens.foldl (fun (s : State) (o : OpenStep) =>
    if !o.missing.contains u then s
    else
      let s := if o.mark || s.tick.policy then s else s.stepOverrun sec 0 o (s.lateAt sec o (s.deadlineAt sec o.k) ++ o.gone)
      match (s.stepOf sec).opens.find? (fun p => p.k == o.k) with
      | none => s
      | some o =>
        let o := { o with missing := o.missing.filter (· != u), gone := o.gone ++ [u], last := max o.last t, lastUnit := u }
        let s := s.updOpen sec o
        if o.over then s.stepDone sec o else s) s

/-- SECTION_EDGE: the section's next edge S_k falls: delivered, skipped, or cut off (R315, R316, R318, R319, R436). A
reporter that is still in an older step gets the edge at its report. The section's buckets and channels count every edge
(R336). -/
def execSectionEdge (sec : Byte) (s : State) : Host.Outcome State Fault Refusal :=
  .next <|
  let sec := sec.toNat
  let k := s.secNext sec
  let t := s.edgeAt k + (s.binding sec).1
  if !s.secTicks sec || decide (s.tick.nextK ≤ k) || decide (s.tick.tb < t * tbUnit) then s
  else
    let cut := match (Tbl.get {} s.secs sec).cutoff with
      | some c => decide (c < s.deadlineAt sec k)
      | none => false
    let skip := s.skips sec t
    let s := s.setStep sec { s.stepOf sec with nextEdge := k + 1 }
    if cut then s.entsEdge sec true
    else if skip then (s.incSat .stkCnt STK_CNT.SKIPPED).entsEdge sec true
    else
      let rs := s.reporters sec
      let inOld (s : State) (u : Nat) : Bool := (s.stepOf sec).opens.any (fun o => (s.lateAt sec o t).contains u)
      let back := rs.filter (fun u => s.flLost u && inOld s u)
      let s := back.foldl (fun s u => s.flResume sec t u) s
      let go := rs.filter (fun u => !inOld s u)
      let x := s.stepOf sec
      let s := s.setStep sec { x with k := k, opens := if rs = [] then x.opens else x.opens ++ [{ k := k, missing := rs }] }
      let fabs := ((s.sectionMasts sec).map (fun m => uSheave (256 * m))).filter (fun u => !rs.contains u)
      let s := (go ++ fabs).foldl (fun (s : State) (u : Nat) => s.unitEdge u k) s
      s.entsEdge sec true

/-- END_OF_STEP: the oldest report of a unit reaches the tick logic (R316). A unit that issued it after the next edge of its
section had been delivered to the others gets that edge now (R317, R319). -/
def execEndOfStep (unit : BitVec 16) (s : State) : Host.Outcome State Fault Refusal :=
  .next <|
  let u := unit.toNat
  match s.tick.reports.find? (fun r => r.1 == u), (s.workMast u).bind s.mastSection with
  | none, _ => s
  | some r, none => { s with tick := { s.tick with reports := s.tick.reports.erase r } }
  | some r, some sec =>
    let s := { s with tick := { s.tick with reports := s.tick.reports.erase r } }
    match (s.stepOf sec).opens.find? (fun o => o.missing.contains u) with
    | none => s
    | some o =>
      let newer := decide (o.last ≤ r.2)
      let o := { o with missing := o.missing.filter (· != u), last := max o.last r.2,
                        lastUnit := if newer then u else o.lastUnit }
      let s := s.updOpen sec o
      let s := if o.over then s.stepDone sec o else s
      match (s.stepOf sec).opens.find? (fun p => p.missing.contains u) with
      | some p => if s.edgeAt p.k + (s.binding sec).1 < r.2 then s.unitEdge u p.k else s
      | none => s

/-! ### The clock -/

/-- One period of the reference clock, 6.4 ns (R31, log entry 1): the time base, the memories, the fabrics, the ports and
the shroud logic. -/
def State.clock (s : State) : State :=
  let s := State.tbClock { s with refs := s.refs + 1 }
  let s := (s.chipClock (s.cyclesNow 2560)).coilClock
  let s := (List.range 8).foldl (fun (s : State) (m : Nat) => (s.fabClock m).tkClock m) s
  let s := s.netClock.shroudPass
  s.runHeld s.clt.held []

end Sys2Proof.Machine
end

