-- ==== Sys2Proof/Machine/SecCheck.lean ====
section
/-! DEFINITION. The configuration checks of a section load (16_sections.md R430 step 4): the fabric (R142), coils (R188),
rings (R281), AUTOACK (R286), buckets and ordered channels (R343). -/

namespace Sys2Proof.Machine

/-- Two ranges of addresses meet. -/
def rngMeet (a n b m : Nat) : Bool := decide (a < b + m) && decide (b < a + n)

/-- The value has a bit that no field of the register names. -/
def Reg.reserved (r : Reg) (v : Nat) : Bool :=
  (List.range 64).any (fun i => bitN v i &&
    !(Reg.fields r).any (fun F => F.w == Reg.word r && decide (F.lo ≤ i) && decide (i ≤ F.hi)))

/-! ### What a written register stores (R10, R11, R424) -/

/-- The fields of a register's own word. -/
def Reg.here (r : Reg) : List Field := (Reg.fields r).filter (fun F => F.w == Reg.word r)

/-- A value outside a field's stated range: the field keeps its own, where the tables say that the write is ignored
(R345 for the port modes); a timer of TP_TIMER, for which no table says what such a write does, takes a
free value of its range (log entry 38). -/
def State.fieldNew (s : State) (r : Reg) (F : Field) (x : Nat) : Nat :=
  let old := s.f r F
  let keep (ok : Bool) : Nat := if ok then x else old
  let some_ (lo hi : Nat) : Nat :=
    if lo ≤ x ∧ x ≤ hi then x else lo + Config.freeNat (s.free + F.lo) % (hi + 1 - lo)
  match r with
  | .fabWd _ => keep (F != FAB_WD.EXP || (decide (10 ≤ x) && decide (x ≤ 24)))
  | .halTmo _ => keep (decide (x ≤ 1000000))
  | .halCfg o _ => keep (F != HAL_CFG.IRQ || o == 8)
  | .hbmScrub _ => keep (F != HBM_SCRUB.PERIOD || x != 0)
  | .hbmMap => keep (F != HBM_MAP.SPLITG || decide (x ≤ 96))
  | .portCfg p => keep (F != PORT_CFG.MODE || decide (x ≤ 1) || (x == 2 && decide (p < 16)))
  | .redCtrl => keep (decide (x ≤ 40))
  | .cnWd => keep (F != CN_WD.PERIOD || (decide (10 ≤ x) && decide (x ≤ 10000)))
  | .pwrCtrl => keep (decide (450 ≤ x) && decide (x ≤ 2600))
  | .stkPeriod => keep (decide (1000 ≤ x) && decide (x ≤ 10000000) && !s.bit .stkCtrl STK_CTRL.RUN)
  | .stkT0 => keep (!s.bit .stkCtrl STK_CTRL.RUN)
  | .stkGuard => keep (decide (x ≤ 1000000) && decide (x < s.period))
  | .win i _ => keep (!s.bit (.win i 0) WIN.OPEN)
  | .tpTimer =>
    if F = TP_TIMER.HBINT then some_ 1 1000
    else if F = TP_TIMER.HBMISS then some_ 2 15
    else if F = TP_TIMER.RTOMAX then some_ 8 65535
    else if F = TP_TIMER.ACKN then some_ 1 15
    else x
  | _ => x

/-- The word a register stores after a write of `v`: RW and RWL fields take their value, each 1 of a W1C field clears. -/
def State.merged (s : State) (r : Reg) (v : Nat) : Nat :=
  (Reg.here r).foldl (fun (w : Nat) (F : Field) =>
    let x := fld v F.hi F.lo
    match F.acc with
    | .rw => setBits w F.hi F.lo (s.fieldNew r F x)
    | .rwl => setBits w F.hi F.lo (s.fieldNew r F x)
    | .w1c => setBits w F.hi F.lo (fld w F.hi F.lo &&& (2 ^ (F.hi + 1 - F.lo) - 1 - x))
    | _ => w) (s.rd r).toNat

/-- Store a written word. -/
def State.regStore (s : State) (r : Reg) (v : Nat) : State := s.wr r (BitVec.ofNat 64 (s.merged r v))

/-! ### Slots and instructions (R118 to R125, R130, R142) -/

/-- The types an operation of R124 lists, as a mask; the forms it has: bit 0 vector, bit 1 scalar. -/
def shvForms (op : Nat) : Nat × Nat :=
  if op = 0x05 then (3, 3)
  else if 0x0A ≤ op ∧ op ≤ 0x0F then (4, 3)
  else if 0x15 ≤ op ∧ op ≤ 0x18 then (7, 1)
  else if op = 0x19 then (7, 2)
  else (7, 3)

/-- A source operand code is legal in a form and its queue is bound (R123). -/
def srcOk (bound : List Nat) (scl : Bool) (c : Nat) : Bool :=
  if c < 0x20 then true
  else if c < 0x26 then !scl && bound.contains (c - 0x20)
  else if c < 0x2C then bound.contains (c - 0x20)
  else c == 0x3D || (c == 0x3E && !scl) || c == 0x3F

/-- A destination operand code is legal in a form and its queue is bound (R123). -/
def dstOk (bound : List Nat) (op : Nat) (scl : Bool) (c : Nat) : Bool :=
  if c < 0x20 then true
  else if 0x10 ≤ op ∧ op ≤ 0x12 then false
  else
    let one := op == 0x15 || op == 0x16 || op == 0x17
    (if c = 0x30 ∨ c = 0x31 then !scl && !one
     else if c = 0x32 ∨ c = 0x33 then scl || one
     else c == 0x34 && scl) && bound.contains (c - 0x30)

/-- An instruction of a slot passes R142: codes, types, forms, bound queues, no write to P0. -/
def shvOk (inb outb : List Nat) (w : Nat) : Bool :=
  let op := fld w 30 26
  let scl := bitN w 31
  let t := fld w 25 24
  let dst := fld w 23 18
  let f := shvForms op
  let usesA := op != 0
  let usesB := (decide (2 ≤ op) && decide (op ≤ 7)) || (decide (0x0A ≤ op) && decide (op ≤ 0x13))
  decide (op ≤ 0x19) && t != 3 && !bitN w 0 && bitN f.1 t && bitN f.2 (if scl then 1 else 0) &&
  (!usesA || srcOk inb (scl || op == 0x18) (fld w 17 12)) &&
  (op != 0x19 || (decide (0x26 ≤ fld w 17 12) && decide (fld w 17 12 ≤ 0x29))) &&
  (!usesB || srcOk inb scl (fld w 11 6)) &&
  (op != 0x14 || fld w 11 6 % 4 != 3) &&
  (op == 0 || dstOk outb op scl dst) &&
  !(decide (0x10 ≤ op) && decide (op ≤ 0x12) && dst % 16 == 0)

/-- Some number of a list occurs twice. -/
def repeats (l : List Nat) : Bool :=
  match l with
  | [] => false
  | a :: t => t.contains a || repeats t

/-- The queues a steering slot needs (R130). -/
def State.steerOk (s : State) (m n k : Nat) : Bool :=
  let r := s.roles m n k
  let nets := (r.d.map iqNet) ++ (r.o.map oqNet)
  let same := nets.all (fun x => x == nets.headD 0)
  same && (match s.hdr m n k SLOT.KIND with
  | 1 => decide (1 ≤ r.d.length) && r.t.isSome && decide (2 ≤ r.o.length)
  | 2 => decide (2 ≤ r.d.length) && r.t.isSome && decide (1 ≤ r.o.length)
  | _ => decide (2 ≤ r.d.length) && decide (1 ≤ r.o.length))

/-- The valid slots of a sheave. -/
def State.liveSlots (s : State) (m n : Nat) : List Nat := (List.range 8).filter (fun k => s.hdr m n k SLOT.VALID == 1)

/-- The route-plane groups of a network: inputs N, S, W, E, then its output queues (R119). -/
def netOuts : Nat → List Nat
  | 0 => [0, 1] | 1 => [2, 3] | _ => [4]

/-- A route plane passes R113, R119 and R142. -/
def State.planeOk (s : State) (m n k net : Nat) : Bool :=
  let outs := netOuts net
  let groups := 4 + outs.length
  let w := if net = 0 then 10 else if net = 1 then 8 else 6
  let base := if net = 0 then 0 else if net = 1 then 6 else 10
  let bound := s.liveSlots m n |>.flatMap (fun j => s.inBound m n j)
  let g (i : Nat) : Nat := s.route m n k net i
  decide ((s.rd (.slot m n k (1 + net))).toNat < 2 ^ (w * groups)) &&
  (List.range groups).all (fun i =>
    (decide (i < 4) || g i == 0 ||
      (s.hdr m n k SLOT.VALID == 1 && (s.outBound m n k).contains (outs.getD (i - 4) 0))) &&
    (decide (4 ≤ i) || !bitN (g i) i) &&
    (List.range (w - 4)).all (fun q => !bitN (g i) (4 + q) || bound.contains (base + q)) &&
    (List.range i).all (fun j => (g i) &&& (g j) == 0))

/-- A slot passes the checks of R142 that concern it alone. -/
def State.slotOk (s : State) (m n k : Nat) : Bool :=
  let kind := s.hdr m n k SLOT.KIND
  let len := s.hdr m n k SLOT.LENGTH
  let prog := (List.range len).map (fun i => s.shvWord m n k i)
  let outs := (prog.filter (fun w => fld w 30 26 != 0)).map (fun w => fld w 23 18)
  (if kind = 0 then decide (1 ≤ len) && decide (len ≤ 24) else len == 0 && s.steerOk m n k) &&
  s.hdr m n k SLOT.RND != 3 && s.hdr m n k SLOT.GEN == s.f (.fabGen m) FAB_GEN.GEN &&
  prog.all (shvOk (s.inBound m n k) ((s.outBound m n k))) &&
  !repeats (outs.filter (fun d => decide (0x30 ≤ d))) &&
  (List.range 3).all (fun net => s.planeOk m n k net)

/-- The sheaves of a mast that have a slot record. -/
def State.usedSheaves (s : State) (m : Nat) : List Nat := (List.range 256).filter (fun n => s.liveSlots m n != [])

/-- The slots of a mast with a route-plane word and no VALID bit, as (sheave, slot): their planes direct the traffic of
their lane all the same (R109). -/
def State.routeSlots (s : State) (m : Nat) : List (Nat × Nat) :=
  s.regs.filterMap (fun e => match e.1 with
    | .slot m' n k w => if m' = m ∧ w ≠ 0 ∧ s.hdr m n k SLOT.VALID = 0 then some (n, k) else none
    | _ => none)

/-- No queue is bound to two slots of a sheave (R120). -/
def State.bindsOk (s : State) (m n : Nat) : Bool :=
  !repeats ((s.liveSlots m n).flatMap (fun k => s.inBound m n k)) &&
  !repeats ((s.liveSlots m n).flatMap (fun k => s.outBound m n k))

/-! ### Channels (R142) -/

/-- Trace a channel: router inputs still to follow, routers met. `side` 4 and up: a local output queue. -/
def State.traceOk (s : State) (m net lane : Nat) : Nat → List (Nat × Nat) → List Nat → Bool
  | 0, l, _ => l == []
  | _ + 1, [], _ => true
  | k + 1, (n, side) :: l, met =>
    let g := s.route m n lane net side
    if met.contains n || g == 0 then false
    else
      let dirs := (List.range 4).filter (bitN g)
      if dirs.all (fun d => (neighbour n d).isSome || (s.sinkAt m n d net lane).isSome) then
        s.traceOk m net lane k (l ++ dirs.filterMap (fun d => (neighbour n d).map (fun n' => (n', opposite d)))) (n :: met)
      else false

/-- Every channel of a mast traces to its ends. -/
def State.channelsOk (s : State) (m : Nat) : Bool :=
  (s.usedSheaves m).all (fun n => (s.liveSlots m n).all (fun k => (s.outBound m n k).all (fun q =>
    let net := oqNet q
    s.traceOk m net k 300 [(n, 4 + (netOuts net).idxOf q)] []))) &&
  (List.range 64).all (fun p =>
    if s.edge m p FAB_EDGE.VALID = 1 ∧ s.edge m p FAB_EDGE.KIND < 3 then
      let side := s.edge m p FAB_EDGE.SIDE
      s.traceOk m (s.edge m p FAB_EDGE.NET) (s.edge m p FAB_EDGE.LANE) 300
        [(edgeSheave side (s.edge m p FAB_EDGE.POS), side)] []
    else true)

/-! ### Edge ports and spill coils (R114, R142, R286) -/

/-- The edge ports of a mast pass R142, and R286 for SRC_HALYARD. -/
def State.edgesOk (s : State) (m : Nat) : Bool :=
  let ps := (List.range 64).filter (fun p => s.edge m p FAB_EDGE.VALID == 1)
  let place (p : Nat) : Nat := s.edge m p FAB_EDGE.SIDE + 4 * s.edge m p FAB_EDGE.POS + 64 * s.edge m p FAB_EDGE.NET
  !repeats (ps.map place) &&
  ps.all (fun p =>
    let kind := s.edge m p FAB_EDGE.KIND
    let net := s.edge m p FAB_EDGE.NET
    net != 3 && kind != 3 && kind != 7 && (kind != 1 || net == 2) && (kind != 2 || net == 1) &&
    (kind != 6 || s.edge m p FAB_EDGE.STEP_COUNT != 0) &&
    (kind != 2 || s.hcfg (128 * m + s.edge m p FAB_EDGE.CHAN) HAL_CFG.AUTOACK == 1))

/-- The spill entries of a mast pass R142. -/
def State.spillsOk (s : State) (m : Nat) : Bool :=
  let es := (List.range 64).filter (fun e => s.bit (.fabSpill m e) FAB_SPILL.VALID)
  let sh (e : Nat) : Nat := s.f (.fabSpill m e) FAB_SPILL.SHEAVE
  let q (e : Nat) : Nat := s.f (.fabSpill m e) FAB_SPILL.QUEUE
  !repeats (es.map (fun e => 16 * sh e + q e)) &&
  es.all (fun e =>
    let c := s.f (.fabSpill m e) FAB_SPILL.COIL
    ((s.liveSlots m (sh e)).any (fun k => (s.inBound m (sh e) k).contains (q e))) &&
    s.co m c COIL.VALID == 1 && s.co m c COIL.MEM == 0)

/-! ### Coils and rings (R188, R281) -/

/-- A number from 49,152 to 0xFFFE names no cleat. -/
def noCleat (c : Nat) : Bool := decide (cleatMax < c) && c != 0xFFFF

/-- The valid coils of a mast. -/
def State.coilsOf (s : State) (m : Nat) : List Nat := (List.range 256).filter (fun k => s.co m k COIL.VALID == 1)

/-- Address and bytes of a coil. -/
def State.coilRange (s : State) (m k : Nat) : Nat × Nat := (s.recAddr m k 0, s.co m k COIL.CAP * s.recSize m k)

/-- Coils of a mast pass R188. -/
def State.coilsOk (s : State) (m : Nat) : Bool :=
  let ks := s.coilsOf m
  ks.all (fun k =>
    let r := s.coilRange m k
    let sz := s.recSize m k
    let home := if s.co m k COIL.MEM = 0 then some (Region.act m) else some (Region.psum (16 * m + s.co m k COIL.SAIL))
    decide (s.co m k COIL.RECSZ ≤ 9) && s.co m k COIL.CAP != 0 && s.co m k COIL.BASE % sz == 0 &&
    s.fuses.region r.1 r.2 == home &&
    !noCleat (s.co m k COIL.CLEAT) &&
    s.co m k COIL.RESV == s.co m k COIL.TAIL && s.co m k COIL.CLAIM == s.co m k COIL.HEAD &&
    decide (recDiff (s.co m k COIL.TAIL) (s.co m k COIL.HEAD) ≤ s.co m k COIL.CAP) &&
    ks.all (fun j => j == k || !rngMeet r.1 r.2 (s.coilRange m j).1 (s.coilRange m j).2))

/-- The ring channels of an owner, as endpoints, with those that accept no messages. -/
def State.ringsOf (s : State) (o : Nat) : List Nat :=
  ((List.range 128).map (fun c => 128 * o + c)).filter (fun e => s.hcfg e HAL_CFG.RING == 1)

/-- The ring of an endpoint: address and bytes. -/
def State.ringRange (s : State) (e : Nat) : Nat × Nat := (s.hring e HAL_RING.BASE, 16 * s.hring e HAL_RING.SIZE)

/-- Channels of a mast pass R281 and the limits of R292. -/
def State.channelsHalOk (s : State) (m : Nat) : Bool :=
  let rs := s.ringsOf m
  (List.range 128).all (fun c =>
    (s.hcfg (128 * m + c) HAL_CFG.VALID == 0 && s.hcfg (128 * m + c) HAL_CFG.RING == 0) ||
    (decide (1 ≤ s.hcfg (128 * m + c) HAL_CFG.MAXLEN) && decide (s.hcfg (128 * m + c) HAL_CFG.MAXLEN ≤ 256))) &&
  rs.all (fun e =>
    let r := s.ringRange e
    decide (2 * s.hcfg e HAL_CFG.MAXLEN ≤ s.hring e HAL_RING.SIZE) &&
    decide (2 ≤ s.hring e HAL_RING.SIZE) && decide (s.hring e HAL_RING.SIZE ≤ 65536) &&
    s.fuses.region r.1 r.2 == some (Region.act m) && r.1 % 16 == 0 &&
    s.hptr e HAL_PTR.HEAD == s.hptr e HAL_PTR.TAIL &&
    rs.all (fun e' => e' == e || !rngMeet r.1 r.2 (s.ringRange e').1 (s.ringRange e').2) &&
    (s.coilsOf m).all (fun k => !rngMeet r.1 r.2 (s.coilRange m k).1 (s.coilRange m k).2))

/-! ### Buckets and ordered channels (R343) -/

/-- An entry passes R343; `others`: the declared entries it must not overlap. -/
def State.entOk (s : State) (e : Nat) (others : List Nat) : Bool :=
  let b := s.entBase e
  let n := s.entLen e
  let chk := s.ent e BKT.CHK ORD.CHK
  let home := s.fuses.region b n
  let inAct := match home with
    | some (.act _) => true
    | _ => false
  chk != 3 && (chk != 2 || s.ent e BKT.INIT ORD.INIT == 1) && decide (s.ent e BKT.F ORD.F ≤ 40) &&
  s.ent e BKT.TMO ORD.TMO != 0 && b % 64 == 0 && n != 0 && n % 64 == 0 &&
  (inAct || (home == some .hbm && !isOrd e)) &&
  others.all (fun x => x == e || !rngMeet b n (s.entBase x) (s.entLen x)) &&
  !noCleat (s.ent e BKT.DONECLEAT ORD.DONECLEAT) && !noCleat (s.entArm e) &&
  (if isOrd e then
    let o := e - 4096
    let ranks := s.f (.ord o 1) ORD.RANKS
    decide (n ≤ 4096) && decide (1 ≤ ranks) && decide (ranks ≤ 64) && decide (ranks * n ≤ 65536) &&
    s.f (.ord o 1) ORD.RANKSTRIDE != 0
  else s.f (.bkt e 2) BKT.EXPECTED != 0)

/-- Step 4 of R430 for one mast (R142, R188, R281, R286). -/
def State.mastOk (s : State) (m : Nat) : Bool :=
  (s.usedSheaves m).all (fun n => s.bindsOk m n && (s.liveSlots m n).all (fun k => s.slotOk m n k)) &&
  (s.routeSlots m).all (fun p => (List.range 3).all (fun net => s.planeOk m p.1 p.2 net)) &&
  s.edgesOk m && s.spillsOk m && s.channelsOk m && s.coilsOk m && s.channelsHalOk m

end Sys2Proof.Machine
end

