-- ==== Sys2Proof/Machine/SecOps.lean ====
section
/-! DEFINITION. The section image, the passes of a load, unload, the save area (16_sections.md). -/

namespace Sys2Proof.Machine

/-! ### The header (R421) -/

/-- SIGNED. -/
def imgSigned (h : List Byte) : Bool := bitN (leAt h 6 2) 0
/-- ENCRYPTED. -/
def imgEnc (h : List Byte) : Bool := bitN (leAt h 6 2) 1
/-- MastMask. -/
def imgMask (h : List Byte) : Nat := leAt h 8 1
/-- ConfigLen. -/
def imgLen (h : List Byte) : Nat := leAt h 0x28 8
/-- SaveAddr. -/
def imgSave (h : List Byte) : Nat := leAt h 0x30 8
/-- OwnerId. -/
def imgOwner (h : List Byte) : List Byte := (h.drop 0x80).take 64
/-- The measurement of a section (R422). -/
def imgMeasure (h : List Byte) : List Byte := Config.sha512 (h.take 0xE0)
/-- Bytes of a save area (R439). -/
def saveSize : Nat := 18 * 2 ^ 20

/-- Every byte of a range is zero. -/
def zeroAt (l : List Byte) (o n : Nat) : Bool := leAt l o n == 0

/-- The state a section has with the loader. -/
def State.sect (s : State) (sec : Nat) : Section := Tbl.get {} s.secs sec
/-- Store it. -/
def State.setSect (s : State) (sec : Nat) (x : Section) : State := { s with secs := Tbl.set s.secs sec x }

/-- The header's fields pass step 2 of R430, its places apart. -/
def State.hdrOk (s : State) (h : List Byte) : Bool :=
  let order := if s.fuses.a12 then 1 else 0
  leAt h 0 4 == 0x4E534B44 && leAt h 4 2 == 1 && decide (leAt h 6 2 < 4) && (!imgEnc h || imgSigned h) &&
  zeroAt h 0x0D 3 && zeroAt h 0x38 8 && zeroAt h 0xCC 4 && zeroAt h 0x164 156 &&
  imgMask h != 0 && (leAt h 9 1 == order || leAt h 9 1 == 0xFF) && decide (leAt h 0x0A 1 ≤ 3) &&
  leAt h 0x0B 1 == s.f .hbmMap HBM_MAP.GRAN && leAt h 0x0C 1 == s.f .hbmMap HBM_MAP.SPLITG &&
  leAt h 0x10 4 == s.period && decide (leAt h 0x14 4 < leAt h 0x10 4) &&
  decide (leAt h 0x18 4 ≤ s.period - s.f .stkGuard STK_GUARD.G) &&
  decide (1 ≤ leAt h 0x1C 4) && decide (leAt h 0x1C 4 ≤ 4096) &&
  imgLen h % 64 == 0 && decide (imgLen h ≤ 2 ^ 24) && imgSave h % 4096 == 0 && (imgSigned h || zeroAt h 0x80 64)

/-- The section ID is loaded, or the New of a switch that waits to be written (R427); `old`: the section a switch replaces. -/
def State.idBusy (s : State) (sec : Nat) (old : Option Nat) : Bool :=
  ((s.secEntry sec).isSome && old != some sec) || s.loader.switches.any (fun j => some j.old != old && j.new == sec)

/-- A mast holds a section, is promised to the New of a switch, or is in SLEEP. -/
def State.mastsBusy (s : State) (mask : Nat) (old : Option Nat) : Bool :=
  (maskMasts mask).any (fun m => s.mastPower m == 2 ||
    (match s.mastEntry m with
    | some i => old != some (s.f (.slSec i 0) SL_SEC.SECTION)
    | none => false) ||
    s.loader.switches.any (fun j => some j.old != old && bitN (imgMask j.hdr) m))

/-- Steps 1 and 2 of R430 but for the weight blobs. Answers the header. -/
def State.imgCheck (s : State) (sec a : Nat) (old : Option Nat) : Status × List Byte :=
  let h := s.bytes a 512
  let st := s.access (.unit uLoader) false a 512
  let size := 512 + imgLen h
  if sec = 0xFF ∨ a % 4096 ≠ 0 ∨ s.fuses.region a 512 ≠ some .hbm then (.badDescriptor, [])
  else if st ≠ .done then (st, [])
  else if s.idBusy sec old then (.busy, [])
  else if s.poisonedAt a 512 then (.poisoned, [])
  else if s.mastsBusy (imgMask h) old then (.busy, [])
  else if !s.hdrOk h || s.fuses.region a size != some .hbm || s.access (.unit uLoader) false a size != .done ||
     (imgSave h != 0 && (s.fuses.region (imgSave h) saveSize != some .hbm || rngMeet a size (imgSave h) saveSize)) then
    (.badDescriptor, [])
  else (.done, h)

/-! ### The verify pass (R422, R430 step 3) -/

/-- The key of an image slot; none where it holds none. -/
def State.imageKey (s : State) (k : Nat) : Option (List Byte) := (s.sec.image.find? (fun e => e.1 == k)).map (·.2)

/-- The image key that a header names. -/
def State.imgKeyOf (s : State) (h : List Byte) : List Byte := (s.imageKey (leAt h 0x0A 1)).getD []

/-- The image key that a signed image needs has been erased, or was never there (R457). -/
def keyGone (h key : List Byte) : Bool := imgSigned h && key == []

/-- The config key of an image key (R455). -/
def imgGcmKey (k : List Byte) : List Byte := Config.hkdf k [] (ascii "BRECO image gcm") 32

/-- Step 3 of R430: status, and whether the signature failed. Every section that is loaded, or that a pending switch will load,
has the owner of the image (R427). -/
def State.imgVerify (s : State) (a : Nat) (h key : List Byte) (old : Option Nat) : Status × Bool :=
  let stored := s.bytes (a + 512) (imgLen h)
  let digest := Config.sha512 stored == (h.drop 0x40).take 64
  let others := (List.range 8).filter (fun i => s.bit (.slSec i 0) SL_SEC.VALID &&
    old != some (s.f (.slSec i 0) SL_SEC.SECTION))
  let owners := others.all (fun i => imgOwner (s.sect (s.f (.slSec i 0) SL_SEC.SECTION)).hdr == imgOwner h) &&
    s.loader.switches.all (fun j => some j.old == old || imgOwner j.hdr == imgOwner h)
  if s.poisonedAt (a + 512) (imgLen h) then (.poisoned, false)
  else if !imgSigned h then (if digest && owners then .done else .denied, false)
  else if key = [] then (.denied, false)
  else
    let gk := imgGcmKey key
    let iv := (h.drop 0xC0).take 12
    let tag := (h.drop 0xD0).take 16
    if !Config.ecdsaOk s.sec.ownerPub (h.take 0xE0) ((h.drop 0xE0).take 132) then (.denied, true)
    else if imgOwner h != Config.sha512 s.sec.ownerPub || !digest || !owners ||
       (imgEnc h && Config.gcmTag gk iv (h.take 0x40) (Config.gcmDec gk iv stored) != tag) then (.denied, false)
    else (.done, false)

/-- The config part in plaintext. -/
def State.imgConfig (s : State) (a : Nat) (h key : List Byte) : List Byte :=
  let d := s.bytes (a + 512) (imgLen h)
  if imgEnc h then Config.gcmDec (imgGcmKey key) ((h.drop 0xC0).take 12) d else d

/-! ### The directory (R423) -/

/-- A directory entry. -/
structure DirEntry where
  kind : Nat
  mast : Nat
  off : Nat
  len : Nat
  dest : Nat
  rsv : Bool
  deriving DecidableEq, Repr

/-- Entry `i` of a config part. -/
def dirAt (cfg : List Byte) (i : Nat) : DirEntry :=
  let o := 32 * i
  { kind := leAt cfg o 2, mast := leAt cfg (o + 2) 1, rsv := leAt cfg (o + 3) 5 != 0, off := leAt cfg (o + 8) 8
    len := leAt cfg (o + 16) 8, dest := leAt cfg (o + 24) 8 }

/-- The directory of a config part. -/
def dirOf (h cfg : List Byte) : List DirEntry := (List.range (leAt h 0x1C 4)).map (dirAt cfg)

/-- A directory entry passes R423. -/
def dirOk (h : List Byte) (e : DirEntry) : Bool :=
  !e.rsv && decide (1 ≤ e.kind) && decide (e.kind ≤ 7) && e.off % 64 == 0 && decide (32 * leAt h 0x1C 4 ≤ e.off) &&
  decide (e.off + e.len ≤ imgLen h) && (e.kind == 5 || e.dest == 0) &&
  ((decide (e.mast < 8) && bitN (imgMask h) e.mast) || (e.mast == 0xFF && decide (3 < e.kind)))

/-- The chunk of an entry. -/
def chunkOf (cfg : List Byte) (e : DirEntry) : List Byte := (cfg.drop e.off).take e.len

/-- The weight references of a config part: 64 B records. -/
def wrefsOf (h cfg : List Byte) : List (List Byte) :=
  (dirOf h cfg).flatMap (fun e => if e.kind = 7 ∧ dirOk h e then
    (List.range (e.len / 64)).map (fun i => ((chunkOf cfg e).drop (64 * i)).take 64) else [])

/-- The save area overlaps a weight blob (R430 step 2). -/
def saveMeetsBlob (h cfg : List Byte) : Bool :=
  imgSave h != 0 && (wrefsOf h cfg).any (fun r => rngMeet (leAt r 0 8) (leAt r 8 8) (imgSave h) saveSize)

/-- The save area of an image overlaps a weight blob (R430 step 2). The references of an ENCRYPTED image are known where its key
slot holds a key. -/
def State.saveClash (s : State) (a : Nat) (h : List Byte) : Bool :=
  !(imgEnc h && keyGone h (s.imgKeyOf h)) && saveMeetsBlob h (s.imgConfig a h (s.imgKeyOf h))

/-! ### The write pass (R424 to R426, R429) -/

/-- A load in progress: the state, what the section has so far, and whether every chunk was legal. -/
structure Load where
  s : State
  x : Section
  ok : Bool := true

/-- The load fails. -/
def Load.bad (l : Load) : Load := { l with ok := false }

/-- Write a register and note it. The loader is exempt from the lock (R427); a value that a field does not take is ignored as in any
write (R424). -/
def Load.reg (l : Load) (r : Reg) (v : Nat) : Load :=
  { l with s := l.s.regStore r v, x := { l.x with writes := r :: l.x.writes } }

/-- A register that a REGS chunk may name, for the masts of a mask and a value (R424). -/
def loadReg (mask v : Nat) : Reg → Bool
  | .fabWd m | .fabSnap m | .fabSpill m _ | .fabEdge m _ _ | .seqProg m | .jibCtrl m _ | .jibProg m _ | .jibRec m _
  | .tkProg m | .tkRec m | .coil m _ _ | .halCfg m _ | .halRing m _ _ | .halSend m _ _ | .memScrub m =>
    decide (m < 8) && bitN mask m
  | .flStep _ => bitN mask (fld v FL_STEP.MAST.hi FL_STEP.MAST.lo)
  | .flRec _ | .bkt _ _ | .ord _ _ | .win _ _ | .rem _ _ | .pxy _ | .redCtrl => true
  | .shrMast _ m => bitN mask m
  | _ => false

/-- A register whose reserved bits are checked (R142, R343). -/
def checkedReg : Reg → Bool
  | .fabWd _ | .fabSnap _ | .fabSpill _ _ | .fabEdge _ _ _ | .bkt _ _ | .ord _ _ => true
  | _ => false

/-- One record of a REGS chunk (R424, R342). -/
def Load.regRec (l : Load) (mask a v : Nat) : Load :=
  match (if a % 8 = 0 then Reg.ofAddr a else none) with
  | none => l.bad
  | some r =>
    if !loadReg mask v r || (checkedReg r && Reg.reserved r v) then l.bad
    else match r with
    | .bkt t _ => if l.s.entState t ≠ 0 then l.bad else l.reg r v
    | .ord o _ => if l.s.entState (4096 + o) ≠ 0 then l.bad else l.reg r v
    | .win i w =>
      if l.s.f (.win i 0) WIN.OPEN = 1 then l.bad
      else
        let l := { l with x := { l.x with wins := setIns l.x.wins i } }
        if w < 2 then l.reg r v else l
    | _ => l.reg r v

/-- A SLOTS chunk: records in order from slot 0 of sheave 0, GEN stamped with FAB_GEN (R423, R429). -/
def Load.slots (l : Load) (m : Nat) (d : List Byte) : Load :=
  if d.length % 128 ≠ 0 ∨ 2048 * 128 < d.length then l.bad
  else (List.range (d.length / 128)).foldl (fun (l : Load) (i : Nat) =>
    let w (k : Nat) : Nat := leAt d (128 * i + 8 * k) 8
    let r (k : Nat) : Reg := .slot m (i / 8) (i % 8) k
    if (List.range 4).any (fun k => Reg.reserved (r k) (w k)) || fld (w 0) 63 48 != 0 then l.bad
    else
      let gen := l.s.f (.fabGen m) FAB_GEN.GEN
      let l := l.reg (r 0) (w 0 + gen * 2 ^ 48)
      (List.range 15).foldl (fun (l : Load) (k : Nat) => { l with s := l.s.regStore (r (k + 1)) (w (k + 1)) }) l) l

/-- The entry a record of R115 spells for a pool queue. Every preloaded entry counts as having entered in one cycle, so that
MERGE takes its D0 first (R130 does not say: DESIGN CHOICE, log entry 80). -/
def preloadEntry (q : Nat) (d : List Byte) : FabEntry :=
  if q < 6 then { v := leAt d 0 64 }
  else if q < 10 then { v := leAt d 0 4, tag := leAt d 4 1 % 16, p := bitN (leAt d 5 1) 0 }
  else { v := leAt d 0 1 % 2, tag := leAt d 0 1 / 2, p := bitN (leAt d 5 1) 0 }

/-- Queue preloads: each an 8 B word naming sheave [7:0] and queue [11:8], then the record (R121; DESIGN CHOICE, log
entry 34). -/
def Load.preloads (l : Load) (m : Nat) : Nat → List Byte → Load
  | 0, _ => l
  | k + 1, d =>
    if d = [] then l
    else
      let n := leAt d 0 1
      let q := leAt d 1 1
      let size := if q < 6 then 64 else 8
      let x := l.s.sheave m n
      if 11 < q || leAt d 2 6 != 0 || decide (d.length < 8 + size) || !x.inFree q then l.bad
      else
        let e := preloadEntry q ((d.drop 8).take size)
        Load.preloads { l with s := l.s.setSheave m n (x.pushIn q e) } m k (d.drop (8 + size))

/-- The registers of a sheave from 2,240 B: V, S, P (R105, R423), poisoned where `p` says so of an offset. -/
def Sheave.init (x : Sheave) (d : List Byte) (p : Nat → Bool) : Sheave :=
  { x with v := (List.range 32).map (fun i => (i, leAt d (64 * i) 64, p (64 * i)))
           sc := (List.range 32).map (fun i => (i, leAt d (2048 + 4 * i) 4, p (2048 + 4 * i)))
           pr := (List.range 16).map (fun i => (i, leAt d (2176 + 4 * i) 4, p (2176 + 4 * i))) }

/-- A SHEAVE_INIT chunk. -/
def Load.sheaves (l : Load) (m : Nat) (d : List Byte) : Load :=
  let regs := 256 * 2240
  if d.length < regs ∧ d.length % 2240 ≠ 0 then l.bad
  else
    let l := (List.range (min 256 (d.length / 2240))).foldl (fun (l : Load) (n : Nat) =>
      let x := (l.s.sheave m n).init ((d.drop (2240 * n)).take 2240) (fun _ => false)
      { l with s := l.s.setSheave m n x }) l
    l.preloads m (d.length / 16) (d.drop regs)

/-- The store and predicates of a jib from 80 KiB (R144): M0 reads as all ones whatever its bytes. -/
def JibSt.init (x : JibSt) (d : List Byte) : JibSt :=
  { (x.put 0 (d.take 65536) false) with
    preds := (List.range 7).map (fun i => (i + 1, leAt d (65536 + 2048 * (i + 1)) 2048)), predBad := 0 }

/-- A JIB_INIT chunk: whole jibs from jib 0 of the mast. -/
def Load.jibs (l : Load) (m : Nat) (d : List Byte) : Load :=
  if d.length % 81920 ≠ 0 ∨ 4 * 81920 < d.length then l.bad
  else (List.range (d.length / 81920)).foldl (fun (l : Load) (i : Nat) =>
    { l with s := l.s.setJib (4 * m + i) ((l.s.jib (4 * m + i)).init ((d.drop (81920 * i)).take 81920)) }) l

/-- A MEMINIT destination (R424). -/
def State.destOk (s : State) (a : Nat) (h : List Byte) (dest n : Nat) : Bool :=
  match s.fuses.region dest n with
  | some (.act m) => bitN (imgMask h) m
  | some (.psum x) => bitN (imgMask h) (x / 16)
  | some .hbm => s.access (.unit uLoader) true dest n == .done && !rngMeet dest n a (512 + imgLen h) &&
      (imgSave h == 0 || !rngMeet dest n (imgSave h) saveSize)
  | _ => false

/-- A cleat record is legal (R425). -/
def cleatRecOk (h d : List Byte) : Bool :=
  let i := leAt d 0 2
  ((decide (i < 32768) && bitN (imgMask h) (i / 4096)) || (decide (32768 ≤ i) && decide (i < proxyBase))) &&
  decide (leAt d 2 4 < 2 ^ 31) && decide (leAt d 6 1 < 2) && decide (leAt d 7 1 < 16) &&
  decide (leAt d 8 4 < 2 ^ 18) && zeroAt d 12 4

/-- A load may define a cleat that stands so before it (R304). -/
def State.cleatFree (s : State) (c : Cleat) : Bool :=
  c.st == .free || (c.st == .poisoned && (s.secEntry c.owner).isNone)

/-- A CLEATS chunk: each cleat is SET to its values; `s0` is the state before the load (R304, R425). -/
def Load.cleats (l : Load) (s0 : State) (sec : Nat) (h d : List Byte) : Load :=
  if d.length % 16 ≠ 0 then l.bad
  else (List.range (d.length / 16)).foldl (fun (l : Load) (k : Nat) =>
    let r := (d.drop (16 * k)).take 16
    let i := leAt r 0 2
    if !cleatRecOk h r || !s0.cleatFree (s0.cleat i) then l.bad
    else
      let p := leAt r 8 4
      let c : Cleat := { (l.s.cleat i) with
        value := leAt r 2 4, st := .active, sat := false, floor := false, prop := bitN (leAt r 6 1) 0, owner := sec
        epoch := leAt r 7 1, err := .done, peer := if bitN p 17 then some (p % 2 ^ 17) else none
        lastSig := l.s.gid uLoader, lastTick := l.s.tickNum }
      { l with s := (l.s.setCleat i c).wake i }) l

/-- A weight reference is legal (R426). -/
def State.wrefOk (s : State) (h r : List Byte) : Bool :=
  let n := leAt r 8 8
  leAt r 0 8 % 256 == 0 && n % 256 == 0 && decide (leAt r 0x10 1 < 8) && bitN (imgMask h) (leAt r 0x10 1) &&
  decide (leAt r 0x11 1 < 2) && (leAt r 0x11 1 == 0 || imgSigned h) && zeroAt r 0x12 6 && leAt r 0x18 8 % 256 == 0 &&
  decide (leAt r 0x18 8 + n ≤ weightSize) && s.fuses.region (leAt r 0 8) n == some .hbm &&
  s.access (.unit uLoader) false (leAt r 0 8) n == .done

/-- Two references have overlapping destinations. -/
def wrefsMeet : List (List Byte) → Bool
  | [] => false
  | r :: l => l.any (fun q => leAt q 0x10 1 == leAt r 0x10 1 &&
      rngMeet (leAt q 0x18 8) (leAt q 8 8) (leAt r 0x18 8) (leAt r 8 8)) || wrefsMeet l

/-- Stream a weight reference into weight memory, its poison with it line by line (R197, R426, R483). -/
def State.wrefCopy (s : State) (key : List Byte) (i : Nat) (r : List Byte) : State :=
  let src := leAt r 0 8
  let n := leAt r 8 8
  let s := s.readPass uLoader [(src, n)]
  let d := s.bytes src n
  let kx := Config.hkdf key [] (ascii "BRECO weight xts") 64
  let d := if leAt r 0x11 1 = 1 then Config.xtsDec kx i d else d
  let dst := weightBase (leAt r 0x10 1) + leAt r 0x18 8
  (List.range (n / 64)).foldl (fun (s : State) (k : Nat) =>
    let p := s.poisonedAt (src + 64 * k) 64
    s.landBytes s.dev uLoader (dst + 64 * k) ((fit 64 ((d.drop (64 * k)).take 64)).map (fun b => (b, p)))) s

/-- A WREF chunk. -/
def Load.wrefs (l : Load) (key h d : List Byte) : Load :=
  let rs := (List.range (d.length / 64)).map (fun i => (d.drop (64 * i)).take 64)
  if d.length % 64 ≠ 0 ∨ !rs.all (l.s.wrefOk h) then l.bad
  else { l with s := (rs.mapIdx (fun i r => (i, r))).foldl (fun (s : State) (e : Nat × List Byte) =>
    s.wrefCopy key e.1 e.2) l.s }

/-- Apply one chunk (R423). -/
def Load.chunk (l : Load) (s0 : State) (sec a : Nat) (h cfg : List Byte) (e : DirEntry) : Load :=
  if !l.ok || !dirOk h e then l.bad
  else
    let d := chunkOf cfg e
    match e.kind with
    | 1 => l.slots e.mast d
    | 2 => l.sheaves e.mast d
    | 3 => l.jibs e.mast d
    | 4 => if d.length % 16 ≠ 0 then l.bad
      else (List.range (d.length / 16)).foldl (fun (l : Load) (i : Nat) =>
        l.regRec (imgMask h) (leAt d (16 * i) 8) (leAt d (16 * i + 8) 8)) l
    | 5 => if l.s.destOk a h e.dest d.length then { l with s := l.s.landBytes l.s.dev uLoader e.dest (d.map (fun b => (b, false))) } else l.bad
    | 6 => l.cleats s0 sec h d
    | _ => l.wrefs l.x.key h d

/-- The entries a load declares. -/
def Section.ents (x : Section) : List Nat :=
  x.writes.foldl (fun l r => match r with
    | .bkt t _ => setIns l t
    | .ord o _ => setIns l (4096 + o)
    | _ => l) []

/-- Every fairlead a load configures works for one of its masts (R424). -/
def State.fairsOk (s : State) (x : Section) (mask : Nat) : Bool :=
  x.writes.all (fun r => match r with
    | .flStep f | .flRec f => bitN mask (s.flMast f)
    | _ => true)

/-- The window entries of a load lie inside the device (R355). -/
def State.loadOk (s : State) (x : Section) (mask : Nat) : Bool :=
  let es := x.ents
  let all := es ++ (s.entList.filter (fun e => s.entState e != 0))
  (maskMasts mask).all s.mastOk && es.all (fun e => s.entOk e all) && s.fairsOk x mask

/-- Declare the entries of a load: CLOSED, with no round, each with the loading section in SECTION (R342, R344). -/
def State.declareEnts (s : State) (sec : Nat) (es : List Nat) : State :=
  es.foldl (fun (s : State) (e : Nat) => ((s.setEnt e BKT.STATE ORD.STATE 1).setEnt e BKT.SECTION ORD.SECTION sec).setRound e {}) s

/-! ### Unload (R431, R435) -/

/-- The fabric of a mast is emptied: every queue, lane buffer and latch; registers stay (R121, R139). Selection and the
rounding counter stand at their start (R126, R128). -/
def State.fabFlush (s : State) (m : Nat) : State :=
  let x := s.fabric m
  let dry (e : Nat × Sheave) : Nat × Sheave := (e.1, { e.2 with iq := [], oq := [], latch := [], cur := none, fires := [], last := 7, rs := 0 })
  s.setFabric m { sheaves := x.sheaves.map dry }

/-- The forced clear of a mast (R139, R187): a snapshot, then queues and spill coils are emptied, coils are reset. -/
def State.forceMast (s : State) (m : Nat) : State :=
  let s := (s.snapshot m .aborted).fabFlush m
  let s := (s.coilsOf m).foldl (fun (s : State) (k : Nat) =>
    ((s.setCo m k COIL.RESV (s.co m k COIL.TAIL)).setCo m k COIL.CLAIM (s.co m k COIL.HEAD)).setCoilSt m k {}) s
  (List.range 64).foldl (fun (s : State) (e : Nat) =>
    if s.bit (.fabSpill m e) FAB_SPILL.VALID then
      let k := s.f (.fabSpill m e) FAB_SPILL.COIL
      (s.setCo m k COIL.HEAD (s.co m k COIL.TAIL)).setCo m k COIL.CLAIM (s.co m k COIL.TAIL)
    else s) s

/-- The engines of a mast end what they do, with no record and no signal (R99, R147, R224, R229, R416). -/
def State.endEngines (s : State) (m : Nat) : State :=
  let mine (k : EngKey) : Bool := engOfMast m k || (match k with | .desc f _ => s.flMast f == m | _ => false)
  let ids := (s.net.pends.filter (fun p => mine p.fin.key)).map (·.id)
  let s := { s with
    net := { s.net with pends := s.net.pends.filter (fun p => !mine p.fin.key)
                        ops := s.net.ops.map (fun (o : RemOp) => match o.cont with
                          | .part p => if ids.contains p then { o with cont := .none } else o
                          | .fair f _ _ _ => if s.flMast f = m then { o with cont := .none } else o
                          | _ => o) }
    red := { s.red with contribs := s.red.contribs.filter (fun c => !ids.contains c.pend) }
    tk := s.tk.filter (fun e => e.1 != m)
    clt := { s.clt with held := s.clt.held.filter (fun h => !(h.unit / 65536 == s.dev && unitMast (h.unit % 65536) == some m)) }
    sail := { s.sail with tap := s.sail.tap.filter (fun t => t.mast != m)
                          runs := s.sail.runs.filter (fun r => r.mast != m)
                          bufs := s.sail.bufs.filter (fun b => b.1 / 16 != m) } }
  let s := (s.mastFairleads m).foldl State.flAbort ((s.dropMastWaits m).dropMastGrants m)
  let s := (List.range 16).foldl (fun (s : State) (x : Nat) => s.setF (.sailStat m x) SAIL_STAT.BUSY 0) (s.clearWaiting m)
  let s := (s.setF (.seqStat m) SEQ_STAT.BUSY 0).setF (.tkStat m) TK_STAT.BUSY 0
  let s := s.setF (.tkStat m) TK_STAT.INFLIGHT 0
  (List.range 4).foldl (fun (s : State) (l : Nat) => s.setF (.jibStat m l) JIB_STAT.BUSY 0) s

/-- The programs of a mast and its fairleads stand at their start. -/
def State.rewind (s : State) (m : Nat) : State :=
  let s := (s.mastFairleads m).foldl (fun (s : State) (f : Nat) =>
    (s.setFl f {}).setF (.flStat f) FL_STAT.STEP_DONE 0) s
  s.resetRegs (fun r => match r with
    | .seqStat k | .tkStat k => k == m
    | .jibStat k _ => k == m
    | _ => false)

/-- The cleats a section owns. -/
def State.ownedCleats (s : State) (sec : Nat) : List Nat :=
  (s.clt.tab.filter (fun e => e.2.owner == sec && e.2.st != .free)).map (·.1)

/-- The entries of a section become INVALID (R342). -/
def State.dropEnts (s : State) (sec : Nat) : State :=
  let es := s.entList.filter (fun e => s.entSection e == sec && s.entState e != 0)
  es.foldl (fun (s : State) (e : Nat) => ((s.dropWait (entKey e)).setEnt e BKT.STATE ORD.STATE 0).setRound e {}) s

/-- A register of R424 that an unload of masts puts back: those of the masts and those the load wrote. -/
def State.unloadReg (s : State) (x : Section) (mask : Nat) (r : Reg) : Bool :=
  match r with
  | .flStep f | .flRec f => bitN mask (s.flMast f)
  | .bkt _ _ | .ord _ _ | .rem _ _ | .pxy _ | .redCtrl => x.writes.contains r
  | .win _ _ => false
  | .shrMast _ m => bitN mask m
  | _ => loadReg mask 0 r

/-- A window of a section closes and its entry is cleared; its epoch stays counted (R355, R435). -/
def State.dropWin (s : State) (w : Nat) : State :=
  let s := s.winCloseOp w
  let e := s.f (.win w 0) WIN.EPOCH
  s.wr (.win w 0) (BitVec.ofNat 64 (e * 2 ^ WIN.EPOCH.lo)) |>.wr (.win w 1) 0

/-- Take a section's configuration from its masts (R435). -/
def State.deconfig (s : State) (sec : Nat) (x : Section) (mask : Nat) : State :=
  let ms := maskMasts mask
  let s := ms.foldl (fun (s : State) (m : Nat) => (s.endEngines m).rewind m) s
  let s := x.wins.foldl State.dropWin s
  let free (c : Cleat) : Cleat := { lastSig := c.lastSig, lastTick := c.lastTick, waiterIds := c.waiterIds }
  let s := (s.ownedCleats sec).foldl (fun (s : State) (i : Nat) => s.forceCleat i (free (s.cleat i)) .abandoned true) s
  let s := s.dropEnts sec
  let s := ms.foldl (fun (s : State) (m : Nat) =>
    let s := (s.halClear m false).fabFlush m
    let s := { s with chip := { s.chip with coils := s.chip.coils.filter (fun e => e.1.1 != m) } }
    let s := s.resetRegs (fun r => r == .fabCtrl m || r == .fabStat m)
    let s := s.setF (.stkMast m) STK_MAST.VALID 0
    { s with regs := s.regs.map (fun (e : Reg × Word) => match e.1 with
        | .slot k _ _ 0 => if k = m then (e.1, BitVec.ofNat 64 (setBits e.2.toNat 0 0 0)) else e
        | _ => e) }) s
  let s := s.resetRegs (s.unloadReg x mask)
  { s with tick := { s.tick with steps := s.tick.steps.filter (fun e => e.1 != sec) }
           secs := s.secs.filter (fun e => e.1 != sec) }

/-- The SL_SEC entry of a section is freed. -/
def State.dropEntry (s : State) (sec : Nat) : State :=
  match s.secEntry sec with
  | some i => s.resetRegs (fun r => r == .slSec i 0 || r == .slSec i 1)
  | none => s

/-- SECTION_UNLOAD (R435, R440). -/
def State.unload (s : State) (sec : Nat) : State :=
  match s.secEntry sec with
  | none => s
  | some i =>
    let mask := s.f (.slSec i 0) SL_SEC.MASTS
    let s := if s.f (.slSec i 0) SL_SEC.STATE = secHalted then (maskMasts mask).foldl State.forceMast s else s
    (s.deconfig sec (s.sect sec) mask).dropEntry sec

/-- A load fails after its write pass began (R431): also the slot records and registers it wrote are cleared. -/
def State.loadUndo (s : State) (sec : Nat) (x : Section) (mask : Nat) : State :=
  let slots := x.writes.filterMap (fun r => match r with | .slot m n k _ => some (m, n, k) | _ => none)
  let s := s.deconfig sec x mask
  s.resetRegs (fun r => match r with
    | .slot m n k _ => slots.contains (m, n, k)
    | .win _ _ => false
    | r => x.writes.contains r)

/-! ### Load (R429 to R432) -/

/-- The memories of masts whose recorded owner differs are cleared, and the owner recorded (R432). -/
def State.ownerClear (s : State) (mask : Nat) (owner : List Byte) : State :=
  (maskMasts mask).foldl (fun (s : State) (m : Nat) =>
    if Tbl.get (zeros 64) s.loader.owners m = owner then s
    else
      let s := (s.wipe (weightBase m) weightSize).wipe (actBase m) actSize
      let s := (List.range 16).foldl (fun (s : State) (i : Nat) => s.wipe (psumBase (16 * m + i)) psumSize) s
      { s with loader := { s.loader with owners := Tbl.set s.loader.owners m owner } }) s

/-- An 80 B entry of the measurement log is appended, and its register extended (R449). -/
def State.measure (s : State) (kind sec masts index : Nat) (digest : List Byte) : State :=
  let e := leBytes 1 kind ++ leBytes 1 sec ++ leBytes 1 masts ++ [0] ++
    leBytes 4 (if kind = 2 then index else s.sec.log.length) ++ leBytes 4 s.tickNum ++ zeros 4 ++ digest
  let x := s.sec
  let x := if kind = 2 then { x with sectionMR := Config.sha512 (fit 64 x.sectionMR ++ digest) }
    else { x with bootMR := Config.sha512 (fit 64 x.bootMR ++ digest) }
  { s with sec := if x.log.length < 4096 then { x with log := x.log ++ [e] } else { x with trunc := true } }

/-- Set a bit of SL_ERR with its SECTION_ERR record (R490, R491). -/
def State.slErrBit (s : State) (F : Field) (sec : Nat) : State :=
  let v := (s.rd .slErr).toNat % 16 ||| 2 ^ F.lo
  s.sticky .slErr F 0x0071 .done uLoader sec v

/-- Count a failed load in SL_ERR (R444), and a failed signature in SEC_ERR (R461). -/
def State.loadErr (s : State) (st : Status) (sec : Nat) (sig : Bool) : State :=
  let s := if sig then s.sticky .secErr SEC_ERR.SIGNATURE 0x0072 .done 0xFFFF 0xFF
      ((s.rd .secErr).toNat % 16 ||| 2 ^ SEC_ERR.SIGNATURE.lo) else s
  if st = .denied then s.slErrBit SL_ERR.VERIFY sec
  else if st = .badDescriptor then s.slErrBit SL_ERR.CONFIG sec else s

/-- The lowest free SL_SEC entry. -/
def State.freeEntry (s : State) : Nat :=
  ((List.range 8).find? (fun i => !s.bit (.slSec i 0) SL_SEC.VALID)).getD 0

/-- The loader has a phase of a load for a section under way (R444). -/
def State.setLoad (s : State) (sec i q phase : Nat) (edge : Option Nat) : State :=
  s.setSect sec { s.sect sec with job := .load i q phase edge }

/-- A section takes an SL_SEC entry as LOADING (R428, R444). -/
def State.loadEnter (s : State) (sec a : Nat) (h key : List Byte) (i q phase : Nat) (edge : Option Nat) : State :=
  let e := s.freeEntry
  let s := s.wr (.slSec e 0) (BitVec.ofNat 64 (1 + 2 * secLoading + 16 * sec + 2 ^ 12 * imgMask h))
  let s := s.wr (.slSec e 1) (BitVec.ofNat 64 a)
  s.setSect sec { seed := leAt h 0x20 8, hdr := h, key := key, job := .load i q phase edge }

/-- SECTION_LOAD at its start: steps 1 and 2 of R430, then the section is LOADING and the verify pass begins, which reads its key
slot now (R428, R429, R454). -/
def State.loadBegin (s : State) (i q sec a : Nat) : Option Status × State :=
  let (st, h) := s.imgCheck sec a none
  if st ≠ .done then (some st, s.loadErr st sec false)
  else if s.saveClash a h then (some .badDescriptor, s.loadErr .badDescriptor sec false)
  else (none, (s.readPass uLoader [(a, 512)]).loadEnter sec a h (s.imgKeyOf h) i q 1 none)

/-- A load ends at step 3 or later of its checks: the masts stand as R431 leaves them, and the entry is free. -/
def State.loadFail (s : State) (sec i q : Nat) (st : Status) (sig : Bool) : State :=
  let x := s.sect sec
  (((s.loadUndo sec x (imgMask x.hdr)).dropEntry sec).loadErr st sec sig).mbxEnd i q st

/-- A load has written its configuration (R429, R449): the section is LOADED and measured; the New of a switch waits for its
edge, or for the next where that has passed (R437). -/
def State.loadDone (s : State) (sec i q : Nat) (edge : Option Nat) : State :=
  let x := s.sect sec
  let h := x.hdr
  let mask := imgMask h
  let s := s.declareEnts sec x.ents
  let idx := s.f .slStat SL_STAT.MEASURES
  let s := match s.secEntry sec with
    | some e => (s.setF (.slSec e 0) SL_SEC.STATE secLoaded).setF (.slSec e 0) SL_SEC.MEASURE idx
    | none => s
  let s := (maskMasts mask).foldl (fun (s : State) (m : Nat) =>
    s.wr (.stkMast m) (BitVec.ofNat 64 (leAt h 0x14 4 + 2 ^ 24 * leAt h 0x18 4 + 2 ^ 48 * sec))) s
  let s := (s.incWrap .slStat SL_STAT.MEASURES).measure 2 sec mask idx (imgMeasure h)
  match edge with
  | none => (s.setSect sec { x with job := .none }).mbxEnd i q .done (leBytes 4 idx)
  | some k => s.setSect sec { x with job := .start i q (max k s.tick.nextK) false (some (decide (k < s.tick.nextK))) }

/-- Chunks of a config part whose kind `p` selects, in directory order (R423, R429). -/
def State.loadChunks (s : State) (sec a : Nat) (p : Nat → Bool) : Load :=
  let x := s.sect sec
  let cfg := s.imgConfig a x.hdr x.key
  (dirOf x.hdr cfg).foldl (fun (l : Load) (e : DirEntry) => if p e.kind then l.chunk s sec a x.hdr cfg e else l) { s := s, x := x }

/-- One phase of a load (R429, R430 steps 3 and 4, R432): verify; clear; write; weights and the check of the configuration. -/
def State.loadPhase (s : State) (sec i q phase : Nat) (edge : Option Nat) : State :=
  let x := s.sect sec
  let h := x.hdr
  let a := match s.secEntry sec with
    | some e => s.f (.slSec e 1) SL_SEC.IMAGE
    | none => 0
  match phase with
  | 1 =>
    let (st, sig) := s.imgVerify a h x.key (some sec)
    let s := s.readPass uLoader [(a + 512, imgLen h)]
    if st ≠ .done then s.loadFail sec i q st sig else s.setLoad sec i q 2 edge
  | 2 =>
    let s := s.ownerClear (imgMask h) (imgOwner h)
    ((maskMasts (imgMask h)).foldl State.fabFlush s).setLoad sec i q 3 edge
  | 3 =>
    let s := s.readPass uLoader [(a + 512, imgLen h)]
    let l := s.loadChunks sec a (· != 7)
    let s := l.s.setSect sec l.x
    if !l.ok then s.loadFail sec i q .badDescriptor false else s.setLoad sec i q 4 edge
  | _ =>
    let l := s.loadChunks sec a (· == 7)
    let s := l.s.setSect sec l.x
    if !l.ok || wrefsMeet (wrefsOf h (s.imgConfig a h x.key)) || !s.loadOk l.x (imgMask h) then s.loadFail sec i q .badDescriptor false
    else s.loadDone sec i q edge

/-! ### The save area (R439, R441)

R439 gives the parts of the save area and their sizes; the places inside each part are the model's (DESIGN CHOICE, log entry 35). -/

/-- The loader writes a number of `n` bytes of the save area. -/
def State.saveNum (s : State) (a n v : Nat) : State := s.landBytes s.dev uLoader a ((leBytes n v).map (fun b => (b, false)))

/-- Block `i` of the save area (R439). -/
def saveBlock (save i : Nat) : Nat := save + 0x1000 + 0x200000 * i

/-- The register bytes of a sheave (R105): V, S, P; P0 reads as all ones (R103). -/
def Sheave.regBytes (x : Sheave) : List (Byte × Bool) :=
  let put (n : Nat) (t : List (Nat × Nat × Bool)) (i : Nat) : List (Byte × Bool) :=
    let e := Tbl.get (0, false) t i
    (leBytes n e.1).map (fun b => (b, e.2))
  let preds := (List.range 16).flatMap (put 4 x.pr)
  (List.range 32).flatMap (put 64 x.v) ++ (List.range 32).flatMap (put 4 x.sc) ++
    (leBytes 4 (2 ^ 32 - 1)).map (fun b => (b, false)) ++ preds.drop 4

/-- The bytes of a jib's store and predicates (R144). -/
def JibSt.saveBytes (x : JibSt) : List (Byte × Bool) :=
  (List.range 65536).map (fun i => (memGet x.store i, x.bad.contains (i / 4))) ++
  (List.range 8).flatMap (fun k =>
    let v := if k = 0 then 2 ^ 16384 - 1 else Tbl.get 0 x.preds k
    (leBytes 2048 v).map (fun b => (b, bitN x.predBad k)))

/-- The PCs of a mast: register, field, offset in the program part (R439). -/
def pcsOf (m : Nat) : List (Reg × Field × Nat) :=
  [(.seqStat m, SEQ_STAT.PC, 0), (.tkStat m, TK_STAT.PC, 10)] ++
  (List.range 4).map (fun j => (.jibStat m j, JIB_STAT.PC, 2 + 2 * j))

/-- The generator counters of a mast that are registers, with their offsets. -/
def ctrsOf (m : Nat) : List (Reg × Field × Nat) :=
  (.tkRsctr m, TK_RSCTR.CTR, 0x30) :: (List.range 4).map (fun j => (.jibRsctr m j, JIB_RSCTR.CTR, 0x10 + 8 * j))

/-- PCs, fairlead positions, generator counters, HEAD and TAIL of the coils of a mast are saved (R62, R187, R224, R439). -/
def State.saveProgs (s : State) (m b : Nat) : State :=
  let s := (pcsOf m).foldl (fun s e => s.saveNum (b + e.2.2) 2 (s.f e.1 e.2.1)) s
  let s := (ctrsOf m).foldl (fun s e => s.saveNum (b + e.2.2) 8 (s.f e.1 e.2.1)) s
  let s := (s.sail.rs.filter (fun e => e.1 / 16 == m)).foldl (fun s e => s.saveNum (b + 0x80 + 8 * (e.1 % 16)) 8 e.2) s
  let s := (s.fabric m).sheaves.foldl (fun s y => s.saveNum (b + 0x100 + 8 * y.1) 8 y.2.rs) s
  let s := (s.coilsOf m).foldl (fun s k => s.saveNum (b + 0x900 + 8 * k) 8 (s.co m k COIL.HEAD + 2 ^ 32 * s.co m k COIL.TAIL)) s
  ((s.mastFairleads m).foldl (fun (e : State × Nat) (f : Nat) =>
    let x := s.fl f
    let l := x.batch.take ((0xE80 - e.2) / 4)
    let s := e.1.saveNum (b + 0x1100 + 8 * f) 8 (x.entry + 2 ^ 32 * l.length)
    (s.saveNum (b + 0x1180 + e.2) (4 * l.length) (leNat (l.flatMap (fun d => leBytes 4 d.2.2))), e.2 + 4 * l.length)) (s, 0)).1

/-- The position of a descriptor of a step list: its batch's entry and its place in the batch; the bytes it names and their
poison, where the list still names a batch of activation memory (R205, R224). -/
def State.flRefetch (s : State) (f n : Nat) : Option (List Byte × Bool × Nat) :=
  let a := actBase (s.flMast f) + s.f (.flStep f) FL_STEP.OFFSET + 16 * (n / 64)
  let d := s.num a 8 + 64 * (n % 64)
  if s.access (.unit (uFairlead f)) false a 16 == .done && s.actRange d 64 then some (s.bytes d 64, s.poisonedAt d 64, n) else none

/-- What `State.saveProgs` saved is restored: programs and counters stand where they stood, withdrawn descriptors are fetched
again from their positions (R62, R187, R224, R441). -/
def State.restoreProgs (s : State) (m b : Nat) : State :=
  let s := (pcsOf m).foldl (fun s e => s.setF e.1 e.2.1 (s.num (b + e.2.2) 2)) s
  let s := (ctrsOf m).foldl (fun s e => s.setF e.1 e.2.1 (s.num (b + e.2.2) 8)) s
  let rs := s.sail.rs.map (fun (e : Nat × Nat) => if e.1 / 16 = m then (e.1, s.num (b + 0x80 + 8 * (e.1 % 16)) 8) else e)
  let s := { s with sail := { s.sail with rs := rs } }
  let s := (s.fabric m).sheaves.foldl (fun (s : State) (y : Nat × Sheave) =>
    s.setSheave m y.1 { s.sheave m y.1 with rs := s.num (b + 0x100 + 8 * y.1) 8 }) s
  let s := (s.coilsOf m).foldl (fun (s : State) (k : Nat) =>
    let h := s.num (b + 0x900 + 8 * k) 4
    let t := s.num (b + 0x904 + 8 * k) 4
    (((s.setCo m k COIL.HEAD h).setCo m k COIL.CLAIM h).setCo m k COIL.TAIL t).setCo m k COIL.RESV t) s
  ((s.mastFairleads m).foldl (fun (e : State × Nat) (f : Nat) =>
    let s := e.1
    let x := s.fl f
    let n := s.num (b + 0x1104 + 8 * f) 4
    let got := (List.range n).map (fun i => (s.flRefetch f (s.num (b + 0x1180 + e.2 + 4 * i) 4)).getD (x.batch.getD i ([], false, 0)))
    (s.setFl f { x with entry := s.num (b + 0x1100 + 8 * f) 4, batch := got ++ x.batch.drop n }, e.2 + 4 * n)) (s, 0)).1

/-- The queues, ring pointers and reservations of a mast's channels are saved: 1,088 B a channel, its notifications first (R274,
R290, R439). They are kept in the device too, where the endpoints go on accepting messages. -/
def State.saveHals (s : State) (m b : Nat) : State :=
  (s.hal.chans.filter (fun e => e.1 / 128 == m)).foldl (fun (s : State) (e : Nat × HalChan) =>
    let c := e.1 % 128
    let a := b + 1088 * c
    let s := s.landBytes s.dev uLoader a ((e.2.queue.flatMap Note.bytes).map (fun x => (x, false)))
    let s := (s.saveNum (a + 1024) 8 e.2.queue.length).saveNum (a + 1032) 8 (s.rd (.halPtr m c)).toNat
    let s := s.saveNum (a + 1040) 8 (maskOf 64 (fun k => (e.2.slot k).held))
    s.saveNum (a + 1048) 32 (leNat ((List.range 32).map (fun k =>
      BitVec.ofNat 8 ((e.2.slot (2 * k)).gen % 16 + 16 * ((e.2.slot (2 * k + 1)).gen % 16)))))) s

/-- The entries a mast's fabric holds: kind (0 input queue, 1 output queue, 2 latch, 3 lane buffer), sheave or node, queue or
network, side, lane, entry (R439). -/
def Fabric.residue (x : Fabric) : List (Nat × Nat × Nat × Nat × Nat × FabEntry) :=
  x.sheaves.flatMap (fun y =>
    y.2.iq.flatMap (fun q => q.2.map (fun e => (0, y.1, q.1, 0, 0, e))) ++
    y.2.oq.flatMap (fun q => q.2.map (fun e => (1, y.1, q.1, 0, 0, e))) ++
    y.2.latch.map (fun q => (2, y.1, q.1, 0, 0, q.2))) ++
  x.lanes.flatMap (fun l => l.2.map (fun e => (3, l.1.node, l.1.net, l.1.side, l.1.lane, e)))

/-- Bytes of a residue record. -/
def residueBytes (r : Nat × Nat × Nat × Nat × Nat × FabEntry) : List Byte :=
  let e := r.2.2.2.2.2
  leBytes 1 r.1 ++ leBytes 2 r.2.1 ++ leBytes 1 r.2.2.1 ++ leBytes 1 r.2.2.2.1 ++ leBytes 1 r.2.2.2.2.1 ++ leBytes 1 e.tag ++
  leBytes 1 (if e.p then 1 else 0) ++ leBytes 8 e.at_ ++ leBytes 64 e.v

/-- The residue of a mast is saved: its number of entries, then 80 B each. -/
def State.saveResidue (s : State) (m b : Nat) : State :=
  let l := ((s.fabric m).residue).take 13107
  (s.saveNum b 8 l.length).landBytes s.dev uLoader (b + 8) ((l.flatMap residueBytes).map (fun x => (x, false)))

/-- An entry of saved residue returns to where it was. -/
def State.putResidue (s : State) (m a : Nat) : State :=
  let n (o k : Nat) : Nat := s.num (a + o) k
  let e : FabEntry := { v := n 16 64, tag := n 6 1, p := n 7 1 == 1, at_ := n 8 8 }
  let x := s.sheave m (n 1 2)
  match n 0 1 with
  | 0 => s.setSheave m (n 1 2) (x.pushIn (n 3 1) e)
  | 1 => s.setSheave m (n 1 2) (x.pushOut (n 3 1) e)
  | 2 => s.setSheave m (n 1 2) { x with latch := Tbl.set x.latch (n 3 1) e }
  | _ =>
    let k : LaneKey := { node := n 1 2, net := n 3 1, side := n 4 1, lane := n 5 1 }
    s.setLane m k (s.laneBuf m k ++ [e])

/-- The residue of a mast is restored from the save area (R441). -/
def State.restoreResidue (s : State) (m b : Nat) : State :=
  let x := s.fabric m
  let dry (e : Nat × Sheave) : Nat × Sheave := (e.1, { e.2 with iq := [], oq := [], latch := [] })
  let s := s.setFabric m { x with sheaves := x.sheaves.map dry, lanes := [] }
  (List.range (min 13107 (s.num b 8))).foldl (fun (s : State) (i : Nat) => s.putResidue m (b + 8 + 80 * i)) s

/-- The section's cleat records and the words of its buckets and ordered channels are saved (R305, R439). -/
def State.saveDevice (s : State) (sec b : Nat) : State :=
  let cs := (s.ownedCleats sec).take 32768
  let s := s.saveNum b 8 cs.length
  let s := (cs.mapIdx (fun i c => (i, c))).foldl (fun (s : State) (e : Nat × Nat) =>
    (s.saveNum (b + 8 + 56 * e.1) 8 e.2).landBytes s.dev uLoader (b + 16 + 56 * e.1) ((s.cleatRecord e.2).map (fun x => (x, false)))) s
  let es := s.entList.filter (fun e => s.entSection e == sec && s.entState e != 0)
  (es.mapIdx (fun i e => (i, e))).foldl (fun (s : State) (e : Nat × Nat) =>
    let at_ := b + 8 + 56 * cs.length + 72 * e.1
    let word (k : Nat) : Nat := (s.rd (if isOrd e.2 then .ord (e.2 - 4096) k else .bkt e.2 k)).toNat
    (s.saveNum at_ 8 e.2).landBytes s.dev uLoader (at_ + 8) (((List.range 8).flatMap (fun k => leBytes 8 (word k))).map (fun x => (x, false)))) s

/-- The section's cleats are restored by SET (R441): one that is no longer active takes its saved Value again; one that is active
stands, as R304 says of a resumption (DEDUCED, log entry 69). -/
def State.restoreCleats (s : State) (sec b : Nat) : State :=
  (List.range (min 32768 (s.num b 8))).foldl (fun (s : State) (i : Nat) =>
    let k := s.num (b + 8 + 56 * i) 2
    let c := s.cleat k
    if c.st = .active then s
    else (s.setCleat k { c with value := s.num (b + 16 + 56 * i) 4 % 2 ^ 31, st := .active, err := .done, sat := false, floor := false,
                                owner := sec, lastSig := s.gid uLoader, lastTick := s.tickNum }).wake k) s

/-- Save a section's state (R439): the parts in use. -/
def State.saveSection (s : State) (sec : Nat) : State :=
  let x := s.sect sec
  let save := imgSave x.hdr
  let ms := maskMasts (imgMask x.hdr)
  let res := maskOf 8 (fun m => ms.contains m && s.bit (.fabStat m) FAB_STAT.RESIDUE)
  let head := leBytes 1 sec ++ leBytes 1 (imgMask x.hdr) ++ leBytes 1 res ++ [0] ++ leBytes 4 ((s.stepOf sec).k % 2 ^ 32) ++
    (List.range 8).flatMap (fun m => leBytes 2 (s.f (.fabGen m) FAB_GEN.GEN))
  let s := s.landBytes s.dev uLoader save (head.map (fun b => (b, false)))
  let s := (ms.mapIdx (fun i m => (i, m))).foldl (fun (s : State) (e : Nat × Nat) =>
    let b := saveBlock save e.1
    let s := (s.fabric e.2).sheaves.foldl (fun (s : State) (y : Nat × Sheave) =>
      s.landBytes s.dev uLoader (b + 2240 * y.1) y.2.regBytes) s
    let s := s.jibs.foldl (fun (s : State) (y : Nat × JibSt) =>
      if y.1 / 4 = e.2 then s.landBytes s.dev uLoader (b + 0x8C000 + 81920 * (y.1 % 4)) y.2.saveBytes else s) s
    ((s.saveProgs e.2 (b + 0xDC000)).saveHals e.2 (b + 0xDE000)).saveResidue e.2 (b + 0x100000)) s
  s.saveDevice sec (save + 0x1001000)

/-- Every mast of a section has the FAB_GEN that its save area holds (R441). -/
def State.gensSaved (s : State) (sec : Nat) : Bool :=
  let x := s.sect sec
  (maskMasts (imgMask x.hdr)).all (fun m => s.num (imgSave x.hdr + 8 + 2 * m) 2 == s.f (.fabGen m) FAB_GEN.GEN)

/-- Restore a section's saved state (R441): slot records from the image, everything else from the save area. Halyard channels,
buckets and ordered channels have gone on accepting and stand as they are (R290, R342). -/
def State.restoreSection (s : State) (sec : Nat) : State :=
  let x := s.sect sec
  let a := match s.secEntry sec with
    | some i => s.f (.slSec i 1) SL_SEC.IMAGE
    | none => 0
  let save := imgSave x.hdr
  let ms := maskMasts (imgMask x.hdr)
  let s := s.readPass uLoader [(a + 512, imgLen x.hdr), (save, saveSize)]
  let cfg := s.imgConfig a x.hdr x.key
  let l0 : Load := { s := s, x := x }
  let slots (l : Load) (e : DirEntry) : Load := if e.kind = 1 ∧ dirOk x.hdr e then l.slots e.mast (chunkOf cfg e) else l
  let s := ((dirOf x.hdr cfg).foldl slots l0).s
  let s := (ms.mapIdx (fun i m => (i, m))).foldl (fun (s : State) (e : Nat × Nat) =>
    let b := saveBlock save e.1
    let s := (s.fabric e.2).sheaves.foldl (fun (s : State) (y : Nat × Sheave) =>
      let at_ := b + 2240 * y.1
      s.setSheave e.2 y.1 (y.2.init (s.bytes at_ 2240) (fun o => s.poisonedAt (at_ + o) 4))) s
    let s := s.jibs.foldl (fun (s : State) (y : Nat × JibSt) =>
      if y.1 / 4 = e.2 then
        let at_ := b + 0x8C000 + 81920 * (y.1 % 4)
        let z := y.2.init (s.bytes at_ 81920)
        s.setJib y.1 { z with
          bad := (List.range 16384).filter (fun k => s.poisonedAt (at_ + 4 * k) 4)
          predBad := maskOf 8 (fun k => k != 0 && s.poisonedAt (at_ + 65536 + 2048 * k) 2048) }
      else s) s
    (s.restoreProgs e.2 (b + 0xDC000)).restoreResidue e.2 (b + 0x100000)) s
  s.restoreCleats sec (save + 0x1001000)

end Sys2Proof.Machine
end

