-- ==== Sys2Proof/Machine/Sections.lean ====
section
/-! DEFINITION. The section commands and the events of the loader (16_sections.md R427 to R441). -/

namespace Sys2Proof.Machine

/-- IMAGE_STAGE: the bytes stand where they arrived; the whole range is checked (R391, R405, R409). -/
def execImageStage (i : Fin 64) (s : State) : Host.Outcome State Fault Refusal :=
  .next <| s.mbxRun i 0x30 (fun c _ s =>
    let a := c.p 0x10 8
    let st := if s.fuses.region a c.dataLen = some .hbm then s.access (.unit (uCn 0)) true a c.dataLen else .outOfBounds
    (st, [], [], s))

/-- SECTION_LOAD: its checks of steps 1 and 2, then the section is LOADING, and the loader goes on with it (R428 to R430; log
entry 82). -/
def execSectionLoad (i : Fin 64) (s : State) : Host.Outcome State Fault Refusal :=
  .next <| s.mbxBegin i 0x31 (fun c s => s.loadBegin i c.seq (c.p 0x10 1) (c.p 0x18 8))

/-- SECTION_UNLOAD (R428, R435). -/
def execSectionUnload (i : Fin 64) (s : State) : Host.Outcome State Fault Refusal :=
  .next <| s.mbxRun i 0x35 (fun c _ s =>
    let sec := c.p 0x10 1
    match s.secState sec with
    | none => (.badDescriptor, [], [], s)
    | some st =>
      if st = secLoaded ∨ st = secSuspended ∨ st = secHalted ∨ st = secAborted then (.done, [], [], s.unload sec)
      else (.busy, [], [], s))

/-! ### Edges named by number (R411) -/

/-- The device edge that a tick number names: none unless it is later than STK_NUM. -/
def State.edgeOf (s : State) (t : Nat) : Option Nat :=
  let d := (t + 2 ^ 32 - s.tickNum) % 2 ^ 32
  if 1 ≤ d ∧ d < 2 ^ 31 then some (s.tick.nextK + (t + 2 ^ 32 - s.tick.nextK % 2 ^ 32) % 2 ^ 32) else none

/-- The edge of a tick number if it is at least `us` µs away. -/
def State.edgeIn (s : State) (t us : Nat) : Option Nat :=
  match s.edgeOf t with
  | some k => if s.tick.tb + us * 1000 * tbUnit ≤ s.edgeAt k * tbUnit then some k else none
  | none => none

/-- Set the state of a section. -/
def State.setSecState (s : State) (sec st : Nat) : State :=
  match s.secEntry sec with
  | some i => s.setF (.slSec i 0) SL_SEC.STATE st
  | none => s

/-- What a loader has under way for a section. -/
def State.setSecJob (s : State) (sec : Nat) (j : SecJob) : State := s.setSect sec { s.sect sec with job := j }

/-! ### Start and resumption (R434, R441) -/

/-- Checks that SECTION_START and SECTION_RESUME share, and the edge they name (R411, R428, R434). -/
def State.startCheck (s : State) (sec tick want : Nat) : Status × Nat :=
  match s.secState sec with
  | none => (.badDescriptor, 0)
  | some st =>
    if st ≠ want ∨ (s.sect sec).job ≠ .none ∨ !s.bit .stkCtrl STK_CTRL.RUN then (.busy, 0)
    else if leAt (s.sect sec).hdr 0x10 4 ≠ s.period then (.badDescriptor, 0)
    else match s.edgeIn tick 20 with
    | some k => (.done, k)
    | none => (.timeout, 0)

/-- SECTION_START. -/
def execSectionStart (i : Fin 64) (s : State) : Host.Outcome State Fault Refusal :=
  .next <| s.mbxBegin i 0x32 (fun c s =>
    let sec := c.p 0x10 1
    let (st, k) := s.startCheck sec (c.p 0x14 4) secLoaded
    if st = .done then (none, s.setSecJob sec (.start i c.seq k false none)) else (some st, s))

/-- SECTION_RESUME: the loader restores the saved state. A mast whose FAB_GEN differs from the saved value, or an image key that has
been erased, leaves nothing to resume, and no rule gives a status: BAD_DESCRIPTOR and DENIED (DESIGN CHOICE, log entry 83). -/
def execSectionResume (i : Fin 64) (s : State) : Host.Outcome State Fault Refusal :=
  .next <| s.mbxBegin i 0x34 (fun c s =>
    let sec := c.p 0x10 1
    let (st, k) := s.startCheck sec (c.p 0x14 4) secSuspended
    if st ≠ .done then (some st, s)
    else if keyGone (s.sect sec).hdr (s.sect sec).key then (some .denied, s)
    else if !s.gensSaved sec then (some .badDescriptor, s)
    else (none, s.setSecJob sec (.restore i c.seq k)))

/-- A mast starts with its section: bound and enabled, the requests and marks of an earlier drain cleared, every rounding
counter 0, every sheave with slot 7 as its last (R62, R128, R142, R143, R434). -/
def State.startMast (s : State) (m : Nat) : State :=
  let s := s.setF (.stkMast m) STK_MAST.VALID 1
  let s := s.wr (.fabCtrl m) 1
  let s := [FAB_STAT.SRC_STOPPED, FAB_STAT.DRAIN_DONE, FAB_STAT.RESIDUE].foldl
    (fun (s : State) (F : Field) => s.setF (.fabStat m) F 0) s
  let s := s.resetRegs (fun r => match r with
    | .jibRsctr k _ | .tkRsctr k => k == m
    | _ => false)
  let x := s.fabric m
  let fresh (e : Nat × Sheave) : Nat × Sheave := (e.1, { e.2 with last := 7, rs := 0, fires := [] })
  let s := s.setFabric m { x with sheaves := x.sheaves.map fresh }
  { s with sail := { s.sail with rs := s.sail.rs.filter (fun e => e.1 / 16 != m) } }

/-- Each fairlead of a mast with a step list holds the first batch before the first edge (R207). -/
def State.preloadMast (s : State) (m : Nat) : State :=
  (s.mastFairleads m).foldl (fun (s : State) (f : Nat) =>
    let x := s.fl f
    if s.f (.flStep f) FL_STEP.LENGTH = 0 ∨ x.entry ≠ 0 ∨ x.batch ≠ [] ∨ x.stopped then s else s.flEntry f 0) s

/-- E_Tick for a section: masts are bound, windows open, entries arm, ENABLE is set (R434). -/
def State.startNow (s : State) (sec k : Nat) : State :=
  let x := s.sect sec
  let ms := s.loadedMasts sec
  let s := ms.foldl State.startMast s
  let s := x.wins.foldl State.winOpenOp s
  let s := (s.entList.filter (fun e => s.entSection e == sec)).foldl State.armEntry s
  let s := s.setStep sec { k := k, nextEdge := k }
  ms.foldl State.preloadMast (s.setSecState sec secRunning)

/-- The next step of a resumed section may start: its sources and drains are released (R441). -/
def State.resumeNow (s : State) (sec k : Nat) : State :=
  let s := (s.loadedMasts sec).foldl (fun (s : State) (m : Nat) =>
    let s := (s.setF (.fabCtrl m) FAB_CTRL.STOP_SRC 0).setF (.fabCtrl m) FAB_CTRL.DRAIN 0
    ((s.setF (.fabStat m) FAB_STAT.SRC_STOPPED 0).setF (.fabStat m) FAB_STAT.DRAIN_DONE 0).setF (.fabStat m) FAB_STAT.RESIDUE 0) s
  let s := s.setSect sec { s.sect sec with stopped := false }
  let s := s.setStep sec { s.stepOf sec with nextEdge := k }
  s.setSecState sec secRunning

/-- SECTION_START_EDGE: the command completes, with TIMEOUT after a switch whose edge had passed (R434, R437). -/
def execSectionStartEdge (sec : Byte) (s : State) : Host.Outcome State Fault Refusal :=
  .next <|
  let n := sec.toNat
  match (s.sect n).job with
  | .start i q k false sw =>
    if s.tick.nextK ≤ k then s
    else
      let s := (s.startNow n k).setSecJob n .none
      if sw = some true then (s.slErrBit SL_ERR.SWITCH n).mbxEnd i q .timeout else s.mbxEnd i q .done
  | _ => s

/-- SECTION_RESUME_EDGE. -/
def execSectionResumeEdge (sec : Byte) (s : State) : Host.Outcome State Fault Refusal :=
  .next <|
  let n := sec.toNat
  match (s.sect n).job with
  | .start i q k true _ => if s.tick.nextK ≤ k then s else ((s.resumeNow n k).setSecJob n .none).mbxEnd i q .done
  | _ => s

/-! ### Suspension (R438, R440) -/

/-- SECTION_SUSPEND. -/
def execSectionSuspend (i : Fin 64) (s : State) : Host.Outcome State Fault Refusal :=
  .next <| s.mbxBegin i 0x33 (fun c s =>
    let sec := c.p 0x10 1
    let us := if c.p 0x14 4 = 0 then 1000 else c.p 0x14 4
    match s.secState sec with
    | none => (some .badDescriptor, s)
    | some st =>
      if st ≠ secRunning then (some .busy, s)
      else if imgSave (s.sect sec).hdr = 0 then (some .badDescriptor, s)
      else
        let s := (s.setSecState sec secSuspending).setSecJob sec (.suspend i c.seq s.now (s.now + us * 1000))
        (none, s.suspendStop sec))

/-- Every mast of a section has DRAIN_DONE. -/
def State.drained (s : State) (ms : List Nat) : Bool := ms.all (fun m => s.bit (.fabStat m) FAB_STAT.DRAIN_DONE)

/-- No record of a coil of the masts is reserved and not committed, or claimed and not released: every access in flight has
completed (R187). -/
def State.coilsQuiet (s : State) (ms : List Nat) : Bool :=
  ms.all (fun m => (s.coilsOf m).all (fun k =>
    s.co m k COIL.RESV == s.co m k COIL.TAIL && s.co m k COIL.CLAIM == s.co m k COIL.HEAD))

/-- The section's sources have stopped, its masts are drained and its accesses have completed: the loader saves (R187, R438). -/
def State.saveReady (s : State) (sec : Nat) : Bool :=
  (s.sect sec).stopped && s.drained (s.loadedMasts sec) && s.coilsQuiet (s.loadedMasts sec)

/-- SUSPEND_SAVE (R438 step 4). -/
def execSuspendSave (sec : Byte) (s : State) : Host.Outcome State Fault Refusal :=
  .next <|
  let n := sec.toNat
  match (s.sect n).job with
  | .suspend i q _ _ =>
    let ms := s.loadedMasts n
    if !s.saveReady n then s
    else
      let res := if ms.any (fun m => s.bit (.fabStat m) FAB_STAT.RESIDUE) then 1 else 0
      (((s.saveSection n).setSecState n secSuspended).setSecJob n .none).mbxEnd i q .done (leBytes 1 res)
  | _ => s

/-- SUSPEND_TIMEOUT (R440): the drain has not ended by DrainUs. -/
def execSuspendTimeout (sec : Byte) (s : State) : Host.Outcome State Fault Refusal :=
  .next <|
  let n := sec.toNat
  match (s.sect n).job with
  | .suspend i q _ limit =>
    if s.now < limit ∨ s.saveReady n then s
    else
      let s := ((s.stopSources n).setSecState n secHalted).setSecJob n .none
      (s.slErrBit SL_ERR.DRAIN n).mbxEnd i q .timeout
  | _ => s

/-! ### Switch (R436, R437) -/

/-- The switch that replaces a section. -/
def State.switchOf (s : State) (old : Nat) : Option SwitchJob := s.loader.switches.find? (fun j => j.old == old)

/-- A switch is over. -/
def State.dropSwitch (s : State) (old : Nat) : State :=
  { s with loader := { s.loader with switches := s.loader.switches.filter (fun j => j.old != old) } }

/-- The verify pass of a switch, and its cutoff (R436 steps 1 and 2). -/
def State.switchStart (s : State) (i : Nat) (c : MbxCmd) : Option Status × State :=
  let old := c.p 0x10 1
  let new := c.p 0x11 1
  let a := c.p 0x18 8
  match s.secState old with
  | none => (some .badDescriptor, s)
  | some st =>
    if (st ≠ secLoaded ∧ st ≠ secRunning ∧ st ≠ secSuspended) ∨ (s.sect old).job ≠ .none ∨ !s.bit .stkCtrl STK_CTRL.RUN
    then (some .busy, s)
    else match s.edgeIn (c.p 0x14 4) 200 with
    | none => (some .timeout, s.slErrBit SL_ERR.SWITCH new)
    | some k =>
      let (st, h) := s.imgCheck new a (some old)
      let key := s.imgKeyOf h
      if st ≠ .done then (some st, s.loadErr st new false)
      else if s.saveClash a h then (some .badDescriptor, s.loadErr .badDescriptor new false)
      else
        let (st, sig) := s.imgVerify a h key (some old)
        let s := s.readPass uLoader [(a, 512 + imgLen h)]
        if st ≠ .done then (some st, s.loadErr st new sig)
        else
          let j : SwitchJob := {
            mbx := i, seq := c.seq, old := old, new := new, k := k, image := a, hdr := h, key := key }
          let s := s.setSect old { s.sect old with cutoff := some (s.edgeAt k - 140000) }
          (none, { s with loader := { s.loader with switches := s.loader.switches ++ [j] } })

/-- SECTION_SWITCH. -/
def execSectionSwitch (i : Fin 64) (s : State) : Host.Outcome State Fault Refusal :=
  .next <| s.mbxBegin i 0x36 (fun c s => s.switchStart i c)

/-- SWITCH_CUTOFF: a step of Old that is not done by C ends the switch; Old goes on (R437). -/
def execSwitchCutoff (sec : Byte) (s : State) : Host.Outcome State Fault Refusal :=
  .next <|
  let n := sec.toNat
  match s.switchOf n, (s.sect n).cutoff with
  | some j, some c =>
    if s.tick.tb < c * tbUnit ∨ (s.stepOf n).opens = [] then s
    else
      let s := (s.dropSwitch n).setSect n { s.sect n with cutoff := none }
      (s.slErrBit SL_ERR.SWITCH j.new).mbxEnd j.mbx j.seq .tickOverrun
  | _, _ => s

/-- Old has no step open and none to come before the cutoff. -/
def State.oldDone (s : State) (old : Nat) : Bool :=
  (s.stepOf old).opens == [] &&
  (!s.secTicks old || (match (s.sect old).cutoff with
    | some c => decide (c < s.deadlineAt old (s.secNext old))
    | none => false))

/-- SWITCH_WRITE: Old is unloaded and the load of New goes on with its clear and its write; New starts at E_Tick, or at the next
edge if that has passed (R436 steps 3 and 4, R437). A mast of New that has gone to SLEEP since, or an image key that has been
erased, ends the switch with the status of its check, and Old continues (DEDUCED, log entry 83). -/
def execSwitchWrite (sec : Byte) (s : State) : Host.Outcome State Fault Refusal :=
  .next <|
  let n := sec.toNat
  match s.switchOf n with
  | none => s
  | some j =>
    let back (st : Status) : State :=
      ((s.dropSwitch n).setSect n { s.sect n with cutoff := none }).loadErr st j.new false |>.mbxEnd j.mbx j.seq st
    if !s.oldDone n then s
    else if s.mastsBusy (imgMask j.hdr) (some n) then back .busy
    else if keyGone j.hdr j.key then back .denied
    else ((s.dropSwitch n).unload n).loadEnter j.new j.image j.hdr j.key j.mbx j.seq 2 (some j.k)

/-! ### The loader at work (R429, R441; log entry 82) -/

/-- One phase of what the loader has under way for a section: of a load, or the restoration of a resumption. -/
def State.loaderPhase (s : State) (sec : Nat) : State :=
  match (s.sect sec).job with
  | .load i q p edge => s.loadPhase sec i q p edge
  | .restore i q k => (s.restoreSection sec).setSecJob sec (.start i q k true none)
  | _ => s

/-- The section that the loader works on: the first with a load or a restoration under way. -/
def State.loaderNext (s : State) : Option Nat :=
  (s.secs.find? (fun e => match e.2.job with
    | .load _ _ _ _ => true
    | .restore _ _ _ => true
    | _ => false)).map (·.1)

/-- One reference period at the loader. -/
def State.loaderClock (s : State) : State :=
  match s.loaderNext with
  | some sec => s.loaderPhase sec
  | none => s

end Sys2Proof.Machine
end

