-- ==== Sys2Proof/Machine/AbortOps.lean ====
section
/-! DEFINITION. The hardware abort: start, quiet, forced clear, cleanup, ABORT_DONE (15_crowsnest_mailboxes.md R414 to R418,
16_sections.md R442). -/

namespace Sys2Proof.Machine

/-! ### Queued frames of the sections (R416) -/

/-- The first sequence number of the run of frames, ending at `q`, that have not left. -/
def Conn.tailFrom (x : Conn) : Nat → Nat → Nat
  | 0, q => q
  | k + 1, q =>
    let p := (q + 2 ^ 32 - 1) % 2 ^ 32
    if x.unacked.any (fun u => u.frame.seq == p && u.sentAt.isNone) then x.tailFrom k p else q

/-- The queued frames of some units on a connection are discarded. The frames behind them take the numbers in order, so
that no number is missing; a frame whose number lies below one that has left stays (DEDUCED, log entry 36). -/
def State.discardConn (s : State) (c : Nat) (mine : Nat → Bool) : State :=
  let x := s.conn c
  let nxt := s.cn c CN.SNDNXT
  let q0 := x.tailFrom x.unacked.length nxt
  let off (q : Nat) : Nat := (q + 2 ^ 32 - q0) % 2 ^ 32
  let inTail (q : Nat) : Bool := decide (off q < off nxt)
  let gone := (x.unacked.filter (fun u => inTail u.frame.seq && mine u.frame.srcUnit)).map (fun u => u.frame.seq)
  let ren (q : Nat) : Nat :=
    if inTail q then (q + 2 ^ 32 - (gone.filter (fun g => decide (off g < off q))).length) % 2 ^ 32 else q
  let fix (f : TxFrame) : TxFrame := { f with seq := ren f.seq }
  let numbered (f : TxFrame) : Bool := f.cn == c && f.sequenced
  if gone = [] then s
  else
    let lost := (s.net.ops.filter (fun o => o.cn == c && o.seqs.any gone.contains)).map (·.id)
    let s := s.setConn c { x with
      unacked := (x.unacked.filter (fun u => !gone.contains u.frame.seq)).map (fun (u : Unacked) => { u with frame := fix u.frame }) }
    let s := s.setCn c CN.SNDNXT ((nxt + 2 ^ 32 - gone.length) % 2 ^ 32)
    { s with
      net := { s.net with
        txq := (s.net.txq.filter (fun f => !(numbered f && gone.contains f.seq))).map (fun f => if numbered f then fix f else f)
        ops := (s.net.ops.filter (fun o => !lost.contains o.id)).map (fun (o : RemOp) =>
          if o.cn = c then { o with seqs := o.seqs.map ren } else o) }
      red := { s.red with inflight := s.red.inflight.filter (fun e => !lost.contains e.1) } }

/-- A unit works for one of the masts. -/
def State.worksFor (s : State) (ms : List Nat) (u : Nat) : Bool :=
  match s.workMast u with
  | some m => ms.contains m
  | none => false

/-- Queued outgoing frames of the masts are discarded (R416). -/
def State.discardFrames (s : State) (ms : List Nat) : State :=
  s.cnList.foldl (fun (s : State) (c : Nat) => s.discardConn c (s.worksFor ms)) s

/-! ### Start (R416, R417) -/

/-- The sections an abort of scope all takes: every loaded one that is not ABORTED already. -/
def State.liveSections (s : State) : List Nat :=
  (List.range 8).filterMap (fun i =>
    if s.bit (.slSec i 0) SL_SEC.VALID && s.f (.slSec i 0) SL_SEC.STATE != secAborted
    then some (s.f (.slSec i 0) SL_SEC.SECTION) else none)

/-- The section command under way for a section completes with ABORTED (R418). -/
def State.abortJob (s : State) (sec : Nat) : State :=
  let s := match (s.sect sec).job with
    | .start i q _ _ _ => (s.setSecJob sec .none).mbxEnd i q .aborted
    | .suspend i q _ _ => (s.setSecJob sec .none).mbxEnd i q .aborted
    | .load i q _ _ => (s.setSecJob sec .none).mbxEnd i q .aborted
    | .restore i q _ => (s.setSecJob sec .none).mbxEnd i q .aborted
    | .none => s
  (s.loader.switches.filter (fun j => j.old == sec || j.new == sec)).foldl (fun (s : State) (j : SwitchJob) =>
    ((s.dropSwitch j.old).setSect j.old { s.sect j.old with cutoff := none }).mbxEnd j.mbx j.seq .aborted) s

/-- The units of sections stop (R416, columns 0 to 3 µs): engines end what they do, sources stop and the masts drain, sends
end, queued frames are discarded. -/
def State.abortStop (s : State) (secs : List Nat) : State :=
  let s := secs.foldl State.abortJob s
  let ms := secs.flatMap s.loadedMasts
  let s := ms.foldl (fun (s : State) (m : Nat) => ((s.endEngines m).startDrain m).halEndSends m) s
  s.discardFrames ms

/-- The masts in the scope of the abort. -/
def State.abortMasts (s : State) : List Nat := s.abt.scope.flatMap s.loadedMasts

/-- Every mast in scope is drained and nothing of an aborted unit is in flight (R416). -/
def State.abortQuiet (s : State) : Bool :=
  let ms := s.abortMasts
  s.drained ms && !s.chip.writes.any (fun w => w.dev == s.dev && s.worksFor ms w.unit)

/-! ### Cleanup and the end (R304, R342, R416, R442) -/

/-- Cleanup of a section: its channels, windows, cleats and entries, whose ranges hold undefined contents (R342); it is left
ABORTED. -/
def State.abortSection (s : State) (sec : Nat) : State :=
  let x := s.sect sec
  let ms := s.loadedMasts sec
  let s := ms.foldl (fun (s : State) (m : Nat) => s.halClear m true) s
  let s := x.wins.foldl State.winCloseOp s
  let s := (s.ownedCleats sec).foldl (fun (s : State) (i : Nat) =>
    s.forceCleat i { s.cleat i with st := .abandoned } .aborted false) s
  let es := s.entList.filter (fun e => s.entSection e == sec && s.entState e != 0)
  let s := (es.foldl (fun (s : State) (e : Nat) => s.undefine (s.entBase e) (s.entLen e)) s).dropEnts sec
  let s := ms.foldl (fun (s : State) (m : Nat) => s.setF (.fabCtrl m) FAB_CTRL.ENABLE 0) s
  let s := { s with
    tick := { s.tick with reports := s.tick.reports.filter (fun r => !s.worksFor ms r.1) }
    chip := { s.chip with stalled := s.chip.stalled.filter (fun r => !s.worksFor ms r.unit)
                          transWait := s.chip.transWait.filter (fun r => !s.worksFor ms r.unit) } }
  (s.setStep sec { s.stepOf sec with opens := [] }).setSecState sec secAborted

/-- ABORT_DONE leaves by the port of its ABORT, with its Counter and its own tag (R414, R416). -/
def State.abortDone (s : State) (forced : Bool) (a : AbortFrame) : State :=
  let key := ((s.sec.abort.find? (fun e => e.1 == a.key)).map (·.2)).getD []
  let st : Status := if forced then .aborted else .done
  let h := leBytes 1 1 ++ leBytes 1 a.scope ++ leBytes 1 a.section_ ++ leBytes 1 a.key ++ leBytes 1 st.code ++ zeros 3 ++
    leBytes 8 a.counter ++ leBytes 4 (min (s.now - a.time) (2 ^ 32 - 1)) ++ zeros 12
  let tag := Config.gcmTag key (leBytes 4 1 ++ leBytes 8 a.counter) (h.take 24 ++ leBytes 4 s.dev) []
  s.enqueue {
    port := a.port, sub := a.sub, queue := 0, cn := 4096, typ := tAbort, flags := 1, seq := 0, dst := a.dst
    srcUnit := uAbort, subhdr := h, pay := tag, addr := a.addr }

/-- Cleanup is done: the abort controller answers (R416 to R419, R490). -/
def State.abortFinish (s : State) : State :=
  let a := s.abt
  let forced := a.forced != []
  let el := min (s.now - a.start) (2 ^ 32 - 1)
  let masts := maskOf 8 (fun m => a.forced.contains m)
  let s := a.scope.foldl State.abortSection s
  let s := (s.setF .abtStat ABT_STAT.ACTIVE 0).setF .abtStat ABT_STAT.PHASE 0
  let s := (s.incWrap .abtStat ABT_STAT.COUNT).setF .abtCtrl ABT_CTRL.TRIGGER 0
  let s := s.wr .abtLast (BitVec.ofNat 64 (el + (if forced then 2 ^ 32 else 0) + (if a.trig then 2 ^ 33 else 0) + masts * 2 ^ 40))
  let s := s.logEvent 0x0070 (if forced then .aborted else .done) uAbort 0xFF
    (el + (if forced then 2 ^ 32 else 0) + masts * 2 ^ 40)
  let s := a.frames.foldl (fun (s : State) (f : AbortFrame) => s.abortDone forced f) s
  let s := { s with abt := {} }
  (s.mbxUnderWay 0xF0).foldl (fun (s : State) (e : Nat × MbxCmd) =>
    let t := min (s.now - e.2.start.getD s.now) (2 ^ 32 - 1)
    s.mbxEnd e.1 e.2.seq .done (leBytes 4 t ++ leBytes 1 (if forced then 1 else 0))) s

/-- Masts that are not drained are cleared by force; what they have in flight is discarded (R139, R187, R416). -/
def State.abortForced (s : State) : State :=
  let ms := s.abortMasts.filter (fun m => !s.drained [m])
  let late := if ms = [] then s.abortMasts else ms
  let s := (s.setF .abtStat ABT_STAT.PHASE 3).setF .abtErr ABT_ERR.FORCED 1
  let s := { s with chip := { s.chip with writes := s.chip.writes.filter (fun w => !(w.dev == s.dev && s.worksFor late w.unit)) } }
  let s := late.foldl State.forceMast s
  let s := s.discardFrames s.abortMasts
  { s with abt := { s.abt with forced := late } }

/-- An abort of sections is ordered (R416, R417): it starts, or joins the one that runs. -/
def State.abortBegin (s : State) (secs : List Nat) (trig : Bool) (fr : Option AbortFrame) : State :=
  let more := match fr with
    | some f => [f]
    | none => []
  if s.bit .abtStat ABT_STAT.ACTIVE then
    let new := secs.filter (fun x => !s.abt.scope.contains x)
    let s := { s with abt := { s.abt with scope := s.abt.scope ++ new, frames := s.abt.frames ++ more } }
    (if new = [] then s else s.setF .abtStat ABT_STAT.PHASE 1).abortStop new
  else
    let s := (s.setF .abtStat ABT_STAT.ACTIVE 1).setF .abtStat ABT_STAT.PHASE 1
    let s := { s with abt := { scope := secs, start := s.now, trig := trig, frames := more } }
    if secs = [] then s.abortFinish else s.abortStop secs

/-- One reference period of the abort (R416, R419): the stop has reached the units within 3 µs and the masts drain; after a forced
clear, and at quiet, cleanup runs and ends (log entry 82). -/
def State.abortClock (s : State) : State :=
  match s.f .abtStat ABT_STAT.PHASE with
  | 1 => if s.passed s.abt.start 3000 then s.setF .abtStat ABT_STAT.PHASE 2 else s
  | 3 => s.setF .abtStat ABT_STAT.PHASE 4
  | 4 => s.abortFinish
  | _ => s

/-- One period of the reference clock with nothing commanded (log entry 1): time and the units that it drives, the abort
controller, the section loader. -/
def State.refPeriod (s : State) : State := s.clock.abortClock.loaderClock

/-- The sections of a scope: 0 all, 1 the one named. -/
def State.abortScope (s : State) (scope sec : Nat) : List Nat :=
  if scope = 0 then s.liveSections else s.liveSections.filter (fun x => x == sec)

end Sys2Proof.Machine
end

