-- ==== Sys2Proof/Machine/RegOps.lean ====
section
/-! DEFINITION. Reading registers: the address check, the words hardware derives from other state, and the lock of RWL
fields (00_scope.md R10, 16_sections.md R427, 21_register_map.md R524 to R528). -/

namespace Sys2Proof.Machine

/-! ### Addresses -/

/-- First address of register space. -/
def regBase : Nat := 0x0F0000000000

/-- Words that read as zero and ignore writes: HBM_KR[0], and the offsets of HBM_MAP and HBM_KR in the blocks of the
controllers other than 0 (R392). -/
def zeroWord (a : Nat) : Bool :=
  let o := (a - 0x0F0002000000) % 0x10000
  decide (0x0F0002000000 ≤ a) && decide (a < 0x0F0002100000) &&
  (if a < 0x0F0002010000 then decide (0x8000 ≤ o) && decide (o < 0x8010)
   else o == 0x100 || (decide (0x8000 ≤ o) && decide (o < 0x8400)))

/-- The register of an address, none where its word only reads as zero, or the status of an access that names no register
(R524). -/
def regDecode (a : Nat) : Except Status (Option Reg) :=
  if a % 8 ≠ 0 then .error .badDescriptor
  else if zeroWord a then .ok none
  else match Reg.ofAddr a with
    | some r => .ok (some r)
    | none => .error .outOfBounds

/-- The block of an HBM stack or fairlead a DMK-BRC-A12 lacks, or of a sub-port beyond the port's mode: it reads as zero
and ignores writes (R374, R528). -/
def State.regAbsent (s : State) (r : Reg) : Bool :=
  let gone (h : Nat) : Bool := s.fuses.a12 && h % 4 == 3
  let beyond (p b : Nat) : Bool := decide (s.subPorts p ≤ b)
  match r with
  | .hbmStat h => gone h
  | .hbmTemp h => gone h
  | .hbmCe h => gone h
  | .hbmUe h => gone h
  | .hbmUeAddr h => gone h
  | .hbmErr h => gone h
  | .hbmScrub h => gone h
  | .hbmLines h => gone h
  | .flStep f => gone f
  | .flRec f => gone f
  | .flStat f => gone f
  | .flErr f => gone f
  | .scOp f => gone f
  | .scRange f => gone f
  | .scLen f => gone f
  | .scHits f => gone f
  | .scMisses f => gone f
  | .scErr f => gone f
  | .portStat p b => beyond p b
  | .portFec p b => beyond p b
  | .portMac p b => beyond p b
  | .portIp6 p b _ => beyond p b
  | .portIp4 p b => beyond p b
  | .portDrop p b => beyond p b
  | .portTxts p b _ => beyond p b
  | _ => false

/-! ### Words that hardware derives -/

/-- Word `w` of a log record, zero where the record is no longer in the log (R488). -/
def logWord (e : Option EventRec) (w : Nat) : Nat :=
  match e with
  | some e => leAt e.bytes (8 * w) 8
  | none => 0

/-- The tracked writes that hold, or wait for, entries of a mast's scoreboard (R190). -/
def State.sbWrites (s : State) (m : Nat) (waiting : Bool) : List TrackedWrite :=
  s.chip.writes.filter (fun w => w.mast == m && w.waiting == waiting)

/-- MEM_STAT (R199). -/
def State.memStatWord (s : State) (m : Nat) : Nat :=
  min 64 (s.sbWrites m false).length + (if (s.sbWrites m true) = [] then 0 else 128) + min 255 (s.coilWaits m) * 256

/-- An entry of the scoreboard (R193). -/
def State.sbWord (s : State) (m e w : Nat) : Nat :=
  match (s.sbWrites m false)[e]? with
  | none => 0
  | some x =>
    if w = 0 then x.addr / 64 * 64 + 2 ^ 63
    else (x.addr % 64 + x.data.length + 63) / 64 % 128 + x.unit % 65536 * 2 ^ 16 + x.dev % 2 ^ 17 * 2 ^ 32

/-- FL_STAT: slots, entry and miss queue beside the stored STEP_DONE (R222). -/
def State.flStatWord (s : State) (f : Nat) : Nat :=
  let x := s.fl f
  let waits := x.slots.filter (fun (e : Nat × FlDesc) => s.flWaits f e.1 e.2)
  let n := x.slots.length
  (if n = 0 then 0 else 1) + s.f (.flStat f) FL_STAT.STEP_DONE * 2 + n % 128 * 4 + waits.length % 128 * 2 ^ 9 +
  (x.entry - 1) % 65536 * 2 ^ 16 + min 256 (s.slice f).miss.length * 2 ^ 32

/-- The loader has a load, switch, suspension, resumption or unload under way (R444). -/
def State.loaderBusy (s : State) : Bool :=
  s.loader.switches != [] ||
  s.secs.any (fun (e : Nat × Section) => match e.2.job with
    | .start _ _ _ resume sw => resume || sw.isSome
    | .none => false
    | _ => true)

/-- PHASE of SL_STAT (R444): of the section that the loader works on, else 5 while it saves one. -/
def State.loaderPhaseNo (s : State) : Nat :=
  match s.loaderNext with
  | some sec => match (s.sect sec).job with
    | .load _ _ p _ => p
    | _ => 6
  | none => if s.secs.any (fun e => match e.2.job with | .suspend _ _ _ _ => s.saveReady e.1 | _ => false) then 5 else 0

/-- Connections in a state. -/
def State.cnCount (s : State) (st : Nat) : Nat := (s.cnList.filter (fun c => s.cn c CN.STATE == st)).length

/-- Buckets in a state (R343). -/
def State.bktCount (s : State) (st : Nat) : Nat :=
  (s.entList.filter (fun e => decide (e < 4096) && s.entState e == st)).length

/-- SEC_STAT with the slots that hold keys, and the bits of its other fields as stored (R461). -/
def State.secStatWord (s : State) : Nat :=
  let w := (s.rd .secStat).toNat
  let w := setBits w 7 4 (maskOf 4 (fun k => s.sec.image.any (fun e => e.1 == k)))
  let w := setBits w 11 8 (maskOf 4 (fun k => s.sec.abort.any (fun e => e.1 == k)))
  setBits w 12 12 (if s.sec.link.any (fun e => e.1 == 255) then 1 else 0)

/-- The word a read of a register returns; a register no rule derives returns the word it stores. -/
def State.regView (s : State) (r : Reg) : Nat :=
  if s.regAbsent r then 0 else
  match r with
  | .cltDbg w => leAt (s.cleatRecord (s.f .cltDbgsel CLT_DBGSEL.SEL)) (8 * w) 8
  | .cltStat => maskOf 9 (fun g => decide (2048 ≤ s.segWaits g))
  | .tbNow => s.tbNs
  | .redStat => s.bktCount 3 + s.bktCount 2 * 2 ^ 13
  | .halQstat o c =>
    let x := s.chan (128 * o + c)
    x.queue.length % 128 + x.held % 128 * 2 ^ 7
  | .halNote c w =>
    match (s.chan (1024 + c)).queue with
    | [] => 0
    | n :: _ => if w = 0 then leAt n.bytes 0 8 else leAt n.bytes 8 8 % 2 ^ 63 + 2 ^ 63
  | .memStat m => s.memStatWord m
  | .sbEntry m e w => s.sbWord m e w
  | .fltLogdata w => logWord (s.flt.log.find? (fun e => e.seq == s.f .fltLogsel FLT_LOGSEL.SEQ)) w
  | .fltFirst w => logWord s.flt.first w
  | .flStat f => s.flStatWord f
  | .fabStat m =>
    setBits (s.rd r).toNat 0 0 (if s.bit (.fabCtrl m) FAB_CTRL.ENABLE && !s.bit r FAB_STAT.SRC_STOPPED then 1 else 0)
  | .tpStat => s.cnCount cnOpen + s.cnCount cnLost * 2 ^ 13
  | .slStat => setBits (setBits (s.rd r).toNat 0 0 (if s.loaderBusy then 1 else 0)) 3 1 s.loaderPhaseNo
  | .portTxts p b w => s.txtsWord p b w
  | .secStat => s.secStatWord
  | .secSlots => maskOf 64 (fun k => s.sec.hbm.any (fun e => e.1 == k))
  | .secOwner w =>
    if s.bit .secStat SEC_STAT.OWNER_BOUND then leAt (Config.sha512 s.sec.ownerPub) (8 * w) 8 else 0
  | _ => (s.rd r).toNat

/-- TB_FRAC holds the fraction of the value a read of TB_NOW returned (R311). -/
def State.latchFrac (s : State) : State := s.setF .tbFrac TB_FRAC.FRAC s.tbFrac

/-! ### The lock of RWL fields (R10, R427) -/

/-- A section runs on a mast: loaded in any state (R427). -/
def State.mastLocked (s : State) (m : Nat) : Bool := (s.mastEntry m).isSome

/-- The mast whose block a register stands in, or whose binding it is. -/
def Reg.mast? (r : Reg) : Option Nat :=
  match r with
  | .stkMast m => some m
  | .shrMast _ m => some m
  | _ =>
    let a := Reg.addr r
    if 0x0F0001000000 ≤ a ∧ a < 0x0F0001800000 then some ((a - 0x0F0001000000) / 0x100000) else none

/-- A section runs on the unit that owns the RWL fields of a register: its mast; of a fairlead the mast its register names;
of a bucket or ordered channel the section it names; of every other register the whole device (DEDUCED, log entry 37). -/
def State.rwlLocked (s : State) (r : Reg) : Bool :=
  match r with
  | .bkt t _ => (s.secEntry (s.f (.bkt t 3) BKT.SECTION)).isSome
  | .ord o _ => (s.secEntry (s.f (.ord o 2) ORD.SECTION)).isSome
  | .flStep _ => s.mastLocked (s.f r FL_STEP.MAST)
  | .flRec _ => s.mastLocked (s.f r FL_REC.MAST)
  | _ =>
    match Reg.mast? r with
    | some m => s.mastLocked m
    | none => (List.range 8).any (fun i => s.bit (.slSec i 0) SL_SEC.VALID)

/-- Leave the outcome of an access with its requester. -/
def State.regAnswer (s : State) (st : Status) (v : Nat) : State :=
  { s with chip := { s.chip with results := Tbl.set s.chip.results (uCn 0) { st := st, data := leBytes 8 v } } }

end Sys2Proof.Machine
end

