-- ==== Sys2Proof/Machine/FaultOps.lean ====
section
/-! DEFINITION. Fatal errors and the crash dump (19_faults_and_dump.md R486, R487, R494 to R500). -/

namespace Sys2Proof.Machine

/-! ### Fatal errors (R486, R487) -/

/-- The sections with a mast in a failing scope: `m` 8 is the device. -/
def State.fatalScope (s : State) (m : Nat) : List Nat :=
  s.liveSections.filter (fun x => m == 8 || (s.loadedMasts x).contains m)

/-- A fatal error of row `row` of R486 is handled: steps 1 and 2 of R487, and what is owed of steps 3 to 5. `m`: the mast,
or 8 for the device. -/
def State.fatal (s : State) (row m unit : Nat) : State :=
  let dev := m == 8
  let st : Status := if row = 5 then .done else .uncorrectable
  let sec := if dev then 0xFF else (s.mastSection m).getD 0xFF
  let old := s.bit .fltStat FLT_STAT.FATAL
  let s := s.logEvent 0x00F0 st unit sec (row + (if dev then 256 else 512 * m))
  let s := if old then s else { s with flt := { s.flt with first := s.flt.log.head? } }
  let s := s.setF .fltStat FLT_STAT.FATAL 1
  let s := if dev then s.setF .fltStat FLT_STAT.DEVICE_FATAL 1
    else s.setF .fltStat FLT_STAT.FATAL_MASTS (s.f .fltStat FLT_STAT.FATAL_MASTS ||| 2 ^ m)
  let rec_ := (s.flt.log.head?.map EventRec.bytes).getD (zeros 32)
  let owed := !old && s.f .fltStat FLT_STAT.DUMP == 0
  let s := { s with
    flt := { s.flt with
      prevFatal := true
      fatals := s.flt.fatals ++ [(row, m, s.now)]
      dumpDue := if owed then some s.now else s.flt.dumpDue
      dumpFatal := if owed then rec_ else s.flt.dumpFatal }
    pwr := { s.pwr with moves := if dev then (List.range 8).map (fun i => (i, 2)) else s.pwr.moves } }
  if row = 5 then s else s.abortBegin (s.fatalScope m) false none

/-- The abort of the fatal errors is over and their dump is written or not owed. -/
def State.dumpOver (s : State) : Bool := s.flt.dumpDue.isNone && !s.bit .abtStat ABT_STAT.ACTIVE

/-! ### Records of queues (R497) -/

/-- Notification queues of channels 0 to 127 of an owner. -/
def State.queueBytes (s : State) (o : Nat) : List Byte :=
  (List.range 128).flatMap (fun c => fit 1024 ((s.chan (128 * o + c)).queue.flatMap Note.bytes))

/-- Reservations of downhauls 64 to 127 of an owner. -/
def State.resvBytes (s : State) (o : Nat) : List Byte :=
  (List.range 64).flatMap (fun c => (List.range 64).flatMap (fun i =>
    let r := (s.chan (128 * o + 64 + c)).slot i
    leBytes 4 ((if r.held then 1 else 0) + r.gen % 16 * 2 + r.maxReply % 512 * 2 ^ 5)))

/-- A pending wait. -/
def State.waitBytes (s : State) (w : Wait) : List Byte :=
  let left := if w.tmo = 0 then 2 ^ 32 - 1 else w.tmo - min w.tmo ((s.now - w.start) / 1000)
  leBytes 2 w.cleat ++ leBytes 4 w.n ++ leBytes 1 (if w.consume then 1 else 0) ++ leBytes 5 w.unit ++ leBytes 4 left

/-- The 2,048 pending-wait entries of a segment. -/
def State.segBytes (s : State) (g : Nat) : List Byte :=
  fit 32768 (((s.clt.waits.filter (fun w => cleatSeg w.cleat == g && !w.held)).flatMap s.waitBytes))

/-- The snapshot of a mast (R137). -/
def State.heldSnap (s : State) (m : Nat) : List Byte :=
  memGets s.mem (actBase m + s.f (.fabSnap m) FAB_SNAP.OFFSET) 4160

/-- The MAST section (R497). -/
def State.mastDump (s : State) (m : Nat) : List Byte :=
  (List.range 2048).flatMap (fun i => leBytes 8 (s.regView (.slot m (i / 8) (i % 8) 0))) ++
  fit 0x2000 (s.heldSnap m) ++ s.queueBytes m ++ s.resvBytes m ++ s.segBytes m

/-- The DEVCHAN section: the device level's queues, ring pointers and reservations. R496 gives it R497's layout, which has no
place of its own for ring pointers: REGS holds them (DEDUCED, log entry 43). -/
def State.devDump (s : State) : List Byte := s.queueBytes 8 ++ s.resvBytes 8

/-- The MASTMEM section. -/
def State.memDump (s : State) (m : Nat) : List Byte :=
  memGets s.mem (actBase m) actSize ++
  (List.range 16).flatMap (fun i => memGets s.mem (psumBase (16 * m + i)) psumSize) ++
  (List.range 4).flatMap (fun j => (Tbl.get {} s.jibs (4 * m + j)).saveBytes.map (·.1)) ++
  (List.range 256).flatMap (fun n => (Tbl.get {} (Tbl.get {} s.fab m).sheaves n).regBytes.map (·.1))

/-- The registers of a range of register space, in ascending address. -/
def regsIn (a n : Nat) : List (Nat × Reg) :=
  (List.range (n / 8)).filterMap (fun i => (Reg.ofAddr (a + 8 * i)).map (fun r => (a + 8 * i, r)))

/-- A register holds nothing but WO fields in its word. -/
def Reg.writeOnly (r : Reg) : Bool :=
  let fs := (Reg.fields r).filter (fun F => F.w == Reg.word r)
  fs != [] && fs.all (fun F => F.acc == .wo)

/-- The REGS section: the device block only, where the dump is reduced. -/
def State.regDump (s : State) (reduced : Bool) : List Byte :=
  (regsIn regBase (if reduced then 0x01000000 else 0x09000000)).flatMap (fun (e : Nat × Reg) =>
    if e.2.writeOnly then [] else leBytes 8 e.1 ++ leBytes 8 (s.regView e.2))

/-- The EVENTS section. -/
def State.logDump (s : State) : List Byte := fit 131072 (s.flt.log.reverse.flatMap EventRec.bytes)

/-! ### The dump (R494 to R499) -/

/-- The sections of a dump in order, the log last. -/
def dumpPlan (reduced : Bool) : List (Nat × Nat) :=
  if reduced then [(2, 0), (1, 0)]
  else [(2, 0), (3, 0)] ++ (List.range 8).map (fun m => (4, m)) ++ [(5, 0)] ++ (List.range 8).map (fun m => (6, m)) ++ [(1, 0)]

/-- The content of a section. -/
def State.dumpSection (s : State) (k i : Nat) : List Byte :=
  match k with
  | 1 => s.logDump
  | 2 => s.regDump s.flt.dumpSram
  | 3 => (List.range 49152).flatMap s.cleatRecord
  | 4 => s.mastDump i
  | 5 => s.devDump
  | _ => s.memDump i

/-- Where the dump stands. -/
def State.dumpAt (s : State) : Nat := if s.flt.dumpSram then sramBase + 0x01000000 - 0x200000 else s.fuses.dumpBase

/-- The dump key: of the owner's image key in slot 0 (R455). -/
def State.dumpKey (s : State) : List Byte :=
  let k := ((s.sec.image.find? (fun e => e.1 == 0)).map (·.2)).getD []
  Config.hkdf k [] (ascii "BRECO dump") 32

/-- The header (R496): flags, DumpLen, Tag. -/
def State.dumpHeader (s : State) (flags len : Nat) (tag : List Byte) : List Byte :=
  let x := s.flt
  let bound := s.bit .secStat SEC_STAT.OWNER_BOUND
  let dir := x.dumpDir.flatMap (fun (e : Nat × Nat × Nat × Nat × Nat) =>
    leBytes 2 e.1 ++ leBytes 2 e.2.1 ++ leBytes 1 e.2.2.1 ++ zeros 3 ++ leBytes 8 e.2.2.2.1 ++ leBytes 8 e.2.2.2.2 ++ zeros 8)
  fit 4096 (leBytes 4 0x504D4B44 ++ leBytes 2 1 ++ leBytes 2 flags ++ leBytes 8 len ++ fit 16 s.fuses.serial ++
    leBytes 4 (s.rd .devId).toNat ++ leBytes 2 s.boot.fwVer ++ leBytes 2 x.dumpDir.length ++ fit 32 x.dumpFatal ++
    (if bound then fit 64 (Config.sha512 s.sec.ownerPub) else zeros 64) ++ fit 12 (if x.dumpEnc then x.dumpIv else []) ++
    zeros 12 ++ fit 16 tag ++ fit 64 s.sec.bootMR ++ fit 64 s.sec.sectionMR ++ zeros 208 ++ dir)

/-- Write a byte string as crowsnest into HBM or its SRAM. -/
def State.dumpStore (s : State) (a : Nat) (d : List Byte) : State :=
  s.landBytes s.dev (uCn 0) a (d.map (fun b => (b, false)))

/-- The write of a dump begins. -/
def State.dumpBegin (s : State) : State :=
  let enc := s.sec.image.any (fun e => e.1 == 0)
  let sram := s.hbmStatus != .done
  ({ s with flt := { s.flt with
      dumpTodo := dumpPlan sram, dumpDir := [], dumpBody := [], dumpIv := Config.drbg s.free 12, dumpKey := s.dumpKey
      dumpEnc := enc, dumpOmit := s.bit .secStat SEC_STAT.OWNER_BOUND && !enc, dumpSram := sram } }.tickFree).setF
    .fltStat FLT_STAT.DUMP 1

/-- One section of the directory is written; the last ends the dump. -/
def State.dumpStep (s : State) (k i : Nat) (rest : List (Nat × Nat)) : State :=
  let skip := s.flt.dumpOmit && (k == 5 || k == 6)
  let off := 4096 + s.flt.dumpBody.length
  let last := rest == []
  let kib (n : Nat) : Nat := (n + 1023) / 1024
  let s := if last then s.logEvent 0x00F1 .done (uCn 0) 0xFF (kib (off + 131072) + 2 ^ 32) else s
  let d := if skip then [] else s.dumpSection k i
  let pad := if last then 0 else (4096 - d.length % 4096) % 4096
  let s := { s with flt := { s.flt with
    dumpTodo := rest
    dumpDir := s.flt.dumpDir ++ [(k, i, if skip then 1 else 0, if skip then 0 else off, d.length)]
    dumpBody := s.flt.dumpBody ++ d ++ zeros pad } }
  let body := s.flt.dumpBody
  let flags := (if last then 1 else 0) + (if s.flt.dumpEnc then 2 else 0) + (if s.flt.dumpOmit then 4 else 0) +
    (if s.flt.dumpSram then 8 else 0)
  let len := 4096 + body.length
  let h0 := s.dumpHeader flags len []
  let tag := if last && s.flt.dumpEnc then Config.gcmTag s.flt.dumpKey s.flt.dumpIv (h0.take 0xA0 ++ h0.drop 0xB0) body else []
  let out := if s.flt.dumpEnc then Config.gcmEnc s.flt.dumpKey s.flt.dumpIv body else body
  let s := (s.dumpStore s.dumpAt (s.dumpHeader flags len tag)).dumpStore (s.dumpAt + 4096) out
  let s := s.wr .fltDumplen (BitVec.ofNat 64 len)
  if last then { s with flt := { s.flt with dumpDue := none, dumpBody := [] } }.setF .fltStat FLT_STAT.DUMP 2 else s

/-- Crowsnest writes the next section of the dump that is owed (R495): never before the abort has ended. -/
def State.dumpWrite (s : State) : State :=
  if s.flt.dumpDue.isNone || s.bit .abtStat ABT_STAT.ACTIVE || s.f .cnStat CN_STAT.CORES_UP == 0 then s
  else
    let s := if s.f .fltStat FLT_STAT.DUMP = 1 then s else s.dumpBegin
    match s.flt.dumpTodo with
    | [] => s
    | (k, i) :: rest => s.dumpStep k i rest

/-- A crowsnest restart during the write leaves the dump as written, marked RESTARTED and incomplete (R499). A reduced dump
lies in the SRAM that the restart may have wiped. -/
def State.dumpRestart (s : State) : State :=
  if s.f .fltStat FLT_STAT.DUMP ≠ 1 then s
  else
    let flags := (if s.flt.dumpEnc then 2 else 0) + (if s.flt.dumpOmit then 4 else 0) + (if s.flt.dumpSram then 8 else 0) + 16
    let s := s.dumpStore s.dumpAt (s.dumpHeader flags (4096 + s.flt.dumpBody.length) [])
    { s with flt := { s.flt with dumpDue := none, dumpTodo := [], dumpBody := [] } }.setF .fltStat FLT_STAT.DUMP 3

/-- CRASH_CLEAR: the dump is discarded and the fatal state cleared, not the log (R500). -/
def State.crashClear (s : State) : State :=
  let s := ((s.setF .fltStat FLT_STAT.FATAL 0).setF .fltStat FLT_STAT.DEVICE_FATAL 0).setF .fltStat FLT_STAT.DUMP 0
  let s := s.wr .fltDumplen 0
  { s with flt := { s.flt with dumpDue := none, dumpTodo := [], dumpDir := [], dumpBody := [] } }

end Sys2Proof.Machine
end

