-- ==== Sys2Proof/Machine/BootOps.lean ====
section
/-! DEFINITION. Resets, boot phases, firmware slots and calibration (18_boot_power_calibration.md R462 to R471, R547;
17_security.md R447, R449, R457). -/

namespace Sys2Proof.Machine

/-! ### A mast loses its state (R304, R342, R463, R547) -/

/-- Entry to SLEEP and mast reset: engines and channels end, the cleats of the segment are poisoned, entries in the mast's
activation memory become INVALID. -/
def State.mastLost (s : State) (m : Nat) : State :=
  let s := (s.endEngines m).halClear m false
  let s := (List.range 4096).foldl (fun (s : State) (i : Nat) =>
    s.forceCleat (4096 * m + i) { epoch := (s.cleat (4096 * m + i)).epoch, st := .poisoned } .abandoned true) s
  let mine (e : Nat) : Bool :=
    s.entState e != 0 && decide (actBase m ≤ s.entBase e) && decide (s.entBase e < actBase m + 0x04000000)
  let s := (s.entList.filter mine).foldl (fun (s : State) (e : Nat) =>
    ((s.dropWait (entKey e)).setEnt e BKT.STATE ORD.STATE 0).setRound e {}) s
  let ours (u : Nat) : Bool := unitMast u == some m
  { s with
    chip := { s.chip with
      writes := s.chip.writes.filter (fun w => w.mast != m)
      stalled := s.chip.stalled.filter (fun r => !ours r.unit)
      transWait := s.chip.transWait.filter (fun r => !ours r.unit)
      transpose := s.chip.transpose.filter (fun t => t.1 != m) }
    tick := { s.tick with reports := s.tick.reports.filter (fun r => !ours r.1) } }

/-- The mast whose block holds a register (R526). -/
def Reg.block? (r : Reg) : Option Nat :=
  let a := Reg.addr r
  if 0x0F0001000000 ≤ a ∧ a < 0x0F0001800000 then some ((a - 0x0F0001000000) / 0x100000) else none

/-- A mast reset, or a mast's return from SLEEP: memories cleared, registers at their reset values, FAB_GEN incremented, the
fabric empty (R141, R198, R463, R547). -/
def State.mastClear (s : State) (m : Nat) : State :=
  let gen := wrapAdd 16 (s.f (.fabGen m) FAB_GEN.GEN) 1
  let s := s.mastLost m
  let s := ((s.wipe (weightBase m) weightSize).wipe (actBase m) actSize).wipe (psumBase (16 * m)) 0x01000000
  let s := (s.resetRegs (fun r => r.block? == some m)).setF (.fabGen m) FAB_GEN.GEN gen
  { s with
    fab := s.fab.filter (fun e => e.1 != m)
    jibs := s.jibs.filter (fun e => e.1 / 4 != m)
    tk := s.tk.filter (fun e => e.1 != m)
    sail := { s.sail with rs := s.sail.rs.filter (fun e => e.1 / 16 != m) }
    chip := { s.chip with
      coils := s.chip.coils.filter (fun e => e.1.1 != m)
      merges := s.chip.merges.filter (fun w => (s.fuses.region (64 * w.line) 64).bind Region.mast != some m)
      scrub := s.chip.scrub.filter (fun e => e.1 != m) } }

/-! ### Device-wide resets (R462, R463) -/

/-- A reset of the device: 0 cold, 1 module, 2 warm. What stays is what R463 leaves: the fuses, boot flash, the counts of
RST_CAUSE and SL_STAT, the debug level at a warm reset, the module around the device, and what the stacks store, under the keys
it was written with (log entry 25); a cold reset clears the stacks' poison bits (log entry 24). -/
def State.deviceReset (s : State) (kind : Nat) (recovery : Bool := false) : State :=
  let hbm := s.mem.filter (fun c => decide (c.1 < s.fuses.hbmSize))
  let h := s.sealBase.hbm
  let n : State := {
    fuses := s.fuses, mem := hbm, poison := s.poison.filter (fun a => decide (kind ≠ 0) && decide (a < s.fuses.hbmSize))
    boot := { flash := s.boot.flash, active := s.boot.active, floor := s.boot.floor, overlay := s.boot.overlay
              cache := s.boot.cache, lens := s.boot.lens, t0 := s.now }
    cns := { wdAt := s.now }, pwr := { temps := s.pwr.temps }, mod := { s.mod with jtag := none }
    hbm := { map := h.map, base := h.base, seals := h.seals, temps := h.temps, sick := if kind = 0 then [] else h.sick }
    refs := s.refs, free := s.free, pending := s.pending }
  let old := s.f .rstCause RST_CAUSE.COUNT
  let count := if kind = 0 then 0 else min (old + 1) (2 ^ 32 - 1)
  let prev := kind ≠ 0 ∧ (s.flt.prevFatal ∨ s.bit .rstCause RST_CAUSE.PREV_FATAL)
  let n := n.wr .rstCause (BitVec.ofNat 64
    (kind + (if recovery then 8 else 0) + (if prev then 16 else 0) + count * 2 ^ 32))
  let n := if kind = 0 then n
    else (n.setF .slStat SL_STAT.MEASURES (s.f .slStat SL_STAT.MEASURES)).setF .cnStat CN_STAT.RESTARTS
      (s.f .cnStat CN_STAT.RESTARTS)
  if kind = 2 then (n.setF .secStat SEC_STAT.DEBUG (s.f .secStat SEC_STAT.DEBUG)).setF .bootStat BOOT_STAT.PHASE 2
  else n

/-! ### Keys of a boot (R447, R449, R457) -/

/-- New keys from the DRBG: the import key, the default key of HBM slot 0, and the count of R459. -/
def State.drawKeys (s : State) : State :=
  let f := s.free
  { s with
    free := f + 3
    sec := { s.sec with
      importKey := p521Key (Config.drbg f 80)
      hbm := []
      key0 := Config.drbg (f + 1) 32
      openCnt := leNat (Config.drbg (f + 2) 6) % 2 ^ 47 } }

/-- A mailbox epoch starts at a value of the DRBG (R402). -/
def State.drawEpochs (s : State) : State :=
  { s with free := s.free + 1
           mbx := (List.range 64).map (fun i => (i, { epoch := leAt (Config.drbg s.free 64) i 1 })) }

/-! ### Firmware slots (R467, R468) -/

/-- Bytes of a firmware slot. -/
def fwSlotSize : Nat := 0x04000000
/-- Offset of firmware slot `i` in boot flash. -/
def fwSlotAt (i : Nat) : Nat := 0x01000000 + fwSlotSize * i

/-- The firmware in a slot: the bytes its signature covers. -/
def State.slotBytes (s : State) (i : Nat) : List Byte := memGets s.boot.flash (fwSlotAt i) (Tbl.get fwSlotSize s.boot.lens i)

/-- A slot is valid: its signature verifies and its version is at or above the rollback floor. -/
def State.fwValid (s : State) (d : List Byte) : Bool := Config.fwOk d && decide (s.boot.floor ≤ Config.fwVer d)

/-- The slot the boot ROM takes: active, other, recovery, in this order, after the choices passed over. -/
def State.fwChoice (s : State) : Nat :=
  let a := s.boot.active
  if s.boot.skip < 1 ∧ s.fwValid (s.slotBytes a) then a
  else if s.boot.skip < 2 ∧ s.fwValid (s.slotBytes (1 - a)) then 1 - a
  else 2

/-- Steps 1 to 5 of R447 for the digests of two firmwares: the Alias key and its certificate; UDS, the DeviceID key and CDI are gone
after it. The ROM that runs again in one boot cannot read UDS and keeps what it has (log entry 46). -/
def State.romIdentity (s : State) (sec cn : List Byte) (ver : Nat) : State :=
  if s.sec.udsShut then s
  else
    let cdi := Config.hkdf s.fuses.uds (Config.sha512 (sec ++ cn)) (ascii "BRECO CDI") 64
    let priv := p521Key (Config.hkdf cdi [] (ascii "BRECO Alias") 80)
    let dev := p521Key (Config.hkdf s.fuses.uds [] (ascii "BRECO DeviceID") 80)
    let crt := Config.cert 3 [Config.p521Pub priv, dev, Config.sha512 sec, Config.sha512 cn, leBytes 2 ver]
    let s := s.drawKeys
    { s with sec := { s.sec with alias_ := priv, aliasCert := crt, udsShut := true } }

/-- Phase 2: the ROM selects a slot, performs R447 and measures the firmware; a reset's erasure draws new keys. -/
def State.bootRom (s : State) : State :=
  let slot := s.fwChoice
  let fw := if slot = 2 then Config.fwRecovery else s.slotBytes slot
  let sec := Config.fwSec fw
  let cn := if slot = 2 then Config.fwRecovery else Config.fwCn fw
  let ver := Config.fwVer fw % 65536
  let s := s.romIdentity sec cn ver
  let s := { s with boot := { s.boot with fwVer := ver } }
  let s := (s.measure 0 0xFF 0 0 (Config.sha512 sec)).measure 0 0xFF 0 0 (Config.sha512 cn)
  s.setF .bootStat BOOT_STAT.SLOT slot

/-! ### Calibration (R469 to R471) -/

/-- An item of an overlay: Id, Index, user value. -/
abbrev CalItem : Type := Nat × Nat × Int

/-- The items of an overlay. -/
def calItems (d : List Byte) : List CalItem :=
  (List.range (leAt d 6 2)).map (fun i => (leAt d (0x10 + 8 * i) 2, leAt d (0x12 + 8 * i) 2, sext 32 (leAt d (0x14 + 8 * i) 4)))

/-- An item is known and its index in range. -/
def calKnown (id i : Nat) : Bool :=
  if id = 0x01 then decide (i < 8)
  else if 0x10 ≤ id ∧ id ≤ 0x14 then decide (i < 136)
  else if id = 0x20 ∨ id = 0x30 then i == 0
  else id == 0x21 && decide (i < 16)

/-- Base, low and high limit of an item. -/
def calLimits (id i : Nat) : Int × Int × Int :=
  if id = 0x01 then (0, -25, 25)
  else if id = 0x20 then (105, 85, 105)
  else if id = 0x21 then (100, 85, 100)
  else if id = 0x30 then (2600, 450, 2600)
  else (Config.tapBase id i, Config.tapLow id i, Config.tapHigh id i)

/-- The effective value of an item under a user value. -/
def calEff (id i : Nat) (user : Int) : Int :=
  let l := calLimits id i
  min (max (l.1 + user) l.2.1) l.2.2

/-- The user value an overlay gives an item. -/
def calUser (d : List Byte) (id i : Nat) : Int :=
  ((calItems d).find? (fun (x : CalItem) => x.1 == id && x.2.1 == i)).map (fun x => x.2.2) |>.getD 0

/-- The effective value of an item under an overlay. -/
def calValue (d : List Byte) (id i : Nat) : Int := calEff id i (calUser d id i)

/-- Step 1 of R471. -/
def calOk (d : List Byte) : Bool :=
  let l := calItems d
  let keys := l.map (fun (x : CalItem) => (x.1, x.2.1))
  leAt d 0 4 == 0x4C434B44 && leAt d 4 2 == 1 && decide (leAt d 6 2 ≤ 4096) && leAt d 8 8 == 0 &&
  d.length == 16 + 8 * leAt d 6 2 && l.all (fun (x : CalItem) => calKnown x.1 x.2.1) && decide keys.Nodup

/-- Items whose sum lies outside their limits. -/
def calClamped (d : List Byte) : Nat :=
  ((calItems d).filter (fun (x : CalItem) =>
    let l := calLimits x.1 x.2.1
    decide (l.1 + x.2.2 < l.2.1) || decide (l.2.2 < l.1 + x.2.2))).length

/-- The items that act at once: voltages, trips. -/
def State.calNow (s : State) (d : List Byte) : State :=
  let s := s.setF .therm THERM.TJ_TRIP (calValue d 0x20 0).toNat
  { s with cal := { s.cal with
    volt := (List.range 8).map (fun m => (m, calValue d 0x01 m))
    hbmTrip := (List.range 16).map (fun h => (h, (calValue d 0x21 h).toNat)) } }

/-- The lanes of a port. -/
def portLanes (p : Nat) : List Nat :=
  if p < 16 then (List.range 8).map (fun i => 8 * p + i) else (List.range 4).map (fun i => 128 + 4 * (p - 16) + i)

/-- Lane presets of a port take their effective values at its reset. -/
def State.calPort (s : State) (p : Nat) : State :=
  let new := (portLanes p).flatMap (fun l => [0x10, 0x11, 0x12, 0x13, 0x14].map (fun id =>
    ((id, l), calValue s.boot.overlay id l)))
  { s with cal := { s.cal with taps := s.cal.taps.filter (fun e => !(portLanes p).contains e.1.2) ++ new } }

/-- The trip temperature of HBM stack `h`. -/
def State.hbmTrip (s : State) (h : Nat) : Nat := Tbl.get 100 s.cal.hbmTrip h

/-- Set a bit of PWR_ERR with its POWER_EVENT record (R490, R491). -/
def State.pwrErr (s : State) (F : Field) : State :=
  let v := (s.rd .pwrErr).toNat % 32 ||| 2 ^ F.lo
  s.sticky .pwrErr F 0x0052 .done 0xFFFF 0xFF (v + s.f .pwrInput PWR_INPUT.AVG_W * 65536)

/-- The on-chip memories are cleared (R198, R465). -/
def State.clearChip (s : State) : State :=
  { s with mem := s.mem.filter (fun c => decide (c.1 < s.fuses.hbmSize))
           poison := s.poison.filter (fun u => decide (u < s.fuses.hbmSize)) }

/-- Firmware opens its device-level channels: the service halyard with AUTOACK, its own request halyards and the downhauls of their
replies (R413; DEDUCED, log entry 88). -/
def State.fwChannels (s : State) : State :=
  let s := [0, 60, 61, 62, 63, 124, 125, 126, 127].foldl (fun (s : State) (c : Nat) => s.setF (.halCfg 8 c) HAL_CFG.VALID 1) s
  s.setF (.halCfg 8 0) HAL_CFG.AUTOACK 1

/-- Phase 3: crowsnest starts, the on-chip memories are cleared, the factory table is verified and measured, the stored overlay is
applied. -/
def State.bootFirmware (s : State) : State :=
  let s := s.clearChip
  let s := { s with boot := { s.boot with table := Config.tableOk Config.factoryTable } }
  let s := s.setF .cnStat CN_STAT.CORES_UP 15
  let s := s.setF .cnStat CN_STAT.RECOVERY (if s.f .bootStat BOOT_STAT.SLOT = 2 then 1 else 0)
  let s := s.fwChannels
  let s := { s with cns := { wdAt := s.now } }
  let s := s.measure 0 0xFF 0 0 (Config.sha512 Config.factoryTable)
  let o := s.boot.overlay
  let bad := o != [] && !calOk o
  let d := if bad then [] else o
  let s := if d = [] then s else s.measure 1 0xFF 0 0 (Config.sha512 d)
  let s := if bad then (s.pwrErr PWR_ERR.OVERLAY).setF .fltStat FLT_STAT.ALERT 1 else s
  let s := (s.calNow d).setF .pwrCtrl PWR_CTRL.CAP (calValue d 0x30 0).toNat
  (List.range 18).foldl State.calPort s

/-- Two temperatures lie within 15 °C of each other. -/
def near15 (a b : Nat) : Bool := decide (a ≤ b + 15) && decide (b ≤ a + 15)

/-- What the cached values of a training hold for the stacks as they are: serial numbers and temperatures by stack, the lane
repairs in force (R390). The signature is over these (R446, log entry 45). -/
def State.trainCache (s : State) : TrainCache :=
  let temps := s.fuses.stacks.map (fun h => Tbl.get 0 s.hbm.temps h)
  { sig := Config.ecdsaSign s.sec.alias_ (s.fuses.stackSerials.flatten ++ temps.flatMap (leBytes 1) ++
      s.hbm.repairs.flatMap (fun e => leBytes 1 e.1 ++ e.2.flatMap (leBytes 2)))
    serials := s.fuses.stackSerials, temps := temps, repairs := s.hbm.repairs }

/-- The cached values fit: the serial numbers match and every stack lies within 15 °C of the temperature recorded (R390). -/
def State.cacheFits (s : State) (c : TrainCache) : Bool :=
  c.serials == s.fuses.stackSerials && (s.fuses.stacks.zip c.temps).all (fun e => near15 (Tbl.get 0 s.hbm.temps e.1) e.2)

/-- Phase 4: training of every fitted stack, from the cached values where their signature is valid (`cached`) and they fit, else in
full, which finds the lane repairs; they are applied either way (R390, R391). None in recovery mode. -/
def State.bootTrain (s : State) (cached : Bool) (fails : Nat) : State :=
  if s.bit .cnStat CN_STAT.RECOVERY then s
  else
    let use := s.boot.cache.filter (fun c => cached && s.cacheFits c)
    let src := if use.isSome then 2 else 1
    let found := s.fuses.stacks.map (fun h => (h, Config.laneRepairs h s.free))
    let repairs := (use.map (·.repairs)).getD found
    let s := { s with free := s.free + 1, hbm := { s.hbm with repairs := repairs } }
    let s := s.fuses.stacks.foldl (fun (s : State) (h : Nat) =>
      if bitN fails h then s.hbmErr h HBM_ERR.TRAIN_FAIL
      else (s.setF (.hbmStat h) HBM_STAT.TRAINED 1).setF (.hbmStat h) HBM_STAT.TRAIN_SRC src) s
    s.setF .bootStat BOOT_STAT.TRAIN src

/-- The work of phase 5: HBM_MAP at its reset value, the default key of slot 0 installed, the patrol scrub at its first sector (R387,
R465). -/
def State.hbmInit (s : State) : State :=
  let s := (s.setF .hbmMap HBM_MAP.GRAN 2).setF .hbmMap HBM_MAP.SPLITG 48
  let s := s.remap (2, 48)
  { s with sec := { s.sec with hbm := [(64, s.sec.key0)] }, hbm := { s.hbm with patrol := [] } }

/-- Phase 5 ends: mailbox-ready. After a full training its values are written to boot flash (R466). -/
def State.bootReady (s : State) : State :=
  let s := s.hbmInit
  let s := s.setF .bootStat BOOT_STAT.READY_MS (min ((s.now - s.boot.t0) / 1000000) 65535)
  let s := (s.drawEpochs).setF .bootStat BOOT_STAT.READY 1
  let full := s.f .bootStat BOOT_STAT.TRAIN == 1 && s.hbmStatus == .done
  { s with boot := { s.boot with cache := if full then some s.trainCache else s.boot.cache } }

/-- The boot's phase ends and the next begins. `cached`: the signature of the cached training values is valid; `fails`: stacks whose
training fails. -/
def State.bootAdvance (s : State) (cached : Bool) (fails : Nat) : State :=
  let p := s.f .bootStat BOOT_STAT.PHASE
  let go (s : State) : State := s.setF .bootStat BOOT_STAT.PHASE (p + 1)
  if !s.mod.rails || s.mod.rstLow || s.mod.pgLow then s
  else match p with
    | 1 => go s
    | 2 => go s.bootRom
    | 3 => go s.bootFirmware
    | 4 => go (s.bootTrain cached fails)
    | 5 => go s.bootReady
    | _ => s

/-! ### Port resets (R463, R464) -/

/-- A port enters reset: its links go down, its connections enter LOST with cause LINK, and PORT_CFG.MODE takes effect. -/
def State.portDown (s : State) (p : Nat) : State :=
  let s := (List.range 4).foldl (fun (s : State) (b : Nat) => s.linkDown p b) s
  let s := { s with net := { s.net with mode := Tbl.set s.net.mode p (s.f (.portCfg p) PORT_CFG.MODE)
                                        pauses := s.net.pauses.filter (fun e => e.1.1 != p) } }
  s.calPort p

/-- Bits of RST_STAT are cleared when a reset is complete. -/
def State.rstClear (s : State) (F : Field) (i : Nat) : State :=
  if bitN (s.f .rstStat F) i then s.setF .rstStat F (s.f .rstStat F - 2 ^ i) else s

end Sys2Proof.Machine
end

