-- ==== Sys2Proof/Machine/PwrOps.lean ====
section
/-! DEFINITION. Power states, gears and temperature (18_boot_power_calibration.md R472 to R476, 14_hbm.md R384). -/

namespace Sys2Proof.Machine

/-! ### Cold reset and loss of power (R462, R505 to R507, R516) -/

/-- A cold reset: PWR_GOOD is high. The I3C target has lost its dynamic address and its endpoint ID (log entry 47). -/
def State.coldReset (s : State) : State :=
  let n := s.deviceReset 0
  { n with mod := { n.mod with pgLow := false, upAt := none, dyn := none, eid := 0, answer := [] } }

/-- The regulators turn off: the device is unpowered, and what it held is lost as at a cold reset. -/
def State.powerOff (s : State) : State :=
  let n := if s.mod.rails then s.coldReset else s
  { n with mod := { n.mod with rails := false, upAt := none, pgLow := s.mod.pgLow } }

/-! ### Power states (R472, R473) -/

/-- Store the power state of a mast. -/
def State.setPower (s : State) (m st : Nat) : State :=
  s.wr .pwrStat (BitVec.ofNat 64 (setBits (s.rd .pwrStat).toNat (2 * m + 5) (2 * m + 4) st))

/-- Every mast is in SLEEP. -/
def State.allAsleep (s : State) : Bool := (List.range 8).all (fun m => s.mastPower m == 2)

/-- The state a mast is to move to. -/
def State.moveOf (s : State) (m : Nat) : Option Nat := (s.pwr.moves.find? (fun e => e.1 == m)).map (·.2)

/-- A mast's move is over. -/
def State.endMove (s : State) (m : Nat) : State :=
  { s with pwr := { s.pwr with moves := s.pwr.moves.filter (fun e => e.1 != m) } }

/-- POWER_STATE commands whose masts have all arrived complete. -/
def State.powerPoll (s : State) : State :=
  (s.mbxUnderWay 0x71).foldl (fun (s : State) (e : Nat × MbxCmd) =>
    if (maskMasts (e.2.p 0x11 1)).any (fun m => (s.moveOf m).isSome) then s else s.mbxEnd e.1 e.2.seq .done) s

/-- CLEAN_INV of a whole slice whose write-backs, and whatever its queue holds, have been performed. -/
def State.scFlush (s : State) (h : Nat) : State :=
  let s := s.scClean h 0 true (fun _ => true)
  let x := s.slice h
  ((s.incWrap (.hbmLines h) HBM_LINES.ALL x.miss.length).setSlice h { x with miss := [], fills := [] }).setF (.scOp h) SC_OP.BUSY 0

/-- The last mast has entered SLEEP: slices are cleaned, every stack enters self-refresh. -/
def State.selfRefresh (s : State) : State :=
  s.fuses.stacks.foldl (fun (s : State) (h : Nat) => (s.scFlush h).setF (.hbmStat h) HBM_STAT.SELFREF 1) s

/-- A mast enters SLEEP: never under a fatal device error before the dump is written, nor before an abort has ended
(R476, R487). -/
def State.sleepEntry (s : State) (m : Nat) : State :=
  if s.moveOf m ≠ some 2 ∨ s.bit .abtStat ABT_STAT.ACTIVE ∨ (s.bit .fltStat FLT_STAT.DEVICE_FATAL ∧ !s.dumpOver) then s
  else
    let was := s.allAsleep
    let s := ((s.mastLost m).setPower m 2).endMove m
    (if s.allAsleep && !was then s.selfRefresh else s).powerPoll

/-- A mast returns from SLEEP: HBM leaves self-refresh with the first, the mast is cleared. -/
def State.sleepReturn (s : State) (m : Nat) : State :=
  match s.moveOf m with
  | some t =>
    if t = 2 ∨ s.mastPower m ≠ 2 then s
    else
      let s := s.fuses.stacks.foldl (fun (s : State) (h : Nat) => s.setF (.hbmStat h) HBM_STAT.SELFREF 0) s
      let s := (s.mastClear m).setPower m 0
      if t = 0 then (s.endMove m).powerPoll else s
  | none => s

/-- A mast completes its entry to IDLE or its return from it: every state is kept. -/
def State.idleMove (s : State) (m : Nat) : State :=
  match s.moveOf m with
  | some t => if t < 2 ∧ s.mastPower m < 2 then ((s.setPower m t).endMove m).powerPoll else s
  | none => s

/-! ### Sensors (R476) -/

/-- The sensors with their readings and trips: THERM.SOURCE, °C, trip. A mast sensor that has not reported reads 0. -/
def State.sensors (s : State) : List (Nat × Nat × Nat) :=
  (List.range 8).map (fun m => (m, Tbl.get 0 s.pwr.temps m, s.f .therm THERM.TJ_TRIP)) ++
  s.fuses.stacks.map (fun h => (8 + h, s.f (.hbmTemp h) HBM_TEMP.TEMP, s.hbmTrip h))

/-- The hottest reading, the lowest source among equals. -/
def State.hottest (s : State) : Nat × Nat :=
  s.sensors.foldl (fun (x : Nat × Nat) (e : Nat × Nat × Nat) => if x.2 < e.2.1 then (e.1, e.2.1) else x) (0, 0)

/-- THERM shows the hottest reading. -/
def State.thermShow (s : State) : State :=
  let h := s.hottest
  (s.setF .therm THERM.HOTTEST h.2).setF .therm THERM.SOURCE h.1

/-- New readings of mast sensors. -/
def State.readTemps (s : State) (ts : List (Fin 8 × Byte)) : State :=
  ({ s with pwr := { s.pwr with
    temps := ts.foldl (fun (l : List (Nat × Nat)) (e : Fin 8 × Byte) => Tbl.set l e.1.val e.2.toNat) s.pwr.temps } }).thermShow

/-- Some sensor has reached its trip plus `d`. -/
def State.tripped (s : State) (d : Nat) : Bool := s.sensors.any (fun (e : Nat × Nat × Nat) => decide (e.2.2 + d ≤ e.2.1))

/-- Every sensor has fallen 5 °C below its trip. -/
def State.cooled (s : State) : Bool := s.sensors.all (fun (e : Nat × Nat × Nat) => decide (e.2.1 + 5 ≤ e.2.2))

/-- Every sensor has fallen below its trip minus 5 °C: a thermal shutdown may be left. -/
def State.cold (s : State) : Bool := s.sensors.all (fun (e : Nat × Nat × Nat) => decide (e.2.1 + 5 < e.2.2))

/-- Detail of a thermal record (R490). -/
def State.thermDetail (s : State) : Nat := s.f .therm THERM.HOTTEST + s.f .therm THERM.SOURCE * 256

/-- A gear opportunity is at hand and not used: a device edge, or while RUN is 0 a whole millisecond, has fallen in this
reference period (R474). -/
def State.gearOpp (s : State) : Bool := s.tick.opp == some s.refs && s.pwr.lastOpp != some s.refs

/-- A trip (R476 step 1): the clocks stop, every running section overruns with cause THERMAL. -/
def State.trip (s : State) : State :=
  if s.bit .pwrStat PWR_STAT.STOPPED || !s.tripped 0 then s
  else
    let s := s.setF .pwrStat PWR_STAT.STOPPED 1
    let s := { s with pwr := { s.pwr with tripAt := some s.now, stopAt := s.now, lastOpp := some s.refs } }
    let s := s.pwrErr PWR_ERR.THERMAL_TRIP
    let s := s.logEvent 0x0050 .done 0xFFFF 0xFF s.thermDetail
    let running := s.liveSections.filter (fun x => s.secState x == some secRunning)
    running.foldl (fun (s : State) (sec : Nat) =>
      match (s.stepOf sec).opens.getLast? with
      | some o => (s.updOpen sec { o with ovr := some (o.ovr.getD 2) }).overrun sec o.k 2 o.missing
      | none => s.overrun sec (s.stepOf sec).k 2 []) s

/-- Change the gear: the code of the new one. -/
def State.setGear (s : State) (g : Nat) : State :=
  if s.f .pwrStat PWR_STAT.GEAR = g then s else (s.setF .pwrStat PWR_STAT.GEAR g).incSat .pwrGearcnt PWR_GEARCNT.CNT

/-- The clocks resume at 3.2 GHz at the first gear opportunity after every sensor has cooled (R476 step 2). -/
def State.thermResume (s : State) : State :=
  if !s.bit .pwrStat PWR_STAT.STOPPED || !s.cooled || !s.gearOpp then s
  else
    let s := { s with pwr := { s.pwr with lastOpp := some s.refs, low := none } }
    (s.setF .pwrStat PWR_STAT.STOPPED 0).setGear 2

/-- Thermal shutdown (R476 step 3, R487); a trip that has not been taken yet comes first. -/
def State.thermShutdown (s : State) : State :=
  let long := s.bit .pwrStat PWR_STAT.STOPPED && s.passed s.pwr.stopAt 100000000
  if s.pwr.shut || !(s.tripped 5 || long) then s
  else
    let s := s.trip
    let s := { s with pwr := { s.pwr with shut := true } }
    let s := s.pwrErr PWR_ERR.THERMAL_SHUTDOWN
    let s := s.logEvent 0x0051 .done 0xFFFF 0xFF s.thermDetail
    (s.fatal 5 8 0xFFFF).abortBegin (s.abortScope 0 0) false none

/-! ### Input power (R475) -/

/-- Mean of the samples of the last millisecond; of those taken so far before there are 1,000. -/
def avgOf (l : List Nat) : Nat := if l = [] then 0 else l.foldl (· + ·) 0 / l.length

/-- A sample of the input: mV and units of 0.1 A. -/
def State.sample (s : State) (mv da : Nat) : State :=
  let w := min (mv * da / 10000) 65535
  let l := (w :: s.pwr.samples).take 1000
  let avg := avgOf l
  let cap := s.f .pwrCtrl PWR_CTRL.CAP
  let since (c : Bool) (o : Option Nat) : Option Nat := if c then some (o.getD s.now) else none
  let s := s.wr .pwrInput (BitVec.ofNat 64 (avg + w * 2 ^ 16 + mv * 2 ^ 32 + da * 2 ^ 48))
  let s := { s with pwr := { s.pwr with
    samples := l
    low := since (decide (10 * avg < 9 * cap)) s.pwr.low
    high := since (decide (cap < avg) && s.f .pwrStat PWR_STAT.GEAR == 2) s.pwr.high } }
  if mv < 50000 ∨ 60000 < mv then s.pwrErr PWR_ERR.VIN_RANGE else s

/-- What the power controller does at a gear opportunity. -/
def State.gearStep (s : State) : State :=
  let ms10 (o : Option Nat) : Bool := match o with
    | some t => s.passed t 10000000
    | none => false
  if !s.gearOpp || s.bit .pwrStat PWR_STAT.STOPPED then s
  else
    let g := s.f .pwrStat PWR_STAT.GEAR
    let avg := s.f .pwrInput PWR_INPUT.AVG_W
    let cap := s.f .pwrCtrl PWR_CTRL.CAP
    let calm : Bool := match s.pwr.tripAt with
      | some t => s.passed t 100000000
      | none => true
    let miss := decide (cap < avg) && g == 2 && ms10 s.pwr.high
    let s := { s with pwr := { s.pwr with lastOpp := some s.refs } }
    let s := if cap < avg ∧ g < 2 then s.setGear (g + 1)
      else if 10 * avg < 9 * cap ∧ ms10 s.pwr.low ∧ s.f .pwrStat PWR_STAT.FUSED < g ∧ calm then s.setGear (g - 1) else s
    if miss then s.pwrErr PWR_ERR.CAP_MISS else s

end Sys2Proof.Machine
end

