-- ==== Sys2Proof/Machine/Power.lean ====
section
/-! DEFINITION. The commands of reset, boot, firmware, calibration and power (18_boot_power_calibration.md R462 to R476) and
HBM_TEMP_READ (14_hbm.md R384). -/

namespace Sys2Proof.Machine

/-! ### Firmware (R468) -/

/-- FW_STAGE: DATA_IN goes to the inactive slot. -/
def execFwStage (i : Fin 64) (s : State) : Host.Outcome State Fault Refusal :=
  .next <| s.mbxRun i 0x20 (fun c d s =>
    let off := c.p 0x10 4
    let k := 1 - s.boot.active
    if fwSlotSize < off + d.length then (.outOfBounds, [], [], s)
    else
      let b := { s.boot with flash := memPuts s.boot.flash (fwSlotAt k + off) d, lens := Tbl.set s.boot.lens k fwSlotSize }
      (.done, [], [], { s with boot := b }))

/-- FW_ACTIVATE: the inactive slot is verified, marked active, and raises the rollback floor; in recovery mode a warm reset
follows its completion. -/
def execFwActivate (i : Fin 64) (s : State) : Host.Outcome State Fault Refusal :=
  .next <| s.mbxRun i 0x21 (fun c _ s =>
    let n := c.p 0x10 4
    let k := 1 - s.boot.active
    let d := memGets s.boot.flash (fwSlotAt k) (min n fwSlotSize)
    if fwSlotSize < n ∨ !s.fwValid d then (.denied, [], [], s)
    else
      let v := Config.fwVer d
      let b := { s.boot with
        active := k, floor := max s.boot.floor v, lens := Tbl.set s.boot.lens k n
        warmFor := if s.bit .cnStat CN_STAT.RECOVERY then some (i.val, c.seq, true) else s.boot.warmFor }
      (.done, leBytes 2 v, [], { s with boot := b }))

/-! ### Calibration (R469 to R471) -/

/-- Every calibrated item with its effective value. -/
def calAll (d : List Byte) : List CalItem :=
  let of (id n : Nat) : List CalItem := (List.range n).map (fun i => (id, i, calValue d id i))
  of 0x01 8 ++ [0x10, 0x11, 0x12, 0x13, 0x14].flatMap (fun id => of id 136) ++ of 0x20 1 ++ of 0x21 16 ++ of 0x30 1

/-- CAL_READ: the factory table, the stored overlay, or the effective values. -/
def execCalRead (i : Fin 64) (s : State) : Host.Outcome State Fault Refusal :=
  .next <| s.mbxRun i 0x78 (fun c _ s =>
    let o := s.boot.overlay
    let t := match c.p 0x10 1 with
      | 0 => Config.factoryTable
      | 1 => o
      | _ => Config.effTable (calAll o)
    let off := c.p 0x14 4
    let n := c.p 0x18 4
    if t.length < off + n then (.outOfBounds, [], [], s) else (.done, [], (t.drop off).take n, s))

/-- CAL_APPLY: the checks of R471, then the overlay is stored, measured and applied. -/
def execCalApply (i : Fin 64) (s : State) : Host.Outcome State Fault Refusal :=
  .next <| s.mbxRun i 0x79 (fun _ d s =>
    let locked := (calItems d).any (fun (x : CalItem) => x.1 == 1 && s.mastLocked x.2.1)
    if !calOk d then (.badDescriptor, [], [], s)
    else if locked then (.busy, [], [], s)
    else
      let s := { s with boot := { s.boot with overlay := if calItems d = [] then [] else d } }
      let s := (s.measure 1 0xFF 0 0 (Config.sha512 d)).calNow d
      (.done, leBytes 4 (calItems d).length ++ leBytes 4 (calClamped d), [], s))

/-! ### Resets (R462 to R464) -/

/-- A port that a section uses: a section in any state has a remote-map or proxy entry for a device whose connection is
bound to the port (R427; DEDUCED, log entry 46). -/
def State.portUsed (s : State) (p : Nat) : Bool :=
  let held := (List.range 8).filterMap (fun k =>
    if s.bit (.slSec k 0) SL_SEC.VALID then some (s.f (.slSec k 0) SL_SEC.SECTION) else none)
  let devs := held.flatMap (fun x => (s.sect x).writes.filterMap (fun r => match r with
    | .rem k 0 => some (s.f (.rem k 0) REM.DEV)
    | .pxy k => some (s.f (.pxy k) PXY.DEV)
    | _ => none))
  s.cnList.any (fun c => s.cn c CN.STATE == cnOpen && s.cn c CN.HOST == 0 && s.cn c CN.PORT == p &&
    devs.contains (s.cn c CN.PEER))

/-- RESET: warm 100 µs after its completion has left the port; of a mast or a port under way until the reset has happened. -/
def execReset (i : Fin 64) (s : State) : Host.Outcome State Fault Refusal :=
  .next <| s.mbxBegin i 0x90 (fun c s =>
    let k := c.p 0x11 1
    match c.p 0x10 1 with
    | 2 => (some .done, { s with boot := { s.boot with warmFor := some (i.val, c.seq, false) } })
    | 3 =>
      if s.mastLocked k then (some .busy, s)
      else (none, s.setF .rstStat RST_STAT.MAST (s.f .rstStat RST_STAT.MAST ||| 2 ^ k))
    | _ =>
      if s.portUsed k then (some .busy, s)
      else (none, s.setF .rstStat RST_STAT.PORT (s.f .rstStat RST_STAT.PORT ||| 2 ^ k)))

/-- The RESET commands of a kind and index complete. -/
def State.resetDone (s : State) (kind k : Nat) : State :=
  (s.mbxUnderWay 0x90).foldl (fun (s : State) (e : Nat × MbxCmd) =>
    if e.2.p 0x10 1 = kind ∧ e.2.p 0x11 1 = k then s.mbxEnd e.1 e.2.seq .done else s) s

/-- COLD_RESET: input power or PWR_GOOD rises. -/
def execColdReset (s : State) : Host.Outcome State Fault Refusal :=
  .next (if s.mod.rails then s.coldReset else s)

/-- WARM_RESET: a warm reset that was ordered begins. -/
def execWarmReset (s : State) : Host.Outcome State Fault Refusal :=
  .next (match s.boot.warmAt with
    | some (t, rec_) => if t ≤ s.now then s.deviceReset 2 rec_ else s
    | none => s)

/-- MAST_RESET: a mast reset that was ordered happens. -/
def execMastReset (m : Fin 8) (s : State) : Host.Outcome State Fault Refusal :=
  .next (if bitN (s.f .rstStat RST_STAT.MAST) m then ((s.mastClear m).rstClear RST_STAT.MAST m).resetDone 3 m else s)

/-- PORT_RESET: a port reset that was ordered happens. -/
def execPortReset (p : Fin 18) (s : State) : Host.Outcome State Fault Refusal :=
  .next (if bitN (s.f .rstStat RST_STAT.PORT) p then
    (((s.portDown p).setF (.portCfg p) PORT_CFG.RESET 0).rstClear RST_STAT.PORT p).resetDone 4 p else s)

/-- BOOT_PHASE_ADVANCE. -/
def execBootPhaseAdvance (cached : Bool) (fails : BitVec 16) (s : State) : Host.Outcome State Fault Refusal :=
  .next (s.bootAdvance cached fails.toNat)

/-! ### Power states and gears (R472 to R475) -/

/-- POWER_STATE. -/
def execPowerState (i : Fin 64) (s : State) : Host.Outcome State Fault Refusal :=
  .next <| s.mbxBegin i 0x71 (fun c s =>
    let t := c.p 0x10 1
    let ms := maskMasts (c.p 0x11 1)
    let held := t < 2 ∧ (s.bit .fltStat FLT_STAT.DEVICE_FATAL ∨ (s.pwr.shut ∧ !s.cold))
    if ms.any s.mastLocked ∨ held then (some .busy, s)
    else
      let go := ms.filter (fun m => s.mastPower m != t)
      let stay := s.pwr.moves.filter (fun (e : Nat × Nat) => !ms.contains e.1)
      let s := { s with pwr := { s.pwr with moves := stay ++ go.map (fun m => (m, t)), shut := s.pwr.shut && decide (t = 2) } }
      (if go = [] then some .done else none, s))

/-- POWER_CAP. -/
def execPowerCap (i : Fin 64) (s : State) : Host.Outcome State Fault Refusal :=
  .next <| s.mbxRun i 0x72 (fun c _ s => (.done, [], [], s.setF .pwrCtrl PWR_CTRL.CAP (c.p 0x10 2)))

/-- MAST_SLEEP_ENTRY. -/
def execMastSleepEntry (m : Fin 8) (s : State) : Host.Outcome State Fault Refusal := .next (s.sleepEntry m)

/-- MAST_SLEEP_RETURN. -/
def execMastSleepReturn (m : Fin 8) (s : State) : Host.Outcome State Fault Refusal := .next (s.sleepReturn m)

/-- MAST_IDLE_TRANSITION. -/
def execMastIdleTransition (m : Fin 8) (s : State) : Host.Outcome State Fault Refusal := .next (s.idleMove m)

/-- POWER_SAMPLE: mV and units of 0.1 A. -/
def execPowerSample (mv da : BitVec 16) (s : State) : Host.Outcome State Fault Refusal :=
  .next (s.sample mv.toNat da.toNat)

/-- GEAR_CHANGE. -/
def execGearChange (s : State) : Host.Outcome State Fault Refusal := .next s.gearStep

/-! ### Temperature (R384, R476) -/

/-- THERMAL_TRIP, with new readings of mast sensors. -/
def execThermalTrip (ts : List (Fin 8 × Byte)) (s : State) : Host.Outcome State Fault Refusal := .next (s.readTemps ts).trip

/-- THERMAL_RESUME. -/
def execThermalResume (ts : List (Fin 8 × Byte)) (s : State) : Host.Outcome State Fault Refusal :=
  .next (s.readTemps ts).thermResume

/-- THERMAL_SHUTDOWN. -/
def execThermalShutdown (ts : List (Fin 8 × Byte)) (s : State) : Host.Outcome State Fault Refusal :=
  .next (s.readTemps ts).thermShutdown

/-- HBM_TEMP_READ: every 1 ms; warning 5 °C below the trip, trip. The refresh rate changes with the next refresh. -/
def execHbmTempRead (h : Fin 16) (temp : Byte) (s : State) : Host.Outcome State Fault Refusal :=
  .next <|
  let ok := match s.hbm.tempAt.find? (fun e => e.1 == h.val) with
    | some (_, t) => s.passed t 1000000
    | none => true
  if !s.bit (.hbmStat h) HBM_STAT.FITTED || !ok then s
  else
    let t := temp.toNat
    let s := { s with hbm := { s.hbm with
      tempAt := Tbl.set s.hbm.tempAt h.val s.now, temps := Tbl.set s.hbm.temps h.val t } }
    let s := (s.setF (.hbmTemp h) HBM_TEMP.TEMP t).setF (.hbmTemp h) HBM_TEMP.PEAK (max t (s.f (.hbmTemp h) HBM_TEMP.PEAK))
    let s := s.thermShow
    if s.hbmTrip h ≤ t then s.hbmErr h HBM_ERR.THERM_TRIP
    else if s.hbmTrip h ≤ t + 5 then s.hbmErr h HBM_ERR.THERM_WARN else s

end Sys2Proof.Machine
end

