-- ==== Sys2Proof/Machine/Faults.lean ====
section
/-! DEFINITION. The commands of faults and of the crash dump (19_faults_and_dump.md R482, R486, R487, R495 to R500, 15_crowsnest_mailboxes.md
R409). -/

namespace Sys2Proof.Machine

/-- A fatal condition of rows 0 to 4 of R486 is detected: row, mast, unit. Rows 0 and 1 have mast scope. -/
def State.fatalFound (s : State) (x : Fin 5 × Fin 8 × BitVec 16) : State :=
  s.fatal x.1 (if x.1.val < 2 then x.2.1 else 8) x.2.2.toNat

/-- CRASH_DUMP_WRITE: a fatal condition that has just been found is handled first; then the next section of the dump that
is owed is written. -/
def execCrashDumpWrite (found : Option (Fin 5 × Fin 8 × BitVec 16)) (s : State) : Host.Outcome State Fault Refusal :=
  .next (match found with
    | some x => (s.fatalFound x).dumpWrite
    | none => s.dumpWrite)

/-- FATAL_MAST_RESET: once the dump is complete, or 1 s after the error (R487 step 4). -/
def execFatalMastReset (m : Fin 8) (s : State) : Host.Outcome State Fault Refusal :=
  .next (match s.flt.fatals.find? (fun e => e.2.1 == m.val) with
    | some (_, _, t) =>
      if s.dumpOver ∨ s.passed t 1000000000 then
        let s := s.mastClear m
        { s with flt := { s.flt with fatals := s.flt.fatals.filter (fun e => e.2.1 != m.val) } }
      else s
    | none => s)

/-- CE_SUMMARY: once in a second of the time base in which a corrected-error counter changed (R482). -/
def execCeSummary (s : State) : Host.Outcome State Fault Refusal :=
  .next <|
  let sec := s.tbNs / 1000000000 + 1
  if s.flt.ceCount = 0 ∨ sec = s.flt.ceSecond then s
  else
    let s := s.logEvent 0x0008 .done 0xFFFF 0xFF (s.flt.ceCount % 2 ^ 32)
    { s with flt := { s.flt with ceCount := 0, ceSecond := sec } }

/-- CRASH_FETCH: bytes of the held dump; DumpLen is 0 where none is held (R500). -/
def execCrashFetch (i : Fin 64) (s : State) : Host.Outcome State Fault Refusal :=
  .next <| s.mbxRun i 0x82 (fun c _ s =>
    let len := (s.rd .fltDumplen).toNat
    let off := c.p 0x10 8
    let n := c.p 0x18 4
    if len < off + n then (.outOfBounds, leBytes 8 len, [], s)
    else (.done, leBytes 8 len, s.bytes (s.dumpAt + off) n, s.readPass (uCn 0) [(s.dumpAt + off, n)]))

/-- CRASH_CLEAR. -/
def execCrashClear (i : Fin 64) (s : State) : Host.Outcome State Fault Refusal :=
  .next <| s.mbxRun i 0x83 (fun _ _ s => (.done, [], [], s.crashClear))

end Sys2Proof.Machine
end

