-- ==== Sys2Proof/Machine/CnOps.lean ====
section
/-! DEFINITION. Operations of crowsnest: the device ID, the tick configuration, window checks, a restart, the ABORT command
(01_organization.md R41, 11_cleats_and_step_tick.md R311, R314, R323, 15_crowsnest_mailboxes.md R395, R402, R406, R418,
17_security.md R454, 21_register_map.md R530). -/

namespace Sys2Proof.Machine

/-! ### Device ID (R41, R529, R530) -/

/-- A group is in a round: something has arrived, or ARRIVE has been sent. -/
def State.shrBusy (s : State) (g : Nat) : Bool :=
  s.bit (.shrGrp g) SHR_GRP.VALID && (s.shrStat g SHR_STAT.ARRIVED != 0 || (s.shrGrp g).localArr != 0 || (s.shrGrp g).sent)

/-- DEVICE is written. A changed ID ends the connections with other devices and the rounds of the shroud groups. -/
def State.setDevId (s : State) (v : Nat) : State :=
  let changed := s.devAssigned && s.dev != v % 2 ^ 17
  let s := (s.setF .devId DEV_ID.DEVICE v).setF .devId DEV_ID.ASSIGNED 1
  if !changed then s
  else
    let s := s.cnList.foldl (fun (s : State) (c : Nat) =>
      if s.cn c CN.HOST = 1 ∨ s.cn c CN.STATE = cnIdle then s
      else if s.cn c CN.STATE = cnLost then s.setCn c CN.CAUSE 5 else s.connLost c 5) s
    (List.range 16).foldl (fun (s : State) (g : Nat) => if s.shrBusy g then s.shrRelease g .peerLost true else s) s

/-- Some section is loaded. -/
def State.anyLoaded (s : State) : Bool := (List.range 8).any (fun i => s.bit (.slSec i 0) SL_SEC.VALID)

/-! ### Tick configuration (R311, R314, R323) -/

/-- TB_RATE is clamped at ±13,743,895. -/
def State.setRate (s : State) (v : Int) : State :=
  s.setF .tbRate TB_RATE.RATE (wrapI 32 (max (-13743895) (min 13743895 v)))

/-- RUN is written: setting it chooses the first edge (R314). -/
def State.setRun (s : State) (on : Bool) : State :=
  if s.bit .stkCtrl STK_CTRL.RUN == on then s
  else if on then
    let k := s.firstEdge
    let s := (s.setF .stkCtrl STK_CTRL.RUN 1).setF .stkStat STK_STAT.RUNNING 0
    { s with tick := { s.tick with nextK := k, expectK := k, steps := s.tick.steps.map (fun e => (e.1, { e.2 with nextEdge := k })) } }
  else s.setF .stkCtrl STK_CTRL.RUN 0

/-- TICK_OUT is driven low while PINMODE does not select it (R312). -/
def State.pinNow (s : State) : State :=
  if s.f .stkCtrl STK_CTRL.PINMODE < 2 then { s with tick := { s.tick with tickOut := none } } else s

/-- TICK_CONFIG's values. -/
def State.tickConfig (s : State) (t0 p g gr cable policy pin : Nat) : State :=
  let s := ((s.setF .stkT0 STK_T0.ALL t0).setF .stkPeriod STK_PERIOD.P p).setF .stkGuard STK_GUARD.G g
  let s := s.setF .stkGrace STK_GRACE.GR (if gr < 2 ^ 22 then gr else p / 4)
  let s := (s.setF .stkCable STK_CABLE.NS (cable / 65536)).setF .stkCable STK_CABLE.FRAC cable
  ((s.setF .stkCtrl STK_CTRL.POLICY policy).setF .stkCtrl STK_CTRL.PINMODE pin).pinNow

/-- A section takes steps or is being suspended. -/
def State.anyRuns (s : State) : Bool :=
  s.liveSections.any (fun x => s.secState x == some secRunning || s.secState x == some secSuspending)

/-! ### Windows of the host (R454) -/

/-- Bytes two ranges share. -/
def sharedBytes (a n b m : Nat) : Nat := min (a + n) (b + m) - max a b

/-- WINDOW_OPEN is refused a range with an owner key's data, or with the memory of a mast that holds a section. -/
def State.winDenied (s : State) (a n : Nat) : Bool :=
  let owned (k : Nat) : Bool := s.sec.hbm.any (fun e => e.1 == k)
  let inHbm := sharedBytes a n 0 s.fuses.hbmSize
  let keyed := s.hbm.kr.foldl (fun (t : Nat) (r : Nat × Nat × Nat) => t + sharedBytes a n r.2.1 r.2.2) 0
  s.hbm.kr.any (fun (r : Nat × Nat × Nat) => owned r.1 && decide (0 < sharedBytes a n r.2.1 r.2.2)) ||
  (owned 0 && decide (keyed < inHbm)) ||
  (List.range 8).any (fun m => s.mastLocked m &&
    (decide (0 < sharedBytes a n (actBase m) 0x04000000) || decide (0 < sharedBytes a n (psumBase (16 * m)) 0x01000000)))

/-! ### Restart (R395, R402, R467, R499) -/

/-- A crowsnest restart: its SRAM is cleared and its firmware loaded again, every mailbox takes a new epoch. What the
loader has under way goes on without a completion. Before mailbox-ready the third restart of a boot takes the boot back to
the ROM, which moves to its next choice; no core runs firmware until it has (R420). -/
def State.cnRestart (s : State) : State :=
  let held := s.flt.dumpSram && s.f .fltStat FLT_STAT.DUMP == 2
  let s := s.dumpRestart.wipe sramBase 0x01000000
  let s := if held then (s.setF .fltStat FLT_STAT.DUMP 0).wr .fltDumplen 0 else s
  let lose (x : Section) : Section := { x with job := match x.job with
    | .none => .none
    | .start _ q k r l => .start 64 q k r l
    | .suspend _ q a b => .suspend 64 q a b
    | .load _ q p e => .load 64 q p e
    | .restore _ q k => .restore 64 q k }
  let s := { s with
    mbx := (List.range 64).map (fun (i : Nat) => (i, { epoch := ((s.mailbox i).epoch + 1) % 256 }))
    secs := s.secs.map (fun (e : Nat × Section) => (e.1, lose e.2))
    loader := { s.loader with switches := s.loader.switches.map (fun (j : SwitchJob) => { j with mbx := 64 }) }
    net := { s.net with reads := [], cnFrames := [] }
    cns := { wdAt := s.now } }
  let s := s.incSat .cnStat CN_STAT.RESTARTS
  if s.mailboxReady then s
  else if s.boot.restarts < 2 then { s with boot := { s.boot with restarts := s.boot.restarts + 1 } }
  else (({ s with boot := { s.boot with restarts := 0, skip := s.boot.skip + 1 } }).setF .bootStat BOOT_STAT.PHASE 2).setF
    .cnStat CN_STAT.CORES_UP 0

/-- Length of the watchdog period, ns. -/
def State.wdPeriod (s : State) : Nat := s.f .cnWd CN_WD.PERIOD * 1000000

/-- KICK: the watchdog period restarts. -/
def State.kick (s : State) : State := { s with cns := { wdAt := s.now } }

/-! ### ABORT (R406, R416, R418) -/

/-- The first ABORT command of a mailbox that has not started: it runs when it is accepted. -/
def Mailbox.abortHead (x : Mailbox) : Option MbxCmd := x.ring.find? (fun c => c.op == 0xF0 && c.start.isNone)

/-- A SECTION_* command names a section of a scope: 0 all sections, 1 the section `sec` (R418; DEDUCED, log entry 70). -/
def MbxCmd.names (c : MbxCmd) (scope sec : Nat) : Bool :=
  decide (0x31 ≤ c.op) && decide (c.op ≤ 0x36) &&
    (scope == 0 || c.p 0x10 1 == sec || (c.op == 0x36 && c.p 0x11 1 == sec))

/-- Queued commands of a mailbox that name a section in scope complete with ABORTED. -/
def State.cancelQueued (s : State) (i scope sec : Nat) : State :=
  let l := (s.mailbox i).ring.filter (fun c => c.start.isNone && c.names scope sec)
  (l.foldl (fun (s : State) (c : MbxCmd) => s.mbxFinish i c .aborted [] [] false) s).mbxPoll i

/-- The scope is written to ABT_CTRL with TRIGGER, and the abort begins. -/
def State.trigger (s : State) (scope sec : Nat) : State :=
  let s := ((s.setF .abtCtrl ABT_CTRL.SCOPE scope).setF .abtCtrl ABT_CTRL.SECTION sec).setF .abtCtrl ABT_CTRL.TRIGGER 1
  s.abortBegin (s.abortScope scope sec) true none

/-- The mailbox command ABORT. -/
def State.abortCmd (s : State) (i : Nat) : State :=
  match (s.mailbox i).abortHead with
  | none => s
  | some c =>
    let st := s.mbxCheck c
    let c := { c with head := some s.now, start := some s.now, running := true }
    let s := s.updCmd i c.seq (fun _ => c)
    if st ≠ .done then s.mbxDone i c st
    else
      let scope := c.p 0x10 1
      let where_ := if c.p 0x12 1 = 1 then s.mbxList else [i]
      let s := where_.foldl (fun (s : State) (j : Nat) => s.cancelQueued j scope (c.p 0x11 1)) s
      s.trigger scope (c.p 0x11 1)

/-- An ABORT frame that passes its format checks (R414, R415). -/
def State.abortRx (s : State) (f : Frame) : State :=
  let h := f.subhdr
  let k := leAt h 3 1
  let n := leAt h 8 8
  let drop (F : Field) : State := (s.incSat .abtDrop ABT_DROP.CNT).setF .abtErr F 1
  match s.sec.abort.find? (fun e => e.1 == k) with
  | none => drop ABT_ERR.NOKEY
  | some (_, key) =>
    if Config.gcmTag key (zeros 4 ++ leBytes 8 n) (h.take 24 ++ leBytes 4 f.srcDev.toNat) [] ≠ f.pay then drop ABT_ERR.BADTAG
    else if n ≤ s.f (.abtCtr k) ABT_CTR.ALL then drop ABT_ERR.REPLAY
    else
      let s := s.setF (.abtCtr k) ABT_CTR.ALL n
      let fr : AbortFrame := {
        port := f.port, sub := f.sub, addr := f.src.toNat, dst := f.srcDev.toNat, scope := leAt h 1 1
        section_ := leAt h 2 1, key := k, counter := n, time := s.now }
      s.abortBegin (s.abortScope fr.scope fr.section_) false (some fr)

end Sys2Proof.Machine
end

