-- ==== Sys2Proof/Machine/Crowsnest.lean ====
section
/-! DEFINITION. The commands of crowsnest and its mailboxes that are no other chapter's (15_crowsnest_mailboxes.md R395, R407 to
R409, R414 to R418; 21_register_map.md R530, R531). -/

namespace Sys2Proof.Machine

/-! ### Identity and telemetry -/

/-- NOP. -/
def execNop (i : Fin 64) (s : State) : Host.Outcome State Fault Refusal :=
  .next <| s.mbxRun i 0x00 (fun _ _ s => (.done, [], [], s))

/-- IDENTIFY (R409). -/
def execIdentify (i : Fin 64) (s : State) : Host.Outcome State Fault Refusal :=
  .next <| s.mbxRun i 0x01 (fun _ _ s =>
    let id := leBytes 4 (s.rd .devId).toNat ++ leBytes 2 1 ++ leBytes 2 s.boot.fwVer ++
      leBytes 1 (s.f .devIdent DEV_IDENT.ORDER) ++ leBytes 1 (s.f .devIdent DEV_IDENT.STACKS) ++
      leBytes 1 (s.f .devIdent DEV_IDENT.GEAR) ++ zeros 5
    (.done, id ++ leBytes 8 (s.rd .devSerial0).toNat ++ leBytes 8 (s.rd .devSerial1).toNat, [], s))

/-- The words of a list of registers. -/
def State.regWords (s : State) (l : List Reg) : List Byte := l.flatMap (fun r => leBytes 8 (s.regView r))

/-- GET_INFO: page 0 is the identity page (R531). -/
def execGetInfo (i : Fin 64) (s : State) : Host.Outcome State Fault Refusal :=
  .next <| s.mbxRun i 0x02 (fun _ _ s =>
    (.done, [], s.regWords [.devIdent, .devId, .devSerial0, .devSerial1, .devVersion, .devRepair], s))

/-- SET_DEVICE_ID (R41). -/
def execSetDeviceId (i : Fin 64) (s : State) : Host.Outcome State Fault Refusal :=
  .next <| s.mbxRun i 0x03 (fun c _ s =>
    if s.anyLoaded then (.busy, [], [], s) else (.done, [], [], s.setDevId (c.p 0x10 4)))

/-- DEV_ID: a write of the register. While a section is loaded it is locked: the write completes with
DENIED (R10, R530). -/
def execDevId (v : Word) (s : State) : Host.Outcome State Fault Refusal :=
  .next (if s.anyLoaded then s.regAnswer .denied 0 else (s.setDevId v.toNat).regAnswer .done 0)

/-- TELEMETRY: page 0 the power registers, page 1 the stack temperatures, whose peaks the read clears (R10, R531). -/
def execTelemetry (i : Fin 64) (s : State) : Host.Outcome State Fault Refusal :=
  .next <| s.mbxRun i 0x70 (fun c _ s =>
    if c.p 0x10 2 = 0 then (.done, [], s.regWords [.pwrCtrl, .pwrStat, .pwrInput, .therm, .pwrErr], s)
    else
      let hs := List.range 16
      let out := s.regWords (hs.map Reg.hbmTemp)
      (.done, [], out, hs.foldl (fun (s : State) (h : Nat) => s.setF (.hbmTemp h) HBM_TEMP.PEAK 0) s))

/-! ### Time -/

/-- TIME_GET. -/
def execTimeGet (i : Fin 64) (s : State) : Host.Outcome State Fault Refusal :=
  .next <| s.mbxRun i 0x40 (fun _ _ s =>
    let s := s.latchFrac
    (.done, leBytes 8 s.tbNs ++ leBytes 2 s.tbFrac ++ zeros 2 ++ leBytes 4 s.tickNum ++
      leBytes 8 (s.rd .stkStat).toNat, [], s))

/-- TIME_ADJUST. -/
def execTimeAdjust (i : Fin 64) (s : State) : Host.Outcome State Fault Refusal :=
  .next <| s.mbxRun i 0x41 (fun c _ s =>
    let step := c.p 0x18 8
    if step ≠ 0 ∧ s.bit .stkCtrl STK_CTRL.RUN then (.denied, [], [], s)
    else
      let s := s.setRate (sext 32 (c.p 0x10 4))
      (.done, [], [], if step = 0 then s else s.tbStepBy (BitVec.ofNat 64 step)))

/-- TICK_CONFIG. -/
def execTickConfig (i : Fin 64) (s : State) : Host.Outcome State Fault Refusal :=
  .next <| s.mbxRun i 0x42 (fun c _ s =>
    if s.bit .stkCtrl STK_CTRL.RUN then (.busy, [], [], s)
    else (.done, [], [], s.tickConfig (c.p 0x10 8) (c.p 0x18 4) (c.p 0x1C 4) (c.p 0x20 4) (c.p 0x24 4) (c.p 0x28 1)
      (c.p 0x29 1)))

/-- TICK_RUN. -/
def execTickRun (i : Fin 64) (s : State) : Host.Outcome State Fault Refusal :=
  .next <| s.mbxRun i 0x43 (fun c _ s =>
    if c.p 0x10 1 = 0 then
      if s.anyRuns then (.busy, [], [], s) else (.done, [], [], s.setRun false)
    else
      let s := s.setRun true
      (.done, leBytes 4 s.tick.nextK, [], s))

/-- PTP_CONFIG. -/
def execPtpConfig (i : Fin 64) (s : State) : Host.Outcome State Fault Refusal :=
  .next <| s.mbxRun i 0x44 (fun c _ s =>
    let t := Tbl.set s.net.ptp (c.p 0x10 1, c.p 0x11 1) (c.p 0x12 1, c.p 0x13 1, c.p 0x14 1)
    (.done, [], [], { s with net := { s.net with ptp := t } }))

/-! ### Windows -/

/-- WINDOW_OPEN (R355, R454). -/
def execWindowOpen (i : Fin 64) (s : State) : Host.Outcome State Fault Refusal :=
  .next <| s.mbxRun i 0x50 (fun c _ s =>
    let w := c.p 0x10 2
    let a := c.p 0x18 8
    let n := c.p 0x20 8
    let perm := c.p 0x12 1
    if s.f (.win w 0) WIN.OPEN = 1 then (.busy, [], [], s)
    else if s.fuses.region a n = none then (.outOfBounds, [], [], s)
    else if s.winDenied a n then (.denied, [], [], s)
    else
      let s := (s.setF (.win w 0) WIN.BASE a).setF (.win w 1) WIN.LENGTH n
      let s := ((s.setF (.win w 0) WIN.PW (perm % 2)).setF (.win w 0) WIN.PR (perm / 2 % 2)).setF (.win w 0) WIN.PH (perm / 4 % 2)
      let s := (s.setF (.win w 0) WIN.ANYPEER (c.p 0x13 1)).setF (.win w 1) WIN.PEER (c.p 0x14 4)
      let s := s.winOpenOp w
      (.done, leBytes 2 (w + s.f (.win w 0) WIN.EPOCH * 1024), [], s))

/-- WINDOW_CLOSE: it completes once every write that passed is accepted. -/
def execWindowClose (i : Fin 64) (s : State) : Host.Outcome State Fault Refusal :=
  .next <|
  let s := s.mbxBegin i 0x51 (fun c s => (none, s.winCloseOp (c.p 0x10 2)))
  (s.mbxUnderWay 0x51).foldl (fun (s : State) (e : Nat × MbxCmd) =>
    let w := e.2.p 0x10 2
    if e.1 = i.val ∧ !s.bit (.win w 2) WIN.BUSY then s.mbxEnd e.1 e.2.seq .done (leBytes 8 (s.f (.win w 3) WIN.ACCEPTED))
    else s) s

/-! ### Dumps of live state -/

/-- CLEAT_DUMP (R305). -/
def execCleatDump (i : Fin 64) (s : State) : Host.Outcome State Fault Refusal :=
  .next <| s.mbxRun i 0x80 (fun c _ s =>
    let a := c.p 0x10 4
    let n := c.p 0x14 4
    if 49152 < a + n then (.outOfBounds, [], [], s)
    else (.done, [], (List.range n).flatMap (fun k => s.cleatRecord (a + k)), s))

/-- QUEUE_DUMP: the records of R497 and of the register tables; only the halyards have a device level (DESIGN CHOICE: the
place of the ring pointers, log entry 43). -/
def execQueueDump (i : Fin 64) (s : State) : Host.Outcome State Fault Refusal :=
  .next <| s.mbxRun i 0x81 (fun c _ s =>
    let m := c.p 0x11 1
    match c.p 0x10 1 with
    | 0 => (.done, [], s.queueBytes m ++ s.resvBytes m ++ s.regWords ((List.range 128).map (Reg.halPtr m)), s)
    | k =>
      if m = 8 then (.badDescriptor, [], [], s)
      else if k = 1 then
        (.done, [], s.regWords ((List.range 256).flatMap (fun e => (List.range 4).map (Reg.coil m e))), s)
      else if k = 2 then (.done, [], s.heldSnap m, s)
      else (.done, [], s.regWords ((List.range 64).flatMap (fun e => (List.range 2).map (Reg.sbEntry m e))), s))

/-! ### Limits of commands (R407, R408) -/

/-- COMMAND_RESOURCE_TIMEOUT: 1 s at the head without its resources. -/
def execCommandResourceTimeout (i : Fin 64) (s : State) : Host.Outcome State Fault Refusal :=
  .next (match (s.mailbox i).head with
    | some c => match c.head with
      | some t => if !c.granted && c.start.isNone && s.passed t 1000000000 then s.mbxDone i c .busy else s
      | none => s
    | none => s)

/-- COMMAND_DATA_TIMEOUT: 1 s at the head, or since the last DATA_IN, without all its data. -/
def execCommandDataTimeout (i : Fin 64) (s : State) : Host.Outcome State Fault Refusal :=
  .next (match (s.mailbox i).head with
    | some c => match c.head with
      | some t =>
        if c.start.isNone && !(s.mailbox i).dataFull c && s.passed (max t (c.lastData.getD t)) 1000000000
        then s.mbxDone i c .timeout else s
      | none => s
    | none => s)

/-! ### Interrupts (R394) -/

/-- The sources that interrupt crowsnest. -/
structure CnIrqs where
  halyards : Bool
  transport : Bool
  abort : Bool
  events : Bool
  deriving DecidableEq, Repr

/-- The interrupt lines of crowsnest: a queued notification on a channel with IRQ, an error of the transport or a frame that waits
for firmware, a running abort, a record of the event log (R277, R394; DEDUCED, log entry 88). -/
def State.cnIrqs (s : State) : CnIrqs where
  halyards := (List.range 128).any (fun c => s.hcfg (1024 + c) HAL_CFG.IRQ == 1 && (s.chan (1024 + c)).queue != [])
  transport := s.rd .tpErr != 0 || s.net.cnFrames != []
  abort := s.bit .abtStat ABT_STAT.ACTIVE
  events := s.flt.log != []

/-! ### Watchdog and restart (R395) -/

/-- KICK. -/
def execKick (s : State) : Host.Outcome State Fault Refusal := .next s.kick

/-- CN_WD_STAGE1: the first expiry. -/
def execCnWdStage1 (s : State) : Host.Outcome State Fault Refusal :=
  .next (if s.f .cnStat CN_STAT.CORES_UP = 0 ∨ s.cns.wdFired ∨ !s.passed s.cns.wdAt s.wdPeriod then s
    else
      let s := (s.setF .cnWd CN_WD.STAGE1 1).logEvent 0x0061 .done (uCn 0) 0xFF 0
      { s with cns := { wdAt := s.now, wdFired := true, nmi := true } })

/-- CN_RESTART: a second expiry, or an uncorrectable error in crowsnest SRAM. -/
def execCnRestart (sram : Bool) (s : State) : Host.Outcome State Fault Refusal :=
  .next <|
  let dog := s.cns.wdFired && s.passed s.cns.wdAt s.wdPeriod
  if s.f .cnStat CN_STAT.CORES_UP = 0 ∨ !(sram || dog) then s
  else s.cnRestart.logEvent 0x0060 .done (uCn 0) 0xFF ((if dog then 1 else 0) + (if sram then 2 else 0))

/-! ### Abort (R414 to R418) -/

/-- ABORT, the mailbox command. -/
def execAbort (i : Fin 64) (s : State) : Host.Outcome State Fault Refusal := .next (s.abortCmd i)

/-- An ABORT frame at a port (R366 steps 1 to 3, R414, R415). -/
def execAbortFrame (f : Frame) (s : State) : Host.Outcome State Fault Refusal :=
  .next <|
  let s := s.fecCount f
  (match s.portRefuses f with
  | some F => s.incSat (.portDrop f.port f.sub) F
  | none => if frameBad f tAbort || !bitN f.verFlags.toNat 0 || f.pay.length != 16 || leAt f.subhdr 0 1 != 0 ||
      decide (1 < leAt f.subhdr 1 1) then s.tpDrop TP_DROP.UNKNOWN
    else s.abortRx f)

/-- TRIGGER is written in ABT_CTRL, with the scope that stands there. -/
def execTrigger (s : State) : Host.Outcome State Fault Refusal :=
  .next (s.trigger (s.f .abtCtrl ABT_CTRL.SCOPE) (s.f .abtCtrl ABT_CTRL.SECTION))

/-- The abort waits for quiet: it is stopping or draining. -/
def State.abortWaits (s : State) : Bool := s.bit .abtStat ABT_STAT.ACTIVE && decide (s.f .abtStat ABT_STAT.PHASE ≤ 2)

/-- ABORT_QUIET: every mast in scope is quiet; cleanup begins at once. -/
def execAbortQuiet (s : State) : Host.Outcome State Fault Refusal :=
  .next (if s.abortWaits && s.abortQuiet then s.setF .abtStat ABT_STAT.PHASE 4 else s)

/-- ABORT_FORCE: 80 µs after acceptance, where it is not quiet, the masts are cleared by force; cleanup follows. -/
def execAbortForce (s : State) : Host.Outcome State Fault Refusal :=
  .next (if s.abortWaits && !s.abortQuiet && s.passed s.abt.start 80000 then s.abortForced else s)

end Sys2Proof.Machine
end

