-- ==== Sys2Proof/Machine/SecurityOps.lean ====
section
/-! DEFINITION. Operations of the security engine: certificates, the report, sessions, key import and erasure
(17_security.md R445 to R461). -/

namespace Sys2Proof.Machine

/-! ### Identity and report (R448, R450) -/

/-- Section entry `i` of the report (R450). -/
def State.reportSection (s : State) (i : Nat) : List Byte :=
  if s.bit (.slSec i 0) SL_SEC.VALID then
    let sec := s.f (.slSec i 0) SL_SEC.SECTION
    let h := (s.sect sec).hdr
    leBytes 1 sec ++ leBytes 1 (s.f (.slSec i 0) SL_SEC.STATE) ++ leBytes 1 (s.f (.slSec i 0) SL_SEC.MASTS) ++
      leBytes 1 (leAt h 6 1 % 4) ++ leBytes 4 (s.f (.slSec i 0) SL_SEC.MEASURE) ++ fit 64 (imgMeasure h)
  else 0xFF#8 :: zeros 71

/-- Whether a slot of a list of keys holds one. -/
def hasKey (l : List (Nat × List Byte)) (k : Nat) : Bool := l.any (fun (e : Nat × List Byte) => e.1 == k)

/-- Flags of the report. -/
def State.reportFlags (s : State) : Nat :=
  s.f .secStat SEC_STAT.DEBUG + (if s.bit .secStat SEC_STAT.OWNER_BOUND then 4 else 0) +
  (if s.bit .cnStat CN_STAT.RECOVERY then 8 else 0) + (if s.sec.trunc then 16 else 0)

/-- The OwnerId bound, zero when unbound (R451). -/
def State.ownerId (s : State) : List Byte :=
  if s.bit .secStat SEC_STAT.OWNER_BOUND then fit 64 (Config.sha512 s.sec.ownerPub) else zeros 64

/-- Bytes 0x000 to 0x41F of the report (R450). -/
def State.reportBody (s : State) (nonce : List Byte) : List Byte :=
  leBytes 4 0x52414B44 ++ leBytes 2 1 ++ leBytes 2 s.reportFlags ++ leBytes 4 (s.rd .devId).toNat ++
  leBytes 2 s.boot.fwVer ++ leBytes 2 1 ++ fit 16 s.fuses.serial ++ fit 64 nonce ++ leBytes 8 s.tbNs ++
  leBytes 4 s.tickNum ++ leBytes 4 s.sec.log.length ++ s.ownerId ++ fit 64 s.sec.bootMR ++ fit 64 s.sec.sectionMR ++
  fit 133 (Config.p521Pub s.sec.importKey) ++ zeros 3 ++ leBytes 8 (maskOf 64 (hasKey s.sec.hbm)) ++
  leBytes 1 (maskOf 4 (hasKey s.sec.image)) ++ leBytes 1 (maskOf 4 (hasKey s.sec.abort)) ++
  leBytes 1 (if hasKey s.sec.link 255 then 1 else 0) ++ zeros 5 ++ leBytes 16 (maskOf 72 (hasKey s.sec.link)) ++
  (List.range 8).flatMap s.reportSection ++ zeros 8

/-- The report with its Alias signature, and the log (R450). -/
def State.attReport (s : State) (nonce : List Byte) : List Byte :=
  let b := s.reportBody nonce
  b ++ fit 132 (Config.ecdsaSign s.sec.alias_ b) ++ s.sec.log.flatten

/-! ### Sessions (R456) -/

/-- The sessions that stay when another is opened: of sixteen the oldest unbound one goes. None: every one is bound. -/
def State.sessionRoom (s : State) : Option (List Session) :=
  let l := s.sec.sessions
  if l.length < 16 then some l
  else match l.find? (fun x => x.conn.isNone) with
    | some x => some (l.erase x)
    | none => none

/-- SESSION_OPEN with a host key: status, result, output. -/
def State.sessionOpen (s : State) (host : List Byte) : Status × List Byte × List Byte × State :=
  if host.length ≠ 133 ∨ !Config.p521Ok host then (.denied, [], [], s)
  else match s.sessionRoom with
  | none => (.busy, [], [], s)
  | some l =>
    let priv := p521Key (Config.drbg s.free 80)
    let pub := fit 133 (Config.p521Pub priv)
    let id := 1 + Config.freeNat (s.free + 1) % (2 ^ 32 - 1)
    let z := Config.ecdh priv host
    let t := Config.sha512 (host ++ pub ++ leBytes 4 id)
    let x : Session := { id := id, h2d := Config.hkdf z t (ascii "BRECO host h2d") 32,
                         d2h := Config.hkdf z t (ascii "BRECO host d2h") 32 }
    let out := pub ++ fit 132 (Config.ecdsaSign s.sec.alias_ t)
    let s := { s with free := s.free + 2, sec := { s.sec with sessions := l ++ [x] } }
    (.done, leBytes 4 id, out, s.setF .secStat SEC_STAT.SESSIONS (l.length + 1))

/-! ### Refusals (R461) -/

/-- A blob or token is refused: counted, and where a bit of SEC_ERR matches, it is set. -/
def State.secRefuse (s : State) (F : Option Field) : State :=
  let s := s.incSat .secReject SEC_REJECT.CNT
  match F with
  | some F => s.sticky .secErr F 0x0072 .done 0xFFFF 0xFF ((s.rd .secErr).toNat % 16 ||| 2 ^ F.lo)
  | none => s

/-! ### Key import (R453, R454) -/

/-- A slot in use completes KEY_IMPORT with BUSY (R454). -/
def State.keyBusy (s : State) (target index : Nat) : Bool :=
  let loaded := (List.range 8).filter (fun i => s.bit (.slSec i 0) SL_SEC.VALID)
  if target = 2 then loaded.any (fun i => leAt (s.sect (s.f (.slSec i 0) SL_SEC.SECTION)).hdr 0x0A 1 == index)
  else if target = 0 then loaded != [] && (index == 0 || s.bit (.hbmKr index 0) HBM_KR.VALID)
  else false

/-- The key that unwraps a blob (R453 step 5). -/
def State.wrapKey (s : State) (b : List Byte) : List Byte :=
  Config.hkdf (Config.ecdh s.sec.importKey ((b.drop 0x60).take 133)) (fit 16 s.fuses.serial) (ascii "BRECO key wrap") 32

/-- The checks of R453 in order: none where the blob is accepted, else the bit of SEC_ERR. -/
def State.blobFault (s : State) (b : List Byte) : Option Field :=
  let owner := (b.drop 0xE8).take 133
  if b.length ≠ 564 ∨ leAt b 0 4 ≠ 0x424B4B44 ∨ leAt b 4 2 ≠ 1 ∨ leAt b 0xE5 3 ≠ 0 ∨ leAt b 0x16D 3 ≠ 0 ∨
     leAt b 0x17C 4 ≠ 0 then some SEC_ERR.UNWRAP
  else if (b.drop 8).take 16 ≠ fit 16 s.fuses.serial ∨
     (b.drop 0x18).take 64 ≠ Config.sha512 (fit 133 (Config.p521Pub s.sec.importKey)) then some SEC_ERR.UNWRAP
  else if leAt b 0x58 8 ≤ s.sec.counter then some SEC_ERR.UNWRAP
  else if s.bit .secStat SEC_STAT.OWNER_BOUND && Config.sha512 owner != Config.sha512 s.sec.ownerPub then some SEC_ERR.OWNER
  else if !Config.ecdsaOk owner (b.take 0x1B0) ((b.drop 0x1B0).take 132) then some SEC_ERR.SIGNATURE
  else
    let key := Config.gcmDec (s.wrapKey b) ((b.drop 0x170).take 12) ((b.drop 0x190).take 32)
    if (b.drop 0x180).take 16 ≠ Config.gcmTag (s.wrapKey b) ((b.drop 0x170).take 12) (b.take 0x180) key then
      some SEC_ERR.UNWRAP
    else none

/-- Store a key in its slot. What the addresses of an HBM slot hold stays stored under its former key (R388, log entry 25); a new
abort key starts ABT_CTR of its slot at 0 (R414). -/
def State.storeKey (s : State) (target index : Nat) (key : List Byte) : State :=
  match target with
  | 0 =>
    let keys := if index = 0 then s.sec.hbm.filter (fun e => e.1 != 64) else s.sec.hbm
    let s := s.putKey index (Tbl.set keys index key)
    { s with hbm := { s.hbm with keys := if index = 0 then s.hbm.keys else setIns s.hbm.keys index } }
  | 1 => { s with sec := { s.sec with link := Tbl.set s.sec.link index key } }
  | 2 => { s with sec := { s.sec with image := Tbl.set s.sec.image index key } }
  | _ => ({ s with sec := { s.sec with abort := Tbl.set s.sec.abort index key } } : State).wr (.abtCtr index) 0

/-- KEY_IMPORT with a blob. -/
def State.keyImport (s : State) (target index : Nat) (b : List Byte) : Status × State :=
  if b.length = 564 ∧ (leAt b 6 1 ≠ target ∨ leAt b 7 1 ≠ index) then (.badDescriptor, s)
  else if s.keyBusy target index then (.busy, s)
  else match s.blobFault b with
  | some F => (.denied, s.secRefuse (some F))
  | none =>
    let key := Config.gcmDec (s.wrapKey b) ((b.drop 0x170).take 12) ((b.drop 0x190).take 32)
    let s := s.storeKey target index key
    let owner := if s.bit .secStat SEC_STAT.OWNER_BOUND then s.sec.ownerPub else (b.drop 0xE8).take 133
    let s := { s with sec := { s.sec with counter := leAt b 0x58 8, ownerPub := owner } }
    (.done, (s.setF .secStat SEC_STAT.OWNER_BOUND 1).incWrap .secStat SEC_STAT.IMPORTS)

/-! ### Erasure and the debug lock (R457, R460) -/

/-- A key erasure while the device runs (R457): what a successful DEBUG_UNLOCK performs first. The Alias key goes with
the imported keys (R455) and is the same from the next boot on; the certificate of the boot stays. -/
def State.keyErase (s : State) : State :=
  let s := s.sealBase.scCleanAll 0 (fun _ => true)
  let gcm (c : Nat) : Bool := (s.cn c CN.PROT == 1 || s.cn c CN.HOST == 1) &&
    decide (cnOpening ≤ s.cn c CN.STATE) && decide (s.cn c CN.STATE ≤ cnClosing)
  let s := (s.cnList.filter gcm).foldl (fun (s : State) (c : Nat) =>
    ({ s with free := s.free + 1 } : State).connLost c (1 + Config.freeNat s.free % 5)) s
  let s := { s with
    sec := { s.sec with counter := 0, alias_ := [], ownerPub := [], image := [], link := [], abort := [], sessions := [],
                        sak := [], shake := [], shakeAt := [] }
    secs := s.secs.map (fun (e : Nat × Section) => (e.1, { e.2 with key := [] }))
    loader := { s.loader with switches := s.loader.switches.map (fun (j : SwitchJob) => { j with key := [] }) }
    hbm := { s.hbm with keys := [] }
    regs := s.regs.map (fun (e : Reg × Word) => match e.1 with
      | .portStat _ _ => (e.1, BitVec.ofNat 64 (setBits e.2.toNat PORT_STAT.MACSEC_ACTIVE.hi PORT_STAT.MACSEC_ACTIVE.lo 0))
      | _ => e) }
  let s := ((s.setF .secStat SEC_STAT.OWNER_BOUND 0).setF .secStat SEC_STAT.SESSIONS 0).setF .secStat SEC_STAT.IMPORTS 0
  let s := s.drawKeys
  { s with sec := { s.sec with hbm := [(64, s.sec.key0)] } }

/-- DEBUG_UNLOCK with a token (R460). -/
def State.debugUnlock (s : State) (b : List Byte) : Status × State :=
  let level := leAt b 6 1
  if b.length ≠ 220 ∨ leAt b 0 4 ≠ 0x4C554B44 ∨ leAt b 4 2 ≠ 1 ∨ leAt b 7 1 ≠ 0 ∨ 2 < level ∨
     !s.bit .secStat SEC_STAT.OWNER_BOUND ∨ (b.drop 8).take 16 ≠ fit 16 s.fuses.serial ∨
     (b.drop 0x18).take 64 ≠ Config.sha512 (fit 133 (Config.p521Pub s.sec.importKey)) then (.denied, s.secRefuse none)
  else if !Config.ecdsaOk s.sec.ownerPub (b.take 0x58) ((b.drop 0x58).take 132) then
    (.denied, s.secRefuse (some SEC_ERR.SIGNATURE))
  else if level ≤ s.f .secStat SEC_STAT.DEBUG then (.denied, s.secRefuse none)
  else (.done, s.keyErase.setF .secStat SEC_STAT.DEBUG level)

end Sys2Proof.Machine
end

