-- ==== Sys2Proof/Machine/Security.lean ====
section
/-! DEFINITION. The commands of the security engine (17_security.md R448, R450, R453, R456, R460). -/

namespace Sys2Proof.Machine

/-- GET_CERTS (R448). -/
def execGetCerts (i : Fin 64) (s : State) : Host.Outcome State Fault Refusal :=
  .next <| s.mbxRun i 0x10 (fun c _ s => (.done, [], s.certs (c.p 0x10 1), s))

/-- ATTEST (R450). -/
def execAttest (i : Fin 64) (s : State) : Host.Outcome State Fault Refusal :=
  .next <| s.mbxRun i 0x11 (fun c _ s => (.done, [], s.attReport ((c.entry.drop 0x10).take 64), s))

/-- SESSION_OPEN (R456). -/
def execSessionOpen (i : Fin 64) (s : State) : Host.Outcome State Fault Refusal :=
  .next <| s.mbxRun i 0x12 (fun _ d s => s.sessionOpen d)

/-- KEY_IMPORT (R453). -/
def execKeyImport (i : Fin 64) (s : State) : Host.Outcome State Fault Refusal :=
  .next <| s.mbxRun i 0x13 (fun c d s =>
    let r := s.keyImport (c.p 0x10 1) (c.p 0x11 1) d
    (r.1, [], [], r.2))

/-- DEBUG_UNLOCK (R460). -/
def execDebugUnlock (i : Fin 64) (s : State) : Host.Outcome State Fault Refusal :=
  .next <| s.mbxRun i 0x14 (fun _ d s =>
    let r := s.debugUnlock d
    (r.1, [], [], r.2))

end Sys2Proof.Machine
end

