-- ==== Sys2Proof/Machine/RegWrite.lean ====
section
/-! DEFINITION. Access to register space: what a read clears, what a write of each register does, and the policy of the host
(00_scope.md R10, R11, 21_register_map.md R524 to R538, and the register tables of each chapter). -/

namespace Sys2Proof.Machine

/-! ### Reads (R10) -/

/-- What reading a register does: its RC fields clear; HAL_NOTE and PORT_TXTS pop their entry with word 1, TB_NOW latches
TB_FRAC, the counts of uncorrectable errors release their address register. -/
def State.readEffect (s : State) (r : Reg) : State :=
  let w := (Reg.here r).foldl (fun (w : Nat) (F : Field) => if F.acc = .rc then setBits w F.hi F.lo 0 else w) (s.rd r).toNat
  match r with
  | .halNote c 1 => (s.readNote c).2
  | .portTxts p b 1 => s.popTxts p b
  | .tbNow => s.latchFrac
  | .memUe m => (s.wr r (BitVec.ofNat 64 w)).setF (.memUeAddr m) MEM_UE_ADDR.VALID 0
  | .hbmUe h => (s.wr r (BitVec.ofNat 64 w)).setF (.hbmUeAddr h) HBM_UE_ADDR.VALID 0
  | _ => if w = (s.rd r).toNat then s else s.wr r (BitVec.ofNat 64 w)

/-- A read of a word of register space: status, value, and the state after it. -/
def State.readWord (s : State) (a : Nat) : Status × Nat × State :=
  match regDecode a with
  | .error st => (st, 0, s)
  | .ok none => (.done, 0, s)
  | .ok (some r) => if s.regAbsent r then (.done, 0, s) else (.done, s.regView r, s.readEffect r)

/-! ### Writes -/

/-- A write would change an RWL field (R10, R538). -/
def State.rwlChange (s : State) (r : Reg) (v : Nat) : Bool :=
  (Reg.here r).any (fun F => F.acc == .rwl && fld v F.hi F.lo != s.f r F)

/-- CLT_CMD word 1 issues the operation of the record (R324). -/
def State.cltIssue (s : State) (k v : Nat) : State :=
  if s.bit (.cltCmd k 3) CLT_CMD.PEND then s
  else
    let s := s.regStore (.cltCmd k 1) v
    let s := (s.setF (.cltCmd k 3) CLT_CMD.VALID 0).setF (.cltCmd k 3) CLT_CMD.PEND 1
    s.cltSend (CltReq.ofWords (s.rd (.cltCmd k 0)).toNat (s.rd (.cltCmd k 1)).toNat) (s.gid (uCn k)) (.cmd k) false

/-- Crowsnest declares a bucket or ordered channel with the word that holds SECTION 0xFF (R336, R343): it is CLOSED, and
without an arm cleat it arms at once. An entry in a round keeps it; reserved bits of that word refuse the declaration, and
are ignored in every other word (R9; log entry 39). -/
def State.cnDeclare (s : State) (e : Nat) (r : Reg) (v : Nat) : Status × State :=
  let n := s.regStore r v
  if n.entSection e ≠ 0xFF ∨ 2 ≤ n.entState e then (.done, n)
  else if Reg.reserved r v || !n.entOk e (e :: n.entList.filter (fun x => n.entState x != 0)) then (.badDescriptor, s)
  else
    let n := (n.dropWait (entKey e)).declareEnts 0xFF [e]
    let ac := n.entArm e
    (.done, if ac = 0xFFFF then n.armEntry e
      else n.cltOp { op := 1, index := ac, operand := 1, consume := true } (n.gid uRed) (.eng (entKey e)) false)

/-- Entry `k` of HBM_KR is written (R389): ignored where two valid regions would overlap or one leave the HBM range, and
where base or length is no multiple of 64 KiB; else BUSY is set and CLEAN_INV of the old and new ranges starts. -/
def State.krWrite (s : State) (k w0 w1 : Nat) : State :=
  let b := fld w0 HBM_KR.BASE.hi HBM_KR.BASE.lo
  let n := fld w1 HBM_KR.LENGTH.hi HBM_KR.LENGTH.lo
  let valid := bitN w0 63
  let meetsOther (j : Nat) : Bool := j != k && s.bit (.hbmKr j 0) HBM_KR.VALID &&
    rngMeet b n (s.f (.hbmKr j 0) HBM_KR.BASE) (s.f (.hbmKr j 1) HBM_KR.LENGTH)
  if k = 0 then s
  else if valid && (b % 65536 != 0 || n % 65536 != 0 || decide (s.fuses.hbmSize < b + n) || (List.range 64).any meetsOther)
  then s.hbmErr 0 HBM_ERR.KR_REJECT
  else
    let s := ((s.regStore (.hbmKr k 0) w0).regStore (.hbmKr k 1) w1).setF (.hbmKr k 0) HBM_KR.BUSY 1
    s.scCleanAll (2 + k) (s.krRange k)

/-- HBM_MAP is written (R380): MAP_BUSY, and CLEAN_INV of every slice. -/
def State.mapWrite (s : State) (v : Nat) : State :=
  ((s.regStore .hbmMap v).setF .hbmMap HBM_MAP.MAP_BUSY 1).scCleanAll 2 (fun _ => true)

/-- A send slot is written: a parked slot waits again, and a wait on its former trigger ends (R282). -/
def State.sendWrite (s : State) (o i w v : Nat) : State :=
  ((s.regStore (.halSend o i w) v).setF (.halSstat o i) HAL_SSTAT.PARKED 0).dropWait (.send o i)

/-- OP of a connection entry (R359). -/
def State.connOp (s : State) (c op : Nat) : State :=
  if op = 1 then s.connOpenOp c else if op = 2 then s.connCloseOp c else if op = 3 then s.connResetOp c else s

/-- A write that R314 ignores while RUN is 1. -/
def State.runIgnored (s : State) : State :=
  if s.bit .stkCtrl STK_CTRL.RUN then s.setF .stkErr STK_ERR.WR_IGNORED 1 else s

/-- What a write of `v` to a register does, its lock apart. -/
def State.regEffect (s : State) (r : Reg) (v : Nat) : Status × State :=
  match r with
  | .devId => if s.anyLoaded then (.denied, s) else (.done, s.setDevId (fld v 16 0))
  | .tbStep => (.done, s.tbStepBy (BitVec.ofNat 64 v))
  | .tbRate => (.done, s.setRate (sext 32 (v % 2 ^ 32)))
  | .stkT0 => (.done, (s.regStore r v).runIgnored)
  | .stkPeriod => (.done, (s.regStore r v).runIgnored)
  | .stkCtrl =>
    let run := bitN v 0
    let s := (s.setF r STK_CTRL.POLICY (fld v 1 1)).setF r STK_CTRL.PINMODE (fld v 3 2)
    (.done, (s.pinNow).setRun run)
  | .cltCmd k 1 => (.done, s.cltIssue k v)
  | .shrGrp g => (.done, (s.regStore r v).shrConfig g)
  | .shrChild g c => (.done, (s.regStore r v).shrKid g c)
  | .cnWd => let s := s.regStore r v
             (.done, if bitN v 14 then s.kick else s)
  | .fabCtrl m =>
    let s := s.regStore r v
    let s := if bitN v 1 then s.stopSrc m else s
    (.done, if bitN v 2 then s.startDrain m else s)
  | .halRel o c => (.done, if fld v 6 0 = 0 then s else s.writeRel (128 * o + c) (fld v 6 0))
  | .halSend o i w => (.done, s.sendWrite o i w v)
  | .hbmMap => (.done, s.mapWrite v)
  | .hbmKr k 0 => (.done, s.krWrite k v (s.rd (.hbmKr k 1)).toNat)
  | .hbmKr k _ => (.done, s.krWrite k (s.rd (.hbmKr k 0)).toNat v)
  | .portCfg p =>
    let s := (List.range 4).foldl (fun (s : State) (b : Nat) => s.preemptNow p b) (s.regStore r v)
    (.done, if bitN v 18 then (s.setF r PORT_CFG.RESET 1).setF .rstStat RST_STAT.PORT (s.f .rstStat RST_STAT.PORT ||| 2 ^ p)
            else s)
  | .scOp h => (.done, s.scOp h (fld v 1 0) (bitN v 2))
  | .cn c 6 => (.done, s.connOp c (fld v 1 0))
  | .win w 2 => (.done, if fld v 1 0 = 1 then s.winOpenOp w else if fld v 1 0 = 2 then s.winCloseOp w else s)
  | .abtCtrl =>
    let s := s.regStore r v
    (.done, if bitN v 16 then s.trigger (fld v 0 0) (fld v 15 8) else s)
  | .bkt t w => if w = 3 then s.cnDeclare t r v else (.done, s.regStore r v)
  | .ord o w => if w = 2 then s.cnDeclare (4096 + o) r v else (.done, s.regStore r v)
  | .tpTimer => let n := s.regStore r v
                (.done, { n with free := n.free + 64 })
  | _ => (.done, s.regStore r v)

/-- The lock refuses a write of a register (R10, R538): one that would change an RWL field; `direct`: also any write of a
register whose every writable field is RWL (log entry 37). -/
def State.rwlDenied (s : State) (r : Reg) (v : Nat) (direct : Bool) : Bool :=
  s.rwlLocked r && (s.rwlChange r v ||
    (direct && (Reg.here r).any (fun F => F.acc == .rwl) && (Reg.here r).all (fun F => F.acc == .rwl || F.acc == .ro)))

/-- A write of a word of register space (R10, R524): one that the lock refuses completes with DENIED and changes nothing.
`direct`: the requester writes the register itself, and not through REG_WRITE. -/
def State.writeWord (s : State) (a v : Nat) (direct : Bool) : Status × State :=
  match regDecode a with
  | .error st => (st, s)
  | .ok none => (.done, s)
  | .ok (some r) =>
    if s.regAbsent r then (.done, s)
    else if s.rwlDenied r v direct then (.denied, s)
    else s.regEffect r v

/-! ### The host's policy (R533 to R536) -/

/-- Registers that carry owner data while an owner is bound (R534). -/
def ownerReg : Reg → Bool
  | .slot _ _ _ _ | .fabEdge _ _ _ | .fabSpill _ _ | .jibLast _ _ => true
  | .bkt _ w => decide (4 ≤ w) && decide (w ≤ 6)
  | _ => false

/-- REG_READ of a register is refused (R533, R534). -/
def State.readRefused (s : State) (r : Reg) : Bool :=
  match r with
  | .halNote _ _ | .portTxts _ _ _ => true
  | _ => ownerReg r && s.bit .secStat SEC_STAT.OWNER_BOUND

/-- The check of one address of REG_READ (R537). -/
def State.readCheck (s : State) (a : Nat) : Status :=
  match regDecode a with
  | .error st => st
  | .ok none => .done
  | .ok (some r) => if s.readRefused r then .denied else .done

/-- The blocks REG_WRITE reaches (R533). -/
def hostBlock (r : Reg) : Bool :=
  let a := Reg.addr r
  let o := a - regBase
  match r with
  | .win _ _ => false
  | .pwrCtrl => true
  | _ =>
    if o < 0x01000000 then
      (decide (0x14000 ≤ o) && decide (o < 0x20000)) || (decide (0x30000 ≤ o) && decide (o < 0x80000))
    else if o < 0x05000000 then true
    else decide (o < 0x050E0000)

/-- Two registers are words of one entry (R535). -/
def Reg.sameEntry (r q : Reg) : Bool :=
  match r, q with
  | .bkt t _, .bkt u _ => t == u
  | .ord o _, .ord p _ => o == p
  | .shrMast g m, .shrMast h n => g == h && m == n
  | .rem i _, .rem j _ => i == j
  | .pxy i, .pxy j => i == j
  | .redCtrl, .redCtrl => true
  | _, _ => false

/-- A section load wrote the entry (R535). -/
def State.sectionEntry (s : State) (r : Reg) : Bool :=
  s.secs.any (fun (e : Nat × Section) => e.2.writes.any (Reg.sameEntry r))

/-- Bits of a word whose fields REG_WRITE does not write (R536). -/
def Reg.shutMask (r : Reg) : Nat :=
  (Reg.here r).foldl (fun (m : Nat) (F : Field) =>
    if F.acc = .w1c ∨ F.acc = .w1s ∨ F.acc = .wo ∨ F.acc = .rc then m ||| ((2 ^ (F.hi + 1 - F.lo) - 1) * 2 ^ F.lo) else m) 0

/-- The mask of a REG_WRITE is refused (R536): CN word 6 takes a mask of exactly its OP field. -/
def maskRefused (r : Reg) (mask : Nat) : Bool :=
  match r with
  | .cn _ 6 => mask &&& Reg.shutMask r != 0 && mask != 3
  | _ => mask &&& Reg.shutMask r != 0 || (Reg.here r).any (fun F => F.acc == .rc)

/-- The check of the address and mask of REG_WRITE (R538). -/
def State.writeCheck (s : State) (a mask : Nat) : Status :=
  match regDecode a with
  | .error st => st
  | .ok none => .done
  | .ok (some r) => if !hostBlock r || s.sectionEntry r || maskRefused r mask then .denied else .done

/-- The value REG_WRITE writes: the merge, with nothing for the fields it does not write. -/
def hostMerge (r : Option Reg) (prior value mask : Nat) : Nat :=
  let m := prior &&& (2 ^ 64 - 1 - mask) ||| value &&& mask
  match r with
  | some r => if mask &&& Reg.shutMask r = 0 then m &&& (2 ^ 64 - 1 - Reg.shutMask r) else m
  | none => m

/-- REG_READ (R537). -/
def State.hostRead (s : State) (a n len : Nat) : Status × List Byte × List Byte × State :=
  match ((List.range n).map (fun i => s.readCheck (a + 8 * i))).find? (fun st => st != .done) with
  | some st => (st, [], [], s)
  | none =>
    if (len ≠ 0 ∧ len < 8 * n) ∨ (len = 0 ∧ 6 < n) then (.shapeOverflow, leBytes 8 (8 * n), [], s)
    else
      let (s, d) := (List.range n).foldl (fun (x : State × List Byte) (i : Nat) =>
        let r := x.1.readWord (a + 8 * i)
        (r.2.2, x.2 ++ leBytes 8 r.2.1)) (s, [])
      (.done, d.take 48, if len = 0 then [] else d, s)

/-- REG_WRITE (R538). -/
def State.hostWrite (s : State) (a value mask : Nat) : Status × List Byte × List Byte × State :=
  let st := s.writeCheck a mask
  if st ≠ .done then (st, [], [], s)
  else
    let r := match regDecode a with
      | .ok r => r
      | .error _ => none
    let prior := match r with
      | some r => s.regView r
      | none => 0
    let (st, s) := s.writeWord a (hostMerge r prior value mask) false
    (st, if st = .done then leBytes 8 prior else [], [], s)

end Sys2Proof.Machine
end

