-- ==== Sys2Proof/Machine/Chip.lean ====
section
/-! DEFINITION. The commands of the memory front-ends, the coil units and the scrubber (06_onchip_memory.md). Units are unit
IDs of this device; `ecc` is what the check bits of a line say: 0 correct, 1 a correctable error, 2 an uncorrectable
one. A command at a coil that is not defined, or about a record that is not in flight, changes nothing
(log entry 6). -/

namespace Sys2Proof.Machine

/-- A producer reserves the next record of a coil, or waits while it is full (R184, R185). -/
def execCoilReserve (m : Fin 8) (k : Byte) (unit : BitVec 16) (s : State) : Host.Outcome State Fault Refusal :=
  .next <| if s.co m k.toNat COIL.VALID = 0 then s else s.coilReserveBy m k.toNat unit.toNat

/-- The write of a reserved record is accepted: TAIL advances in record order and the coil's cleat is signalled (R184,
R185). In a partial-sum memory that is in use the access ends with BUSY and the record stays reserved (R186). -/
def execCoilCommit (m : Fin 8) (k : Byte) (n : BitVec 32) (s : State) : Host.Outcome State Fault Refusal :=
  .next <|
  let t := s.co m k.toNat COIL.TAIL
  let x := s.coilSt m k.toNat
  if s.co m k.toNat COIL.VALID = 0 ∨ recDiff (s.co m k.toNat COIL.RESV) t ≤ recDiff n.toNat t ∨
      x.written.contains n.toNat then s
  else if s.coilBusy m k.toNat n.toNat then s.coilDenied m k.toNat n.toNat false
  else s.coilCommit m k.toNat n.toNat

/-- A consumer claims the next committed record, or waits while there is none (R184, R185). -/
def execCoilClaim (m : Fin 8) (k : Byte) (unit : BitVec 16) (s : State) : Host.Outcome State Fault Refusal :=
  .next <| if s.co m k.toNat COIL.VALID = 0 then s else s.coilClaimBy m k.toNat unit.toNat

/-- The read of a claimed record has returned: HEAD advances in record order (R184). In a partial-sum memory that is in
use the access ends with BUSY and the record stays claimed (R186). -/
def execCoilRelease (m : Fin 8) (k : Byte) (n : BitVec 32) (s : State) : Host.Outcome State Fault Refusal :=
  .next <|
  let h := s.co m k.toNat COIL.HEAD
  let x := s.coilSt m k.toNat
  if s.co m k.toNat COIL.VALID = 0 ∨ recDiff (s.co m k.toNat COIL.CLAIM) h ≤ recDiff n.toNat h ∨
      x.read.contains n.toNat then s
  else if s.coilBusy m k.toNat n.toNat then s.coilDenied m k.toNat n.toNat true
  else s.coilRelease m k.toNat n.toNat

/-- The units that reach register space directly: crowsnest, the abort controller and the loader (R39). -/
def regUnit (u : Nat) : Bool := let c := u / 4096 % 16; c == 9 || c == 10 || c == 11

/-- A read of a register by a unit: one aligned word (R39, R524). -/
def State.regRead (s : State) (u a n : Nat) : State :=
  if !regUnit u then s.readFail u .denied
  else if n ≠ 8 then s.readFail u .badDescriptor
  else
    let (st, v, s) := s.readWord a
    let r : ReadResult := { st := st, data := if st = .done then leBytes 8 v else [] }
    { s with chip := { s.chip with results := Tbl.set s.chip.results u r } }

/-- A write of a register by a unit. -/
def State.regWrite (s : State) (u a : Nat) (d : List Byte) : State :=
  if !regUnit u then s.readFail u .denied
  else if d.length ≠ 8 then s.readFail u .badDescriptor
  else let (st, s) := s.writeWord a (leNat d) true; s.readFail u st

/-- A read of the bytes of a cleat met an uncorrectable error: the cleat is poisoned (R303, R484, R490). -/
def State.cleatError (s : State) (i : Nat) : State :=
  (s.forceCleat i { s.cleat i with st := .poisoned } .poisoned true).logEvent 0x0005 .uncorrectable 0xFFFF 0xFF i

/-- What a read of a register or a cleat returned arrives poisoned where `bad` says so (R28, R483). -/
def State.readTaint (s : State) (u : Nat) (bad : Bool) : State :=
  if !bad then s
  else { s with chip := { s.chip with results := Tbl.set s.chip.results u { Tbl.get {} s.chip.results u with poison := true } } }

/-- The loader writes bytes of cleats; poisoned bytes put the cleats that hold them in the poisoned state (R39, R294, R484). -/
def State.cleatPut (s : State) (a : Nat) (d : List Byte) (p : Bool) : State :=
  let s := s.cleatWrite a d
  if !p then s
  else
    let first := (a - cleatBase) / 16
    ((List.range ((a + d.length + 15) / 16 - a / 16)).map (· + first)).foldl (fun (s : State) (i : Nat) =>
      s.forceCleat i { s.cleat i with st := .poisoned } .poisoned true) s

/-- The loader reads the bytes of cleats (R39, R294); `ecc` says what the check bits of each cleat it touches say. -/
def State.cleatRead (s : State) (u a n : Nat) (ecc : List (Fin 3)) : State :=
  let first := (a - cleatBase) / 16
  let is := (List.range ((a + n + 15) / 16 - a / 16)).map (· + first)
  let s := (is.zip ecc).foldl (fun s e => if e.2 = 2 then s.cleatError e.1 else s) s
  let r : ReadResult := { st := .done, data := (List.range n).map (fun i => s.cleatByte (a + i)) }
  { s with chip := { s.chip with results := Tbl.set s.chip.results u r } }

/-- A read reaches a front-end with its mode: its limits, its region, then service. `ecc` says what the check bits of each
line it touches say, in the order of `MemRead.lines`; a line the list does not reach is correct. -/
def State.memRequest (s : State) (q : MemRead) (ecc : List (Fin 3)) : State :=
  let (lo, n) := q.hull
  if !q.legal then s.readFail q.unit .badDescriptor
  else if lo < 0 then s.readFail q.unit .outOfBounds
  else
    let reg := s.fuses.region q.addr 1
    let modeOk := q.mode == 0 || (match reg with
      | some (.act _) => true
      | some (.psum _) => true
      | none => true
      | _ => false)
    if !modeOk then s.readFail q.unit .badDescriptor
    else if reg = some .regs ∧ s.fuses.region lo.toNat n = some .regs then (s.regRead q.unit lo.toNat n).readTaint q.unit q.bad
    else
      let st := s.access (.unit q.unit) false lo.toNat n
      if st ≠ .done then s.readFail q.unit st
      else if reg = some .cleat then (s.cleatRead q.unit lo.toNat n ecc).readTaint q.unit q.bad
      else if reg = some .hbm then (s.scPass lo.toNat n 0 false).readReturn q
      else s.memServe { q with errs := (q.lines.zip ecc).map (fun e => (e.1, e.2.val)) }

/-- The device of a global address, where it is another one (R40). -/
def State.abroad (s : State) (glob : Option (BitVec 17)) : Option Nat :=
  match glob with
  | some d => if d.toNat = s.dev then none else some d.toNat
  | none => none

/-- A load of crowsnest from another device travels as a READ_REQ; no other unit issues one (R41, R356, R358). -/
def State.remoteRead (s : State) (u dev a n : Nat) : State :=
  if n = 0 ∨ 4096 < n then s.readFail u .badDescriptor
  else if u / 4096 % 16 ≠ 9 ∨ !s.devAssigned then s.readFail u .denied
  else match s.remFor dev a n with
  | none => s.readFail u .denied
  | some r => match s.connFor dev u with
    | none => s.readFail u .peerLost
    | some c =>
      let tag := s.net.nextId % 2 ^ 32
      let sub := leBytes 8 a ++ leBytes 2 (s.f (.rem r 1) REM.HANDLE) ++ leBytes 2 n ++ leBytes 4 tag
      let s := { s with
        net := { s.net with reads := s.net.reads ++ [({ tag := tag, cn := c, unit := u, len := n } : OutRead)] }
        chip := { s.chip with results := Tbl.clear s.chip.results (· == u) } }
      s.startOp c tReadReq u false [(sub, [])] (.read tag)

/-- A store of a unit to another device travels as a WRITE, and reports to the unit when it is acknowledged (R192, R356). -/
def State.remoteStore (s : State) (u dev a : Nat) (d : List Byte) (p : Bool) : State :=
  let (st, s) := s.remoteWrite u dev a d (fullMask p d.length) (.store u)
  if st = .done then { s with chip := { s.chip with results := Tbl.clear s.chip.results (· == u) } } else s.readFail u st

/-- A linear read of a unit of this device (R177 to R180, R190, R192, R197); an address that names
another device reads there (R40). What an uncorrectable flit carried arrives poisoned (R28). -/
def execMemRead (unit : BitVec 16) (ad : MemAddr) (n : BitVec 13) (met : ReadErr) (s : State) :
    Host.Outcome State Fault Refusal :=
  let s := s.meshErrors met.mesh
  .next (match s.abroad ad.glob with
    | some d => s.remoteRead unit.toNat d ad.a.toNat n.toNat
    | none => s.memRequest
      { unit := unit.toNat, mode := 0, addr := ad.a.toNat, e := n.toNat, bad := meshBad met.mesh } met.ecc)

/-- A write of 1 B to 4 KiB by a unit of a device (R189, R190, R192, R197): a tracked write takes an entry of its mast's
scoreboard, is accepted in the next reference period, and then reports to its writer; any other write is accepted at
once. A write that an uncorrectable flit carried arrives poisoned (R28); a register holds no poison, and a poisoned write of one
ends with POISONED and stores nothing (R483). -/
def execMemWrite (dev : BitVec 17) (unit : BitVec 16) (ad : MemAddr) (d : List Byte) (met : WriteErr) (s : State) :
    Host.Outcome State Fault Refusal :=
  .next <|
  let s := s.meshErrors met.mesh
  let own := dev.toNat == s.dev
  let u := unit.toNat
  let reg := s.fuses.region ad.a.toNat d.length
  let p := met.poison || meshBad met.mesh || (own && s.marked u)
  if d = [] ∨ 4096 < d.length then s.readFail u .badDescriptor
  else if own ∧ (s.abroad ad.glob).isSome then s.remoteStore u ((s.abroad ad.glob).getD 0) ad.a.toNat d p
  else if reg = some .regs ∧ own then (if p then s.readFail u .poisoned else s.regWrite u ad.a.toNat d)
  else
    let st := s.access (if own then .unit u else .remote) true ad.a.toNat d.length
    if st ≠ .done then s.readFail u st
    else
      let s := if own then s.ownReads u ad.a.toNat d.length else s
      match reg.bind Region.mast with
      | some m =>
        if trackedUnit own u then
          let s := { s with chip := { s.chip with results := Tbl.clear s.chip.results (· == u) } }
          s.track m dev.toNat u ad.a.toNat d (if p then unitsOf ad.a.toNat d.length else []) true
        else (s.store ad.a.toNat d p).readFail u .done
      | none =>
        if reg = some .cleat then (s.cleatPut ad.a.toNat d p).readFail u .done
        else ((s.scPass ad.a.toNat d.length 0 true).store ad.a.toNat d p).readFail u .done

/-- A strided read of `n` elements of `e` bytes (R180, R181). -/
def execStridedRead (unit : BitVec 16) (a : BitVec 47) (e : BitVec 7) (n : BitVec 9) (rows : MemRows)
    (s : State) : Host.Outcome State Fault Refusal :=
  .next ((s.meshErrors rows.mesh).memRequest
    { unit := unit.toNat, mode := 1, addr := a.toNat, e := e.toNat, n := n.toNat, stride := rows.step.toInt, bad := meshBad rows.mesh }
    rows.ecc)

/-- A transposed read of a 64 × 64 K16 tile at a row pitch (R180, R182). -/
def execTransposedRead (unit : BitVec 16) (a : BitVec 47) (rows : MemRows) (s : State) :
    Host.Outcome State Fault Refusal :=
  .next ((s.meshErrors rows.mesh).memRequest
    { unit := unit.toNat, mode := 2, addr := a.toNat, e := 128, stride := rows.step.toInt, bad := meshBad rows.mesh } rows.ecc)

/-- A stalled read of a unit issues once no entry overlaps it, and returns the written data (R190). -/
def execScoreboardRelease (unit : BitVec 16) (s : State) : Host.Outcome State Fault Refusal :=
  .next <|
  match s.chip.stalled.find? (fun q => q.unit == unit.toNat) with
  | none => s
  | some q => if s.stalls q then s
    else State.memServe { s with chip := { s.chip with stalled := s.chip.stalled.erase q } } q

/-- The line the scrubber reads at position `i`: weight, activation, partial-sum memory of its mast (R198). -/
def scrubAddr (m i : Nat) : Nat :=
  if i < 4194304 then weightBase m + 64 * i
  else if i < 4980736 then actBase m + 64 * (i - 4194304)
  else let j := i - 4980736; psumBase (16 * m + j / 4096) + 64 * (j % 4096)

/-- The scrubber of a mast reads its next line; a corrected line is written back unless newer data stands there, so the
data does not change (R179, R197, R198). -/
def execScrubLine (m : Fin 8) (ecc : Fin 3) (s : State) : Host.Outcome State Fault Refusal :=
  .next <|
  if !s.bit (.memScrub m) MEM_SCRUB.ENABLE || s.mastPower m == 2 then s
  else
    let i := Tbl.get 0 s.chip.scrub m.val
    let s := { s with chip := { s.chip with scrub := Tbl.set s.chip.scrub m.val ((i + 1) % 5046272) } }
    (s.memError 0xFFFF (scrubAddr m i / 64) ecc).bankReads [scrubAddr m i / 64]

end Sys2Proof.Machine
end

