-- ==== Sys2Proof/Machine/Hbm.lean ====
section
/-! DEFINITION. The commands of the HBM controllers (14_hbm.md). HBM_TEMP_READ stands in Power.lean, HBM_MAP and HBM_KR
in Registers.lean. -/

namespace Sys2Proof.Machine

/-- The bank of a line is not blocked by a refresh (R384). -/
def State.bankFree (s : State) (h line : Nat) : Bool :=
  !s.hbm.blocked.any (fun (b : (Nat × Nat) × Nat) => b.1 == (h, bankOfLine line) && decide (s.now < b.2))

/-- The controller takes request `i` of the miss queue: never ahead of an earlier request to its line (R382, R386). `sector`
and `ecc` name the error met in a read, `ondie` a correction the stack reports. A bypass write of part of a sector reads that
sector first. -/
def execHbmRequest (h : Fin 16) (i : Fin 256) (sector : Fin 8) (ecc : Fin 3) (ondie : Bool) (s : State) :
    Host.Outcome State Fault Refusal :=
  .next <|
  let x := s.slice h
  match x.miss[i.val]? with
  | none => s
  | some r =>
    if (x.miss.take i.val).any (fun q => q.line == r.line) || !s.bankFree h r.line || s.hbmStatus != .done then s
    else
      let read := r.kind == .fill || r.kind == .bypassRead
      let miss := x.miss.eraseIdx i.val
      let s := s.setSlice h { x with miss := miss, fills := if read then x.fills ++ [r] else x.fills }
      let s := s.incWrap (.hbmLines h) HBM_LINES.ALL
      let s := if ondie then (s.incSat (.hbmCe h) HBM_CE.ONDIE).ceAdd 1 else s
      let s := s.activate h r.line
      let s := if read || r.part then s.hbmEcc h (8 * r.line + sector.val) ecc else s
      if miss.any (fun q => q.tag == 1) then s else s.setF (.scOp h) SC_OP.BUSY 0

/-- A corrected sector is rewritten, or the rewrite is abandoned since newer data was accepted: either way the data of
the sector does not change (R386). -/
def execHbmCeRewrite (h : Fin 16) (s : State) : Host.Outcome State Fault Refusal :=
  .next <|
  match s.hbm.rewrite.find? (fun (e : Nat × Nat) => e.1 == h.val) with
  | some e =>
    { s with hbm := { s.hbm with rewrite := delFirst (fun (e : Nat × Nat) => e.1 == h.val) s.hbm.rewrite } }.activate h (e.2 / 8)
  | none => s

/-- REFRATE of a temperature (R384). -/
def refRate (t : Nat) : Nat := if t < 85 then 0 else if t < 95 then 1 else 2

/-- A refresh or RFM blocks its bank for at most 160 ns and closes its row; the rate changes at the first refresh after a reading
(R384). -/
def execHbmRefresh (h : Fin 16) (bank : Fin 2048) (ns : Fin 161) (s : State) : Host.Outcome State Fault Refusal :=
  .next <|
  if !s.bit (.hbmStat h) HBM_STAT.FITTED || s.bit (.hbmStat h) HBM_STAT.SELFREF then s
  else
    let b := s.hbm.blocked.filter (fun (e : (Nat × Nat) × Nat) => decide (s.now < e.2) && e.1 != (h.val, bank.val))
    let s := { s with hbm := { s.hbm with
      blocked := b ++ [((h.val, bank.val), s.now + ns.val)]
      rows := s.hbm.rows.filter (fun e => e.1 != (h.val, bank.val))
      acts := s.hbm.acts.filter (fun e => e.1 != (h.val, bank.val)) } }
    s.setF (.hbmStat h) HBM_STAT.REFRATE (refRate (s.f (.hbmTemp h) HBM_TEMP.TEMP))

/-- Sectors of a stack. -/
def stackSectors : Nat := 96 * 2 ^ 25

/-- The patrol scrub reads the next sector of its stack, in a bank cycle that no request claims (R387). -/
def execHbmPatrolScrub (h : Fin 16) (ecc : Fin 3) (s : State) : Host.Outcome State Fault Refusal :=
  .next <|
  let x := Tbl.get 0 s.hbm.patrol h.val
  if !s.bit (.hbmScrub h) HBM_SCRUB.ENABLE || !s.bit (.hbmStat h) HBM_STAT.TRAINED || s.hbmStatus != .done then s
  else
    (({ s with hbm := { s.hbm with patrol := Tbl.set s.hbm.patrol h.val ((x + 1) % stackSectors) } } : State).activate h
      (x / 8)).hbmEcc h x ecc

/-! ### Mapping and key regions (R380, R389) -/

/-- Once every slice has performed CLEAN_INV, of lines allocated since the write too, the new mapping is in force. -/
def execHbmMapApply (s : State) : Host.Outcome State Fault Refusal :=
  .next <|
  if !s.bit .hbmMap HBM_MAP.MAP_BUSY then s
  else
    let s := s.scCleanAll 2 (fun _ => true)
    if s.scOwes 2 then s
    else (s.remap (s.f .hbmMap HBM_MAP.GRAN, s.f .hbmMap HBM_MAP.SPLITG)).setF .hbmMap HBM_MAP.MAP_BUSY 0

/-- Once the CLEAN_INV of a region change is complete the entry is in force. -/
def execHbmKrApply (k : Fin 64) (s : State) : Host.Outcome State Fault Refusal :=
  .next <|
  if !s.bit (.hbmKr k 0) HBM_KR.BUSY then s
  else
    let c := s.scCleanAll (2 + k.val) (s.krRange k)
    if c.scOwes (2 + k.val) then c else
    let s := c
    let rest := s.hbm.kr.filter (fun r => r.1 != k.val)
    let new := if s.bit (.hbmKr k 0) HBM_KR.VALID then
      rest ++ [(k.val, s.f (.hbmKr k 0) HBM_KR.BASE, s.f (.hbmKr k 1) HBM_KR.LENGTH)] else rest
    (s.rekey new).setF (.hbmKr k 0) HBM_KR.BUSY 0

end Sys2Proof.Machine
end

