-- ==== Sys2Proof/Machine/Registers.lean ====
section
/-! DEFINITION. The commands that read and write registers (00_scope.md R10, 10_halyards.md R282, 14_hbm.md R380, R389,
21_register_map.md R537, R538). The requester of the direct accesses is crowsnest; the outcome of each stays with it. -/

namespace Sys2Proof.Machine

/-- REG_READ. -/
def execRegRead (i : Fin 64) (s : State) : Host.Outcome State Fault Refusal :=
  .next <| s.mbxRun i 0x60 (fun c _ s => s.hostRead (c.p 0x10 8) (c.p 0x18 2) c.dataLen)

/-- REG_WRITE. -/
def execRegWrite (i : Fin 64) (s : State) : Host.Outcome State Fault Refusal :=
  .next <| s.mbxRun i 0x61 (fun c _ s => s.hostWrite (c.p 0x10 8) (c.p 0x18 8) (c.p 0x20 8))

/-- REGISTER_READ. -/
def execRegisterRead (addr : Word) (s : State) : Host.Outcome State Fault Refusal :=
  let r := s.readWord addr.toNat
  .next (r.2.2.regAnswer r.1 r.2.1)

/-- REGISTER_WRITE. -/
def execRegisterWrite (addr value : Word) (s : State) : Host.Outcome State Fault Refusal :=
  let r := s.writeWord addr.toNat value.toNat true
  .next (r.2.regAnswer r.1 0)

/-- HBM_MAP: a write of the register. -/
def execHbmMap (v : Word) (s : State) : Host.Outcome State Fault Refusal :=
  let r := s.writeWord (Reg.addr .hbmMap) v.toNat true
  .next (r.2.regAnswer r.1 0)

/-- HBM_KR: a write of both words of an entry. -/
def execHbmKr (k : Fin 64) (w0 w1 : Word) (s : State) : Host.Outcome State Fault Refusal :=
  .next <|
  let no := s.rwlDenied (.hbmKr k 0) w0.toNat true || s.rwlDenied (.hbmKr k 1) w1.toNat true
  if no && k != 0 then s.regAnswer .denied 0
  else (s.krWrite k w0.toNat w1.toNat).regAnswer .done 0

/-- HAL_SEND: a write of both words of a send slot. -/
def execHalSend (o : Fin 9) (slot : Fin 64) (w0 w1 : Word) (s : State) : Host.Outcome State Fault Refusal :=
  .next <|
  let no := s.rwlDenied (.halSend o slot 0) w0.toNat true || s.rwlDenied (.halSend o slot 1) w1.toNat true
  if no then s.regAnswer .denied 0
  else ((s.sendWrite o slot 0 w0.toNat).sendWrite o slot 1 w1.toNat).regAnswer .done 0

end Sys2Proof.Machine
end

