-- ==== Sys2Proof/Machine/Module.lean ====
section
/-! DEFINITION. The module around the device: input power, reset pins, JTAG and board management (20_module_hardware.md R505 to
R507, R513 to R520, 17_security.md R460, 18_boot_power_calibration.md R462, R477). -/

namespace Sys2Proof.Machine

/-! ### Input power (R505 to R507) -/

/-- The module's own fields. -/
def State.setMod (s : State) (f : ModSt → ModSt) : State := { s with mod := f s.mod }

/-- The power-up of R506 starts. -/
def State.powerUp (s : State) : State :=
  s.setMod (fun m => { m with upAt := some s.now, ovr := false, down := false })

/-- ENABLE mates: with VIN at or above 48 V the power-up starts, below it waits for VIN to rise (R505, R506). -/
def execEnableMate (mv : BitVec 16) (s : State) : Host.Outcome State Fault Refusal :=
  .next <|
  if s.mod.enable then s
  else
    let s := s.setMod (fun m => { m with enable := true, vin := mv.toNat, ovr := false, down := true })
    if 48000 ≤ mv.toNat then s.powerUp else s

/-- Every rail is in regulation and PWR_GOOD is released: a cold reset, held while the board holds PWR_GOOD low
(R506, R516). -/
def execPowerUpDone (s : State) : Host.Outcome State Fault Refusal :=
  .next <|
  if s.mod.upAt.isNone then s
  else
    let held := s.mod.pgLow
    s.coldReset.setMod (fun m => { m with rails := true, pgLow := held })

/-- ENABLE breaks (R507). -/
def execEnableBreak (s : State) : Host.Outcome State Fault Refusal :=
  .next (s.powerOff.setMod (fun m => { m with enable := false, ovr := false, down := false }))

/-- VIN above 62 V (R505). -/
def execVinOvervoltage (mv : BitVec 16) (s : State) : Host.Outcome State Fault Refusal :=
  .next <|
  if mv.toNat ≤ 62000 ∨ !s.mod.enable then s
  else s.powerOff.setMod (fun m => { m with ovr := true, down := false, vin := mv.toNat })

/-- VIN below 46 V for 100 µs, or below 40 V (R505). -/
def execVinUndervoltage (mv : BitVec 16) (s : State) : Host.Outcome State Fault Refusal :=
  .next <|
  if 46000 ≤ mv.toNat ∨ !s.mod.enable then s
  else s.powerOff.setMod (fun m => { m with down := true, ovr := false, vin := mv.toNat })

/-- VIN rises through 48 V after a power-down, ENABLE mated (R505). -/
def execVinRising (mv : BitVec 16) (s : State) : Host.Outcome State Fault Refusal :=
  .next <|
  if s.mod.enable ∧ s.mod.down ∧ 48000 ≤ mv.toNat then (s.setMod (fun m => { m with vin := mv.toNat })).powerUp else s

/-- VIN falls below 60 V after an overvoltage (R505). -/
def execVinOvervoltageEnd (mv : BitVec 16) (s : State) : Host.Outcome State Fault Refusal :=
  .next <|
  if s.mod.enable ∧ s.mod.ovr ∧ mv.toNat < 60000 then (s.setMod (fun m => { m with vin := mv.toNat })).powerUp else s

/-! ### Reset pins (R462, R516, R517) -/

/-- The board pulls PWR_GOOD low while the rails are good: the device is in cold reset until the release. -/
def execPwrGoodFall (s : State) : Host.Outcome State Fault Refusal :=
  .next (if s.mod.pgLow then s
    else if s.mod.rails then s.coldReset.setMod (fun m => { m with pgLow := true })
    else s.setMod (fun m => { m with pgLow := true }))

/-- MOD_RESET_N has been low for 1 µs. -/
def execModuleReset (s : State) : Host.Outcome State Fault Refusal :=
  .next (if s.mod.rstLow then s
    else (if s.mod.rails && !s.mod.pgLow then s.deviceReset 1 else s).setMod (fun m => { m with rstLow := true }))

/-- MOD_RESET_N returns high: the boot starts at its first phase, with t0 now and the time base at zero (R311, R465). -/
def execModResetNRelease (s : State) : Host.Outcome State Fault Refusal :=
  .next (if !s.mod.rstLow then s
    else
      let s := s.setMod (fun m => { m with rstLow := false })
      if s.mod.rails && !s.mod.pgLow then
        { s with boot := { s.boot with t0 := s.now }, cns := { wdAt := s.now }, tick := {} } else s)

/-! ### JTAG (R460, R477) -/

/-- The JTAG port responds: from phase 2 of the boot on. -/
def State.jtagOn (s : State) : Bool :=
  s.mod.rails && !s.mod.pgLow && !s.mod.rstLow && decide (2 ≤ s.f .bootStat BOOT_STAT.PHASE)

/-- JTAG: IDCODE and BYPASS at every level, boundary scan from level 1, core debug and register space at level 2. An
instruction that the level does not offer does nothing. -/
def execJtag (op : JtagOp) (s : State) : Host.Outcome State Fault Refusal :=
  .next <|
  let level := s.f .secStat SEC_STAT.DEBUG
  let act (s : State) (v : Word) : State := s.setMod (fun m => { m with jtag := some op, tdo := v })
  if !s.jtagOn then s
  else match op with
  | .idcode => act s Config.idcode
  | .bypass => act s 0
  | .extest => if 1 ≤ level then act s 0 else s
  | .sample => if 1 ≤ level then act s 0 else s
  | .ac1149 => if 1 ≤ level then act s 0 else s
  | .core => if 2 ≤ level then act s 0 else s
  | .regRead a =>
    if 2 ≤ level then
      let r := s.readWord a.toNat
      act r.2.2 (BitVec.ofNat 64 r.2.1)
    else s
  | .regWrite a v => if 2 ≤ level then act (s.writeWord a.toNat v.toNat true).2 0 else s

/-! ### Board management (R520). An answer holds its completion code, then what R520 gives of it; the parts it leaves to
the DMTF specifications are free bytes (log entry 48). -/

/-- The I3C target answers: after phase 3 of the boot. -/
def State.i3cOn (s : State) : Bool :=
  s.mod.rails && !s.mod.pgLow && !s.mod.rstLow && decide (4 ≤ s.f .bootStat BOOT_STAT.PHASE)

/-- The answer on the bus; none while the target does not respond. -/
def State.answer (s : State) (d : List Byte) : State := s.setMod (fun m => { m with answer := if s.i3cOn then d else [] })

/-- Dynamic address assignment of a target that has none. -/
def State.assignAddr (s : State) (a : Byte) : State :=
  if s.i3cOn ∧ s.mod.dyn = none then s.setMod (fun m => { m with dyn := some (a.toNat % 128), answer := [] })
  else s.answer []

/-- SETDASA: the target's static address is 0x30 + I3C_ADDR. -/
def execSetdasa (addr : Byte) (s : State) : Host.Outcome State Fault Refusal := .next (s.assignAddr addr)

/-- ENTDAA. -/
def execEntdaa (addr : Byte) (s : State) : Host.Outcome State Fault Refusal := .next (s.assignAddr addr)

/-- Set Endpoint ID: 0x00 and 0xFF are no endpoint IDs (PRESUMED: DSP0236; log entry 48). -/
def execSetEndpointId (eid : Byte) (s : State) : Host.Outcome State Fault Refusal :=
  .next <|
  if !s.i3cOn then s.answer []
  else if eid = 0 ∨ eid = 0xFF then s.answer [2]
  else (s.setMod (fun m => { m with eid := eid.toNat })).answer (0 :: Config.busBytes 1 0)

/-- Get Endpoint ID. -/
def execGetEndpointId (s : State) : Host.Outcome State Fault Refusal :=
  .next (s.answer (0 :: leBytes 1 s.mod.eid ++ Config.busBytes 2 0))

/-- Get MCTP Version Support. -/
def execGetMctpVersionSupport (typ : Byte) (s : State) : Host.Outcome State Fault Refusal :=
  .next (s.answer (0 :: Config.busBytes 3 typ.toNat))

/-- Get Message Type Support: PLDM, message type 1, beside control (PRESUMED: DSP0239; log entry 48). -/
def execGetMessageTypeSupport (s : State) : Host.Outcome State Fault Refusal := .next (s.answer [0, 1, 1])

/-- GetTID. -/
def execGetTid (s : State) : Host.Outcome State Fault Refusal := .next (s.answer (0 :: Config.busBytes 5 0))

/-- The PLDM types of R520: base 0, platform monitoring and control 2. Another type is answered with
INVALID_PLDM_TYPE_IN_REQUEST_DATA (PRESUMED: DSP0240; log entry 48). -/
def pldmType (t : Nat) : Bool := t == 0 || t == 2

/-- GetPLDMVersion. -/
def execGetPldmVersion (typ : Byte) (s : State) : Host.Outcome State Fault Refusal :=
  .next (s.answer (if pldmType typ.toNat then 0 :: Config.busBytes 6 typ.toNat else [0x83]))

/-- GetPLDMTypes: a bit for each type. -/
def execGetPldmTypes (s : State) : Host.Outcome State Fault Refusal := .next (s.answer (0 :: leBytes 8 5))

/-- GetPLDMCommands: a bit for each command R520 names (command codes PRESUMED: DSP0240, DSP0248). -/
def execGetPldmCommands (typ : Byte) (s : State) : Host.Outcome State Fault Refusal :=
  let bits (l : List Nat) : Nat := l.foldl (fun (n : Nat) (i : Nat) => n ||| 2 ^ i) 0
  .next (s.answer (
    if typ = 0 then 0 :: leBytes 32 (bits [2, 3, 4, 5])
    else if typ = 2 then 0 :: leBytes 32 (bits [0x11, 0x31, 0x32, 0x51])
    else [0x83]))

/-- The value of a sensor: none where the ID names no sensor, inner none where it is unavailable. -/
def State.sensorValue (s : State) (id : Nat) : Option (Option Nat) :=
  if id = 1 then some (some (s.f .pwrInput PWR_INPUT.AVG_W))
  else if id = 2 then some (some (s.f .pwrInput PWR_INPUT.VIN_MV))
  else if id = 3 then some (some (s.f .pwrInput PWR_INPUT.IIN_DA))
  else if id = 4 then some (some (s.f .therm THERM.HOTTEST))
  else if 5 ≤ id ∧ id ≤ 12 then some (some (Tbl.get 0 s.pwr.temps (id - 5)))
  else if 13 ≤ id ∧ id ≤ 28 then
    some (if s.fuses.stacks.contains (id - 13) then some (s.f (.hbmTemp (id - 13)) HBM_TEMP.TEMP) else none)
  else none

/-- GetSensorReading: operational state 0 enabled or 2 unavailable, then the reading; an unknown ID is answered with
INVALID_SENSOR_ID (codes PRESUMED: DSP0248; log entry 48). -/
def execGetSensorReading (id : BitVec 16) (s : State) : Host.Outcome State Fault Refusal :=
  .next (s.answer (match s.sensorValue id.toNat with
    | none => [0x80]
    | some none => 0 :: 2 :: Config.busBytes 9 id.toNat
    | some (some v) => 0 :: 0 :: leBytes 4 v ++ Config.busBytes 9 id.toNat))

/-- GetNumericEffecterValue: the cap in force; an unknown ID is answered with INVALID_EFFECTER_ID. -/
def execGetNumericEffecterValue (id : BitVec 16) (s : State) : Host.Outcome State Fault Refusal :=
  .next (s.answer (if id = 1 then 0 :: leBytes 4 (s.f .pwrCtrl PWR_CTRL.CAP) ++ Config.busBytes 10 1 else [0x80]))

/-- SetNumericEffecterValue: 450 to 2,600 W; any other value is refused with ERROR_INVALID_DATA. -/
def execSetNumericEffecterValue (id : BitVec 16) (value : Word) (s : State) : Host.Outcome State Fault Refusal :=
  .next <|
  if !s.i3cOn then s.answer []
  else if id ≠ 1 then s.answer [0x80]
  else if value.toNat < 450 ∨ 2600 < value.toNat then s.answer [2]
  else (s.setF .pwrCtrl PWR_CTRL.CAP value.toNat).answer [0]

/-- GetPDR. -/
def execGetPdr (handle : BitVec 32) (s : State) : Host.Outcome State Fault Refusal :=
  .next (s.answer (0 :: Config.busBytes 12 handle.toNat))

end Sys2Proof.Machine
end

