-- ==== Sys2Proof/Machine/Dispatch.lean ====
section
/-! DEFINITION. The dispatch: one arm per command, each a direct call of its meaning. -/

namespace Sys2Proof.Machine

/-- The effect of a command on everything but the queue. -/
def exec (i : Instr) (s : State) : Host.Outcome State Fault Refusal :=
  match i with
  | .nop k => Sys2Proof.Machine.execNop k s
  | .identify k => Sys2Proof.Machine.execIdentify k s
  | .getInfo k => Sys2Proof.Machine.execGetInfo k s
  | .setDeviceId k => Sys2Proof.Machine.execSetDeviceId k s
  | .getCerts k => Sys2Proof.Machine.execGetCerts k s
  | .attest k => Sys2Proof.Machine.execAttest k s
  | .sessionOpen k => Sys2Proof.Machine.execSessionOpen k s
  | .keyImport k => Sys2Proof.Machine.execKeyImport k s
  | .debugUnlock k => Sys2Proof.Machine.execDebugUnlock k s
  | .fwStage k => Sys2Proof.Machine.execFwStage k s
  | .fwActivate k => Sys2Proof.Machine.execFwActivate k s
  | .imageStage k => Sys2Proof.Machine.execImageStage k s
  | .sectionLoad k => Sys2Proof.Machine.execSectionLoad k s
  | .sectionStart k => Sys2Proof.Machine.execSectionStart k s
  | .sectionSuspend k => Sys2Proof.Machine.execSectionSuspend k s
  | .sectionResume k => Sys2Proof.Machine.execSectionResume k s
  | .sectionUnload k => Sys2Proof.Machine.execSectionUnload k s
  | .sectionSwitch k => Sys2Proof.Machine.execSectionSwitch k s
  | .timeGet k => Sys2Proof.Machine.execTimeGet k s
  | .timeAdjust k => Sys2Proof.Machine.execTimeAdjust k s
  | .tickConfig k => Sys2Proof.Machine.execTickConfig k s
  | .tickRun k => Sys2Proof.Machine.execTickRun k s
  | .ptpConfig k => Sys2Proof.Machine.execPtpConfig k s
  | .windowOpen k => Sys2Proof.Machine.execWindowOpen k s
  | .windowClose k => Sys2Proof.Machine.execWindowClose k s
  | .regRead k => Sys2Proof.Machine.execRegRead k s
  | .regWrite k => Sys2Proof.Machine.execRegWrite k s
  | .telemetry k => Sys2Proof.Machine.execTelemetry k s
  | .powerState k => Sys2Proof.Machine.execPowerState k s
  | .powerCap k => Sys2Proof.Machine.execPowerCap k s
  | .calRead k => Sys2Proof.Machine.execCalRead k s
  | .calApply k => Sys2Proof.Machine.execCalApply k s
  | .cleatDump k => Sys2Proof.Machine.execCleatDump k s
  | .queueDump k => Sys2Proof.Machine.execQueueDump k s
  | .crashFetch k => Sys2Proof.Machine.execCrashFetch k s
  | .crashClear k => Sys2Proof.Machine.execCrashClear k s
  | .reset k => Sys2Proof.Machine.execReset k s
  | .abort k => Sys2Proof.Machine.execAbort k s
  | .cmd f => Sys2Proof.Machine.execCmd f s
  | .dataIn f => Sys2Proof.Machine.execDataIn f s
  | .commandResourceTimeout k => Sys2Proof.Machine.execCommandResourceTimeout k s
  | .commandDataTimeout k => Sys2Proof.Machine.execCommandDataTimeout k s
  | .mmaNop m w poisoned => Sys2Proof.Machine.execMmaNop m w poisoned s
  | .mma m w poisoned => Sys2Proof.Machine.execMma m w poisoned s
  | .mmaList m w poisoned => Sys2Proof.Machine.execMmaList m w poisoned s
  | .bTapDeliver m slot sail => Sys2Proof.Machine.execBTapDeliver m slot sail s
  | .jibNop j w poisoned => Sys2Proof.Machine.execJibNop j w poisoned s
  | .jibMov j w poisoned => Sys2Proof.Machine.execJibMov j w poisoned s
  | .jibAdd j w poisoned => Sys2Proof.Machine.execJibAdd j w poisoned s
  | .jibSub j w poisoned => Sys2Proof.Machine.execJibSub j w poisoned s
  | .jibMul j w poisoned => Sys2Proof.Machine.execJibMul j w poisoned s
  | .jibFma j w poisoned => Sys2Proof.Machine.execJibFma j w poisoned s
  | .jibMax j w poisoned => Sys2Proof.Machine.execJibMax j w poisoned s
  | .jibMin j w poisoned => Sys2Proof.Machine.execJibMin j w poisoned s
  | .jibAbs j w poisoned => Sys2Proof.Machine.execJibAbs j w poisoned s
  | .jibNeg j w poisoned => Sys2Proof.Machine.execJibNeg j w poisoned s
  | .jibAnd j w poisoned => Sys2Proof.Machine.execJibAnd j w poisoned s
  | .jibOr j w poisoned => Sys2Proof.Machine.execJibOr j w poisoned s
  | .jibXor j w poisoned => Sys2Proof.Machine.execJibXor j w poisoned s
  | .jibShl j w poisoned => Sys2Proof.Machine.execJibShl j w poisoned s
  | .jibShr j w poisoned => Sys2Proof.Machine.execJibShr j w poisoned s
  | .jibAsr j w poisoned => Sys2Proof.Machine.execJibAsr j w poisoned s
  | .jibCmpeq j w poisoned => Sys2Proof.Machine.execJibCmpeq j w poisoned s
  | .jibCmplt j w poisoned => Sys2Proof.Machine.execJibCmplt j w poisoned s
  | .jibCmple j w poisoned => Sys2Proof.Machine.execJibCmple j w poisoned s
  | .jibSel j w poisoned => Sys2Proof.Machine.execJibSel j w poisoned s
  | .jibCvt j w poisoned => Sys2Proof.Machine.execJibCvt j w poisoned s
  | .jibRcp j w poisoned => Sys2Proof.Machine.execJibRcp j w poisoned s
  | .jibDiv j w poisoned => Sys2Proof.Machine.execJibDiv j w poisoned s
  | .jibSqrt j w poisoned => Sys2Proof.Machine.execJibSqrt j w poisoned s
  | .jibRsqrt j w poisoned => Sys2Proof.Machine.execJibRsqrt j w poisoned s
  | .jibExp j w poisoned => Sys2Proof.Machine.execJibExp j w poisoned s
  | .jibExp2 j w poisoned => Sys2Proof.Machine.execJibExp2 j w poisoned s
  | .jibLog j w poisoned => Sys2Proof.Machine.execJibLog j w poisoned s
  | .jibLog2 j w poisoned => Sys2Proof.Machine.execJibLog2 j w poisoned s
  | .jibTanh j w poisoned => Sys2Proof.Machine.execJibTanh j w poisoned s
  | .jibSigmoid j w poisoned => Sys2Proof.Machine.execJibSigmoid j w poisoned s
  | .jibSilu j w poisoned => Sys2Proof.Machine.execJibSilu j w poisoned s
  | .jibGelu j w poisoned => Sys2Proof.Machine.execJibGelu j w poisoned s
  | .jibSin j w poisoned => Sys2Proof.Machine.execJibSin j w poisoned s
  | .jibCos j w poisoned => Sys2Proof.Machine.execJibCos j w poisoned s
  | .silumul j w poisoned => Sys2Proof.Machine.execSilumul j w poisoned s
  | .jibRsum j w poisoned => Sys2Proof.Machine.execJibRsum j w poisoned s
  | .jibRmax j w poisoned => Sys2Proof.Machine.execJibRmax j w poisoned s
  | .rmin j w poisoned => Sys2Proof.Machine.execRmin j w poisoned s
  | .argmax j w poisoned => Sys2Proof.Machine.execArgmax j w poisoned s
  | .rmaxrec j w poisoned => Sys2Proof.Machine.execRmaxrec j w poisoned s
  | .compress j w poisoned => Sys2Proof.Machine.execCompress j w poisoned s
  | .expand j w poisoned => Sys2Proof.Machine.execExpand j w poisoned s
  | .topk j w poisoned => Sys2Proof.Machine.execTopk j w poisoned s
  | .sample j w poisoned => Sys2Proof.Machine.execSample j w poisoned s
  | .treemask j w poisoned => Sys2Proof.Machine.execTreemask j w poisoned s
  | .smxupd j w poisoned => Sys2Proof.Machine.execSmxupd j w poisoned s
  | .quant j w poisoned => Sys2Proof.Machine.execQuant j w poisoned s
  | .rmsnorm j w poisoned => Sys2Proof.Machine.execRmsnorm j w poisoned s
  | .tmma j w poisoned => Sys2Proof.Machine.execTmma j w poisoned s
  | .ttrans j w poisoned => Sys2Proof.Machine.execTtrans j w poisoned s
  | .hrecv j w poisoned => Sys2Proof.Machine.execHrecv j w poisoned s
  | .fireCompute m n => Sys2Proof.Machine.execFireCompute m n s
  | .switch m n => Sys2Proof.Machine.execSwitch m n s
  | .select m n => Sys2Proof.Machine.execSelect m n s
  | .merge m n => Sys2Proof.Machine.execMerge m n s
  | .shvNop m n => Sys2Proof.Machine.execShvNop m n s
  | .shvMov m n => Sys2Proof.Machine.execShvMov m n s
  | .shvAdd m n => Sys2Proof.Machine.execShvAdd m n s
  | .shvSub m n => Sys2Proof.Machine.execShvSub m n s
  | .shvMul m n => Sys2Proof.Machine.execShvMul m n s
  | .shvFma m n => Sys2Proof.Machine.execShvFma m n s
  | .shvMax m n => Sys2Proof.Machine.execShvMax m n s
  | .shvMin m n => Sys2Proof.Machine.execShvMin m n s
  | .shvAbs m n => Sys2Proof.Machine.execShvAbs m n s
  | .shvNeg m n => Sys2Proof.Machine.execShvNeg m n s
  | .shvAnd m n => Sys2Proof.Machine.execShvAnd m n s
  | .shvOr m n => Sys2Proof.Machine.execShvOr m n s
  | .shvXor m n => Sys2Proof.Machine.execShvXor m n s
  | .shvShl m n => Sys2Proof.Machine.execShvShl m n s
  | .shvShr m n => Sys2Proof.Machine.execShvShr m n s
  | .shvAsr m n => Sys2Proof.Machine.execShvAsr m n s
  | .shvCmpeq m n => Sys2Proof.Machine.execShvCmpeq m n s
  | .shvCmplt m n => Sys2Proof.Machine.execShvCmplt m n s
  | .shvCmple m n => Sys2Proof.Machine.execShvCmple m n s
  | .shvSel m n => Sys2Proof.Machine.execShvSel m n s
  | .shvCvt m n => Sys2Proof.Machine.execShvCvt m n s
  | .shvRsum m n => Sys2Proof.Machine.execShvRsum m n s
  | .shvRmax m n => Sys2Proof.Machine.execShvRmax m n s
  | .lane m n => Sys2Proof.Machine.execLane m n s
  | .ins m n => Sys2Proof.Machine.execIns m n s
  | .tag m n => Sys2Proof.Machine.execTag m n s
  | .srcCoil m p => Sys2Proof.Machine.execSrcCoil m p s
  | .srcTick m p => Sys2Proof.Machine.execSrcTick m p s
  | .srcHalyard m p => Sys2Proof.Machine.execSrcHalyard m p s
  | .snkCoil m p => Sys2Proof.Machine.execSnkCoil m p s
  | .snkCleat m p => Sys2Proof.Machine.execSnkCleat m p s
  | .snkStep m p => Sys2Proof.Machine.execSnkStep m p s
  | .spillArrival m e => Sys2Proof.Machine.execSpillArrival m e s
  | .spillRefill m e => Sys2Proof.Machine.execSpillRefill m e s
  | .stopSrc m => Sys2Proof.Machine.execStopSrc m s
  | .drain m => Sys2Proof.Machine.execDrain m s
  | .drainDone m => Sys2Proof.Machine.execDrainDone m s
  | .stallWatchdog m => Sys2Proof.Machine.execStallWatchdog m s
  | .coilReserve m k unit => Sys2Proof.Machine.execCoilReserve m k unit s
  | .coilCommit m k n => Sys2Proof.Machine.execCoilCommit m k n s
  | .coilClaim m k unit => Sys2Proof.Machine.execCoilClaim m k unit s
  | .coilRelease m k n => Sys2Proof.Machine.execCoilRelease m k n s
  | .memRead unit ad n met => Sys2Proof.Machine.execMemRead unit ad n met s
  | .memWrite dev unit ad d met => Sys2Proof.Machine.execMemWrite dev unit ad d met s
  | .stridedRead unit a e n rows => Sys2Proof.Machine.execStridedRead unit a e n rows s
  | .transposedRead unit a rows => Sys2Proof.Machine.execTransposedRead unit a rows s
  | .scoreboardRelease unit => Sys2Proof.Machine.execScoreboardRelease unit s
  | .scrubLine m ecc => Sys2Proof.Machine.execScrubLine m ecc s
  | .flStepEntry f => Sys2Proof.Machine.execFlStepEntry f s
  | .flDescInstall f => Sys2Proof.Machine.execFlDescInstall f s
  | .flDescDeliver f k => Sys2Proof.Machine.execFlDescDeliver f k s
  | .flPrefetch f k => Sys2Proof.Machine.execFlPrefetch f k s
  | .flLineRequest f => Sys2Proof.Machine.execFlLineRequest f s
  | .flDescComplete f k => Sys2Proof.Machine.execFlDescComplete f k s
  | .scLineRequest h line kind pol k ecc => Sys2Proof.Machine.execScLineRequest h line kind pol k ecc s
  | .scFill h => Sys2Proof.Machine.execScFill h s
  | .clean h all => Sys2Proof.Machine.execClean h all s
  | .cleanInv h all => Sys2Proof.Machine.execCleanInv h all s
  | .hbmRequest h k sector ecc ondie => Sys2Proof.Machine.execHbmRequest h k sector ecc ondie s
  | .hbmCeRewrite h => Sys2Proof.Machine.execHbmCeRewrite h s
  | .hbmRefresh h bank ns => Sys2Proof.Machine.execHbmRefresh h bank ns s
  | .hbmTempRead h temp => Sys2Proof.Machine.execHbmTempRead h temp s
  | .hbmPatrolScrub h ecc => Sys2Proof.Machine.execHbmPatrolScrub h ecc s
  | .hbmMap v => Sys2Proof.Machine.execHbmMap v s
  | .hbmMapApply => Sys2Proof.Machine.execHbmMapApply s
  | .hbmKr k w0 w1 => Sys2Proof.Machine.execHbmKr k w0 w1 s
  | .hbmKrApply k => Sys2Proof.Machine.execHbmKrApply k s
  | .tkNop m w poisoned => Sys2Proof.Machine.execTkNop m w poisoned s
  | .copy m w poisoned => Sys2Proof.Machine.execCopy m w poisoned s
  | .gather m w poisoned => Sys2Proof.Machine.execGather m w poisoned s
  | .scatter m w poisoned => Sys2Proof.Machine.execScatter m w poisoned s
  | .bgather m w poisoned => Sys2Proof.Machine.execBgather m w poisoned s
  | .bscatter m w poisoned => Sys2Proof.Machine.execBscatter m w poisoned s
  | .cleatRead h => Sys2Proof.Machine.execCleatRead h s
  | .cleatWaitGe h n consume tmo => Sys2Proof.Machine.execCleatWaitGe h n consume tmo s
  | .cleatAdd h n st => Sys2Proof.Machine.execCleatAdd h n st s
  | .cleatSub h n st => Sys2Proof.Machine.execCleatSub h n st s
  | .cleatTake h n st => Sys2Proof.Machine.execCleatTake h n st s
  | .cleatSet h v renew => Sys2Proof.Machine.execCleatSet h v renew s
  | .cleatWaitEnter seg => Sys2Proof.Machine.execCleatWaitEnter seg s
  | .cleatWaitTimeout issuer index => Sys2Proof.Machine.execCleatWaitTimeout issuer index s
  | .proxyCleatOp k => Sys2Proof.Machine.execProxyCleatOp k s
  | .shroudArrive f => Sys2Proof.Machine.execShroudArrive f s
  | .shroudRelease f => Sys2Proof.Machine.execShroudRelease f s
  | .tickEdge => Sys2Proof.Machine.execTickEdge s
  | .sectionEdge sec => Sys2Proof.Machine.execSectionEdge sec s
  | .endOfStep unit => Sys2Proof.Machine.execEndOfStep unit s
  | .stepDeadline sec => Sys2Proof.Machine.execStepDeadline sec s
  | .stepGraceExpiry sec => Sys2Proof.Machine.execStepGraceExpiry sec s
  | .tickInEdge sub => Sys2Proof.Machine.execTickInEdge sub s
  | .tickInMiss => Sys2Proof.Machine.execTickInMiss s
  | .ppsInEdge sub => Sys2Proof.Machine.execPpsInEdge sub s
  | .tbStep v => Sys2Proof.Machine.execTbStep v s
  | .raddElement f => Sys2Proof.Machine.execRaddElement f s
  | .raddTrailer f => Sys2Proof.Machine.execRaddTrailer f s
  | .raddRetry => Sys2Proof.Machine.execRaddRetry s
  | .bucketArm e => Sys2Proof.Machine.execBucketArm e s
  | .bucketArmDone e => Sys2Proof.Machine.execBucketArmDone e s
  | .roundComplete e => Sys2Proof.Machine.execRoundComplete e s
  | .roundTimeout e => Sys2Proof.Machine.execRoundTimeout e s
  | .ordApply o => Sys2Proof.Machine.execOrdApply o s
  | .halSendTrigger o slot => Sys2Proof.Machine.execHalSendTrigger o slot s
  | .halReserve o slot => Sys2Proof.Machine.execHalReserve o slot s
  | .halMessageLand src => Sys2Proof.Machine.execHalMessageLand src s
  | .notificationEnter e => Sys2Proof.Machine.execNotificationEnter e s
  | .halResend o slot => Sys2Proof.Machine.execHalResend o slot s
  | .halSendTimeout o slot => Sys2Proof.Machine.execHalSendTimeout o slot s
  | .halRlimitTimeout o c slot => Sys2Proof.Machine.execHalRlimitTimeout o c slot s
  | .halNote c => Sys2Proof.Machine.execHalNote c s
  | .halRel o c n => Sys2Proof.Machine.execHalRel o c n s
  | .halSend o slot w0 w1 => Sys2Proof.Machine.execHalSend o slot w0 w1 s
  | .write f => Sys2Proof.Machine.execWrite f s
  | .readReq f => Sys2Proof.Machine.execReadReq f s
  | .readResp f => Sys2Proof.Machine.execReadResp f s
  | .cleatOp f => Sys2Proof.Machine.execCleatOp f s
  | .ack f => Sys2Proof.Machine.execAck f s
  | .nak f => Sys2Proof.Machine.execNak f s
  | .heartbeat f => Sys2Proof.Machine.execHeartbeat f s
  | .abortFrame f => Sys2Proof.Machine.execAbortFrame f s
  | .openConn f => Sys2Proof.Machine.execOpenConn f s
  | .openAck f => Sys2Proof.Machine.execOpenAck f s
  | .closeConn f => Sys2Proof.Machine.execCloseConn f s
  | .closeAck f => Sys2Proof.Machine.execCloseAck f s
  | .ethernetFrameRx port sub good prot bytes => Sys2Proof.Machine.execEthernetFrameRx port sub good prot bytes s
  | .retransmitTimeout c => Sys2Proof.Machine.execRetransmitTimeout c s
  | .openRetry c => Sys2Proof.Machine.execOpenRetry c s
  | .closeRetry c => Sys2Proof.Machine.execCloseRetry c s
  | .ackDelay c => Sys2Proof.Machine.execAckDelay c s
  | .heartbeatSend c => Sys2Proof.Machine.execHeartbeatSend c s
  | .heartbeatLoss c => Sys2Proof.Machine.execHeartbeatLoss c s
  | .linkDown port sub => Sys2Proof.Machine.execLinkDown port sub s
  | .linkUp port sub verify => Sys2Proof.Machine.execLinkUp port sub verify s
  | .connOpen c => Sys2Proof.Machine.execConnOpen c s
  | .connClose c => Sys2Proof.Machine.execConnClose c s
  | .connReset c => Sys2Proof.Machine.execConnReset c s
  | .winOpen w => Sys2Proof.Machine.execWinOpen w s
  | .winClose w => Sys2Proof.Machine.execWinClose w s
  | .windowCloseDone w => Sys2Proof.Machine.execWindowCloseDone w s
  | .portTxts port sub => Sys2Proof.Machine.execPortTxts port sub s
  | .trigger => Sys2Proof.Machine.execTrigger s
  | .abortQuiet => Sys2Proof.Machine.execAbortQuiet s
  | .abortForce => Sys2Proof.Machine.execAbortForce s
  | .kick => Sys2Proof.Machine.execKick s
  | .cnWdStage1 => Sys2Proof.Machine.execCnWdStage1 s
  | .cnRestart sram => Sys2Proof.Machine.execCnRestart sram s
  | .sectionStartEdge sec => Sys2Proof.Machine.execSectionStartEdge sec s
  | .sectionResumeEdge sec => Sys2Proof.Machine.execSectionResumeEdge sec s
  | .switchCutoff sec => Sys2Proof.Machine.execSwitchCutoff sec s
  | .switchWrite sec => Sys2Proof.Machine.execSwitchWrite sec s
  | .suspendSave sec => Sys2Proof.Machine.execSuspendSave sec s
  | .suspendTimeout sec => Sys2Proof.Machine.execSuspendTimeout sec s
  | .coldReset => Sys2Proof.Machine.execColdReset s
  | .moduleReset => Sys2Proof.Machine.execModuleReset s
  | .warmReset => Sys2Proof.Machine.execWarmReset s
  | .mastReset m => Sys2Proof.Machine.execMastReset m s
  | .portReset port => Sys2Proof.Machine.execPortReset port s
  | .bootPhaseAdvance cached fails => Sys2Proof.Machine.execBootPhaseAdvance cached fails s
  | .mastSleepEntry m => Sys2Proof.Machine.execMastSleepEntry m s
  | .mastSleepReturn m => Sys2Proof.Machine.execMastSleepReturn m s
  | .mastIdleTransition m => Sys2Proof.Machine.execMastIdleTransition m s
  | .powerSample mv da => Sys2Proof.Machine.execPowerSample mv da s
  | .gearChange => Sys2Proof.Machine.execGearChange s
  | .thermalTrip temps => Sys2Proof.Machine.execThermalTrip temps s
  | .thermalResume temps => Sys2Proof.Machine.execThermalResume temps s
  | .thermalShutdown temps => Sys2Proof.Machine.execThermalShutdown temps s
  | .enableMate mv => Sys2Proof.Machine.execEnableMate mv s
  | .powerUpDone => Sys2Proof.Machine.execPowerUpDone s
  | .enableBreak => Sys2Proof.Machine.execEnableBreak s
  | .vinOvervoltage mv => Sys2Proof.Machine.execVinOvervoltage mv s
  | .vinUndervoltage mv => Sys2Proof.Machine.execVinUndervoltage mv s
  | .crashDumpWrite found => Sys2Proof.Machine.execCrashDumpWrite found s
  | .fatalMastReset m => Sys2Proof.Machine.execFatalMastReset m s
  | .ceSummary => Sys2Proof.Machine.execCeSummary s
  | .devId v => Sys2Proof.Machine.execDevId v s
  | .registerWrite addr value => Sys2Proof.Machine.execRegisterWrite addr value s
  | .setdasa addr => Sys2Proof.Machine.execSetdasa addr s
  | .entdaa addr => Sys2Proof.Machine.execEntdaa addr s
  | .setEndpointId eid => Sys2Proof.Machine.execSetEndpointId eid s
  | .getEndpointId => Sys2Proof.Machine.execGetEndpointId s
  | .getMctpVersionSupport typ => Sys2Proof.Machine.execGetMctpVersionSupport typ s
  | .getMessageTypeSupport => Sys2Proof.Machine.execGetMessageTypeSupport s
  | .getTid => Sys2Proof.Machine.execGetTid s
  | .getPldmVersion typ => Sys2Proof.Machine.execGetPldmVersion typ s
  | .getPldmTypes => Sys2Proof.Machine.execGetPldmTypes s
  | .getPldmCommands typ => Sys2Proof.Machine.execGetPldmCommands typ s
  | .getSensorReading id => Sys2Proof.Machine.execGetSensorReading id s
  | .getNumericEffecterValue id => Sys2Proof.Machine.execGetNumericEffecterValue id s
  | .setNumericEffecterValue id value => Sys2Proof.Machine.execSetNumericEffecterValue id value s
  | .getPdr handle => Sys2Proof.Machine.execGetPdr handle s
  | .registerRead addr => Sys2Proof.Machine.execRegisterRead addr s
  | .modResetNRelease => Sys2Proof.Machine.execModResetNRelease s
  | .pwrGoodFall => Sys2Proof.Machine.execPwrGoodFall s
  | .vinRising mv => Sys2Proof.Machine.execVinRising mv s
  | .vinOvervoltageEnd mv => Sys2Proof.Machine.execVinOvervoltageEnd mv s
  | .jtag op => Sys2Proof.Machine.execJtag op s
  | .pfcFrame port sub enable quanta => Sys2Proof.Machine.execPfcFrame port sub enable quanta s
  | .control f => Sys2Proof.Machine.execControl f s

end Sys2Proof.Machine
end

