-- ==== Sys2Proof/Safety.lean ====
section
/-! DEFINITION. What a safe run is, in the terms statements use: the block always answers, its memories keep their canonical
form, nothing changes what was fused; and the names statements share for the course of a mailbox command. -/

namespace Sys2Proof

/-- A step goes on: neither a fault nor a refusal. -/
def Answers (o : Host.Outcome Machine.State Machine.Fault Machine.Refusal) : Prop := ∃ t, o = .next t

/-- Memory, boot flash and the register store of every jib are in canonical form. -/
def Canonical (s : Machine.State) : Prop :=
  Machine.Memory.wf s.mem = true ∧ Machine.Memory.wf s.boot.flash = true ∧
  ∀ e ∈ s.jibs, Machine.Memory.wf e.2.store = true

/-- One byte of memory as a read returns it: a read that overlaps a tracked write in flight stalls until that write is
accepted, and sees it (R190). -/
def byteAt (s : Machine.State) (a : Nat) : Byte := s.byte a

/-- One byte of memory as it stands in the array, decrypted, no write in flight counted. -/
def cellAt (s : Machine.State) (a : Nat) : Byte := s.stored a

/-- Memory is in canonical form, and unit `u` has no write that is not accepted. -/
def Settled (s : Machine.State) (u : Nat) : Prop := Canonical s ∧ s.unsettled s.dev u = false

/-- Memory is in canonical form, and no write waits at a full scoreboard. -/
def Calm (s : Machine.State) : Prop := Canonical s ∧ ∀ x ∈ s.chip.writes, x.waiting = false

/-- Nothing that unit `u` has issued holds back a release of it (R194, R299): its writes are accepted, here and elsewhere, and
no earlier release of it waits. -/
def Released (s : Machine.State) (u : Nat) : Prop :=
  s.unsettled s.dev u = false ∧ s.remoteOwes u s.net.nextId = false ∧ ∀ h ∈ s.clt.held, h.unit ≠ s.gid u

/-- A cleat operation of an issuer of another device, or of one that nothing holds back (R194, R299). -/
def Unheld (s : Machine.State) (issuer : Nat) : Prop :=
  issuer / 65536 ≠ s.dev ∨ (s.unsettled s.dev (issuer % 65536) = false ∧
    s.remoteOwes (issuer % 65536) s.net.nextId = false ∧ ∀ h ∈ s.clt.held, h.unit ≠ issuer)

/-- The front-ends, banks and slices that serve reads: what a read may change beside what it returns (R179, R190, R210). -/
def ReadRegs (r : Machine.Reg) : Prop :=
  (∃ m, r = .memMerged m) ∨ (∃ m, r = .memSbStall m) ∨ (∃ h, r = .scHits h) ∨ (∃ h, r = .scMisses h)

/-- `t` differs from `s` in register words alone, and in those of the registers of `rs` alone: every other piece of
state, every byte of memory and every other register is as before. -/
def OnlyRegs (rs : List Machine.Reg) (s t : Machine.State) : Prop :=
  { t with regs := s.regs } = s ∧ ∀ r, r ∉ rs → t.rd r = s.rd r

/-- Every field of register `r` but those of `Fs` keeps its value. -/
def OnlyFields (r : Machine.Reg) (Fs : List Machine.Field) (s t : Machine.State) : Prop :=
  ∀ F ∈ Machine.Reg.fields r, F.w = Machine.Reg.word r → F ∉ Fs → t.f r F = s.f r F

/-- The command `c` of opcode `op` can start at mailbox `i` (R408). -/
def Ready (s : Machine.State) (i op : Nat) (c : Machine.MbxCmd) : Prop := s.mbxReady i op = some c

/-- A command once it has started, at the time of `s`. -/
def begun (s : Machine.State) (c : Machine.MbxCmd) : Machine.MbxCmd := { c with start := some s.now }

/-- The state in which a ready command executes: it has started, and nothing else has changed. -/
def started (s : Machine.State) (i : Nat) (c : Machine.MbxCmd) : Machine.State := s.updCmd i c.seq (fun _ => begun s c)

/-- A started command `c` of mailbox `i` completes in `t` with a status, a result and DATA_OUT. -/
def completed (t s : Machine.State) (i : Nat) (c : Machine.MbxCmd) (st : Status) (res out : List Byte := []) :
    Machine.State := t.mbxDone i (begun s c) st res out

/-- A command once it is under way. -/
def ran (s : Machine.State) (c : Machine.MbxCmd) : Machine.MbxCmd := { begun s c with running := true }

/-- The state in which a command under way executes. -/
def underWay (s : Machine.State) (i : Nat) (c : Machine.MbxCmd) : Machine.State := s.updCmd i c.seq (fun _ => ran s c)

/-- The connection a received frame names. -/
def frameConn (f : Frame) : Nat := f.conn.toNat % 4096

/-- A frame of type `typ` that uses a connection passes steps 1 to 7 of R366, and its port takes it (R347, R349). -/
def Arrives (s : Machine.State) (f : Frame) (typ : Nat) : Prop :=
  (s.fecCount f).portRefuses f = none ∧ Machine.frameBad f typ = false ∧ Machine.bitN f.verFlags.toNat 0 = false ∧
  s.cn (frameConn f) Machine.CN.VALID = 1 ∧
  (s.cn (frameConn f) Machine.CN.HOST = 1 ∨
    (s.cn (frameConn f) Machine.CN.HOST = 0 ∧ s.cn (frameConn f) Machine.CN.PEER = f.srcDev.toNat ∧ s.devAssigned = true)) ∧
  s.cn (frameConn f) Machine.CN.EPOCH = f.conn.toNat / 4096 ∧
  s.cn (frameConn f) Machine.CN.STATE ∈ [Machine.cnOpen, Machine.cnClosing] ∧
  (s.cn (frameConn f) Machine.CN.PROT = 1 →
    ((s.conn (frameConn f)).rxKey.map (Machine.frameTagOk f)).getD false = true)

/-- The connection has heard a frame: the FEC codewords it came in, its times, its time stamp echo and its ECE mark (R364,
R369, R370, R374). -/
def heard (s : Machine.State) (f : Frame) : Machine.State :=
  (s.fecCount f).setConn (frameConn f) { s.conn (frameConn f) with
    lastRx := s.now, tsRecent := f.tsVal.toNat
    ece := (s.conn (frameConn f)).ece || (f.ce && s.cn (frameConn f) Machine.CN.ECN == 1) }

/-- Step 9 of R366: this device is the frame's destination, or it has no ID yet and the frame came from a host. -/
def mine (s : Machine.State) (f : Frame) : Bool :=
  f.dstDev.toNat == s.dev && s.devAssigned || (!s.devAssigned && s.cn (frameConn f) Machine.CN.HOST == 1)

/-- The acknowledgement a sequenced frame carries has been taken, if the frame is for this device (R362). -/
def acked (s : Machine.State) (f : Frame) : Machine.State :=
  if mine s f then (heard s f).ackFrames (frameConn f) (Machine.covers f.ackSeq.toNat []) f.tsEcr.toNat else heard s f

/-- A sequenced frame is new and within the window (R361, R366 step 8). -/
def Unseen (s : Machine.State) (f : Frame) : Prop :=
  (acked s f).cn (frameConn f) Machine.CN.STATE ∈ [Machine.cnOpen, Machine.cnClosing] ∧
  Machine.serDist f.seq.toNat ((acked s f).rcvNxt (frameConn f)) < 4096 ∧
  ((acked s f).conn (frameConn f)).marked.contains f.seq.toNat = false

/-- A sequenced frame is new and within the window, and this device is its destination (R361, R366 steps 8 and 9). -/
def Fresh (s : Machine.State) (f : Frame) : Prop := Unseen s f ∧ mine s f = true

/-- A new frame is marked as received (R361). -/
def marked (s : Machine.State) (f : Frame) : Machine.State :=
  (acked s f).markFrame (frameConn f) f.seq.toNat (Machine.bitN f.verFlags.toNat 1)

/-- The state in which a new frame takes its effect: it is marked, and the links its flits cross have counted their errors
(R28, R361). -/
def taken (s : Machine.State) (f : Frame) : Machine.State := (marked s f).meshErrors f.mesh

/-- What follows a frame's effect `t`, complete with a status (R362) or not yet: trailers that waited for it are taken, and the
shroud logic looks at its cleats. -/
def framed (t : Machine.State) (f : Frame) (st : Option Status) : Machine.State :=
  ((match st with
    | some x => t.completeFrame (frameConn f) f.seq.toNat x
    | none => t).earlyTrailers (frameConn f)).shroudPass

/-- The rows of sequenced frames on a connection: row, type, and the kind or subtype the row fixes. -/
def frameRows : List ((Frame → Instr) × Nat × Nat) :=
  [(.write, Machine.tWrite, 0), (.readReq, Machine.tReadReq, 0), (.readResp, Machine.tReadResp, 0),
   (.raddElement, Machine.tRadd, 0), (.raddTrailer, Machine.tRadd, 1), (.cleatOp, Machine.tCleatOp, 0),
   (.shroudArrive, Machine.tShroud, 0), (.shroudRelease, Machine.tShroud, 1), (.cmd, Machine.tControl, 0x10),
   (.dataIn, Machine.tControl, 0x12)]

/-- The state in which a cleat operation reaches its cleat unit: the links its flits cross have counted their errors (R28). -/
def crossed (s : Machine.State) (h : CltHdr) : Machine.State := s.meshErrors h.mesh

/-- A cleat operation passes every check of R303 against an active cleat of this device, whose pending waits are none. -/
def CleatTakes (s : Machine.State) (h : CltHdr) : Prop :=
  h.index.toNat ≤ Machine.cleatMax ∧ s.isProxy h.index.toNat = false ∧
  (Machine.cleatSeg h.index.toNat < 8 → s.mastPower (Machine.cleatSeg h.index.toNat) ≠ 2) ∧
  (s.cleat h.index.toNat).st = .active ∧ (h.chk = true → h.epoch.toNat = (s.cleat h.index.toNat).epoch) ∧
  s.waitsOn h.index.toNat = []

/-- A frame that uses no connection passes steps 1 and 2 of R366 as a CONTROL frame, and its port takes it. -/
def ArrivesNc (s : Machine.State) (f : Frame) : Prop :=
  (s.fecCount f).portRefuses f = none ∧ Machine.frameBad f Machine.tControl = false ∧ Machine.bitN f.verFlags.toNat 0 = true

/-- Connection `c` has no remote operation in flight, and its loss does not lose a device. -/
def LosesNothing (s : Machine.State) (c : Nat) : Prop :=
  (∀ o ∈ s.net.ops, o.cn ≠ c) ∧
  (s.cn c Machine.CN.STATE ≠ Machine.cnOpen ∨ s.cn c Machine.CN.HOST = 1 ∨
    ∃ d, d ≠ c ∧ d ∈ s.openTo (s.cn c Machine.CN.PEER))

/-- In `t` connection `c` is LOST with a cause, its frames have left the queues, and no byte of memory has changed. -/
def LostWith (s t : Machine.State) (c cause : Nat) : Prop :=
  t.cn c Machine.CN.STATE = Machine.cnLost ∧ t.cn c Machine.CN.CAUSE = cause ∧ t.mem = s.mem ∧
  ∀ f ∈ s.net.txq, f.cn = c → f ∉ t.net.txq

/-- `t` is what a cold reset leaves of `s`: every register but RST_CAUSE at its reset value, memory outside HBM cleared, no
mailbox, connection or section; fuses and boot flash stay. -/
def ColdFrom (s t : Machine.State) : Prop :=
  (∀ r, r ≠ .rstCause → t.rd r = BitVec.ofNat 64 (Machine.Reg.resetWord r + s.fuses.word r)) ∧
  (∀ a, s.fuses.hbmSize ≤ a → byteAt t a = 0) ∧ t.mbx = [] ∧ t.net = {} ∧ t.secs = [] ∧
  t.fuses = s.fuses ∧ t.boot.flash = s.boot.flash ∧ t.refs = s.refs ∧ t.pending = s.pending

/-- The sequencer of mast `m` issues the macro-instruction `w` (R76, R98, R99, R102, R138): its mast and its section run, no
drain, an edge has started a step that it has not ended, its program is not over and has these words at PC, nothing of an
earlier one is outstanding, the number of the next operation is free, no write waits at a full scoreboard, the
macro-instruction names the mast, or none, and waits for no cleat. -/
def TileIssues (s : Machine.State) (m : Nat) (w : List Word) (p : Bool) : Prop :=
  s.mastRuns m = true ∧ s.bit (.fabCtrl m) Machine.FAB_CTRL.DRAIN = false ∧ s.stepping (Machine.uSeq m) = true ∧
  s.bit (.seqStat m) Machine.SEQ_STAT.STEP_DONE = false ∧ s.engPending (.seq m) = false ∧
  s.f (.seqStat m) Machine.SEQ_STAT.PC < s.f (.seqProg m) Machine.SEQ_PROG.LENGTH ∧ s.seqFetch m = (w, p) ∧
  s.mmaRun m = none ∧ (∀ p ∈ s.net.pends, p.id ≠ s.net.nextId) ∧ Calm s ∧
  (p = true ∨ Machine.wf w 0 31 24 = 0 ∨ Machine.bitN (Machine.wf w 0 31 24) m = true) ∧
  (p = true ∨ Machine.wf w 4 31 16 = 0 ∨ Machine.cleatMax < Machine.wf w 4 15 0)

/-- Where mast `m` puts the completion record of a macro-instruction (R97). -/
def tileRecord (m : Nat) (w : List Word) : Nat :=
  Machine.actBase m + Machine.wf w 4 58 33 +
    16 * ((Machine.bitsOf 8 (Machine.wf w 0 31 24)).filter (fun k => decide (k < m))).length

/-- In `t` the macro-instruction of opcode `op` has completed with a status (R97, R98, R102). -/
def TileEnds (s t : Machine.State) (m : Nat) (w : List Word) (op : Nat) (st : Status) : Prop :=
  t.f (.seqStat m) Machine.SEQ_STAT.LAST_STATUS = (s.recStatus (Machine.uSeq m) st).code ∧
  t.bit (.seqStat m) Machine.SEQ_STAT.BUSY = false ∧ t.bit (.seqStat m) Machine.SEQ_STAT.WAITING = false ∧
  t.f (.seqStat m) Machine.SEQ_STAT.PC = (s.f (.seqStat m) Machine.SEQ_STAT.PC + 1) % 65536 ∧
  (∀ i, i < 16 → t.bit (.sailStat m i) Machine.SAIL_STAT.BUSY = false) ∧
  (Machine.wb w 0 17 = true → t.bit (.seqStat m) Machine.SEQ_STAT.STEP_DONE = true ∧
    (Machine.uSeq m, s.tbNs) ∈ t.tick.reports) ∧
  (∀ F, Machine.seqErrField st = some F → t.bit (.seqErr m) F = true) ∧
  (Machine.wf w 0 63 48 = 0xFFFF → s.access (.unit (Machine.uSeq m)) true (tileRecord m w) 16 = .done →
    byteAt t (tileRecord m w) = BitVec.ofNat 8 (s.recStatus (Machine.uSeq m) st).code ∧
    byteAt t (tileRecord m w + 3) = BitVec.ofNat 8 op)

/-- Every byte of memory outside the completion record is in `t` as in `u`, where no cleat is signalled. -/
def TileStored (u t : Machine.State) (m : Nat) (w : List Word) : Prop :=
  Machine.wf w 0 63 48 = 0xFFFF → ∀ a, a < tileRecord m w ∨ tileRecord m w + 16 ≤ a → byteAt t a = byteAt u a

/-- The rows of jib instructions that are not HRECV, with their operations (R152). -/
def jibRows : List ((Fin 32 → List Word → Bool → Instr) × Nat) :=
  [(.jibNop, 0x00), (.jibMov, 0x01), (.jibAdd, 0x02), (.jibSub, 0x03), (.jibMul, 0x04), (.jibFma, 0x05),
   (.jibMax, 0x06), (.jibMin, 0x07), (.jibAbs, 0x08), (.jibNeg, 0x09), (.jibAnd, 0x0A), (.jibOr, 0x0B),
   (.jibXor, 0x0C), (.jibShl, 0x0D), (.jibShr, 0x0E), (.jibAsr, 0x0F), (.jibCmpeq, 0x10), (.jibCmplt, 0x11),
   (.jibCmple, 0x12), (.jibSel, 0x13), (.jibCvt, 0x14), (.jibRcp, 0x20), (.jibDiv, 0x21), (.jibSqrt, 0x22),
   (.jibRsqrt, 0x23), (.jibExp, 0x24), (.jibExp2, 0x25), (.jibLog, 0x26), (.jibLog2, 0x27), (.jibTanh, 0x28),
   (.jibSigmoid, 0x29), (.jibSilu, 0x2A), (.jibGelu, 0x2B), (.jibSin, 0x2C), (.jibCos, 0x2D), (.silumul, 0x2E),
   (.jibRsum, 0x40), (.jibRmax, 0x41), (.rmin, 0x42), (.argmax, 0x43), (.rmaxrec, 0x44), (.compress, 0x50),
   (.expand, 0x51), (.topk, 0x52), (.sample, 0x53), (.treemask, 0x54), (.smxupd, 0x55), (.quant, 0x56),
   (.rmsnorm, 0x57), (.tmma, 0x60), (.ttrans, 0x61)]

/-- Jib `j` issues the instruction `w` by the row of operation `op`, and it waits for no cleat (R146, R147): its mast runs,
an edge has started a step that it has not ended, its program is not over and has these words at PC, and the operation they
name, if they name one, is the row's; no write waits at a full scoreboard. -/
def JibIssues (s : Machine.State) (j : Nat) (w : List Word) (p : Bool) (op : Nat) : Prop :=
  s.mastRuns (j / 4) = true ∧ s.stepping (Machine.uJib j) = true ∧
  s.bit (.jibStat (j / 4) (j % 4)) Machine.JIB_STAT.STEP_DONE = false ∧
  s.f (.jibStat (j / 4) (j % 4)) Machine.JIB_STAT.PC < s.f (.jibProg (j / 4) (j % 4)) Machine.JIB_PROG.LENGTH ∧
  s.jibFetch j = (w, p) ∧ (Machine.jibOps.contains (Machine.jw w 0 7 0) = true → Machine.jw w 0 7 0 = op) ∧
  Calm s ∧
  (p = true ∨ Machine.jw w 1 31 16 = 0 ∨ Machine.cleatMax < Machine.jw w 1 15 0)

/-- Where jib `j` puts the completion record of its next instruction (R168). -/
def jibRecord (s : Machine.State) (j : Nat) : Nat :=
  Machine.actBase (j / 4) + s.f (.jibRec (j / 4) (j % 4)) Machine.JIB_REC.OFFSET +
    16 * s.f (.jibStat (j / 4) (j % 4)) Machine.JIB_STAT.PC

/-- In `t` jib `j` has completed an instruction with a status and a result (R146, R168): its registers, its step and its
record. -/
def JibEnds (s t : Machine.State) (j : Nat) (w : List Word) (op : Nat) (st : Status) (flags result : Nat) : Prop :=
  t.f (.jibStat (j / 4) (j % 4)) Machine.JIB_STAT.LAST_STATUS = (s.recStatus (Machine.uJib j) st).code ∧
  t.bit (.jibStat (j / 4) (j % 4)) Machine.JIB_STAT.WAITING = false ∧
  (t.jib j).result = result ∧
  t.rd (.jibLast (j / 4) (j % 4)) = BitVec.ofNat 64 ((s.recStatus (Machine.uJib j) st).code + 256 * (flags % 256) +
    65536 * op + 2 ^ 32 * (result % 2 ^ 32)) ∧
  ((Machine.jw w 0 23 23 = 1 ∨ s.f (.jibStat (j / 4) (j % 4)) Machine.JIB_STAT.PC + 1 =
      s.f (.jibProg (j / 4) (j % 4)) Machine.JIB_PROG.LENGTH) →
    t.bit (.jibStat (j / 4) (j % 4)) Machine.JIB_STAT.STEP_DONE = true ∧
    (Machine.uJib j, s.tbNs) ∈ t.tick.reports) ∧
  (Machine.jw w 0 23 23 ≠ 1 → s.f (.jibStat (j / 4) (j % 4)) Machine.JIB_STAT.PC + 1 <
      s.f (.jibProg (j / 4) (j % 4)) Machine.JIB_PROG.LENGTH →
    t.f (.jibStat (j / 4) (j % 4)) Machine.JIB_STAT.PC = s.f (.jibStat (j / 4) (j % 4)) Machine.JIB_STAT.PC + 1) ∧
  (∀ F, Machine.jibErrField st = some F → t.bit (.jibErr (j / 4) (j % 4)) F = true) ∧
  (Machine.jw w 0 57 42 = 0xFFFF → Machine.jw w 0 24 24 = 1 →
    s.access (.unit (Machine.uJib j)) true (jibRecord s j) 16 = .done →
    byteAt t (jibRecord s j) = BitVec.ofNat 8 (s.recStatus (Machine.uJib j) st).code ∧
    byteAt t (jibRecord s j + 1) = BitVec.ofNat 8 flags ∧ byteAt t (jibRecord s j + 2) = BitVec.ofNat 8 op ∧
    ∀ i < 4, byteAt t (jibRecord s j + 4 + i) = BitVec.ofNat 8 (result / 256 ^ i))

/-- What an instruction of jib `j` may change beside memory and its own store: its registers and those that count reads, the
step's count of bad operations, its report, the free values, and the banks and scoreboards that serve its accesses. -/
def JibFrame (s t : Machine.State) (j : Nat) : Prop :=
  (∀ r, r ∉ [Machine.Reg.jibStat (j / 4) (j % 4), .jibLast (j / 4) (j % 4), .jibErr (j / 4) (j % 4),
    .jibRsctr (j / 4) (j % 4)] → ¬ ReadRegs r → t.rd r = s.rd r) ∧
  (∀ k, k ≠ j → t.jib k = s.jib k) ∧
  { t with regs := s.regs, jibs := s.jibs, mem := s.mem, poison := s.poison, free := s.free, tick := s.tick
           chip := s.chip, hbm := s.hbm } = s

/-- The instruction writes no byte of memory outside its record, and nothing of its store and predicates. -/
def JibStoresNone (s t : Machine.State) (j : Nat) (w : List Word) : Prop :=
  (t.jib j).store = (s.jib j).store ∧ (t.jib j).preds = (s.jib j).preds ∧
  (Machine.jw w 0 57 42 = 0xFFFF → ∀ a, a < jibRecord s j ∨ jibRecord s j + 16 ≤ a → byteAt t a = byteAt s a)

/-- The elements an executing instruction sees (R148, R150): `n` of them in rows, in wide-lane or tile mode, once the
instruction is fetched and its wait is over. -/
def jibView (s : Machine.State) (j : Nat) (w : List Word) : Machine.Jx :=
  let s := (s.jibTake j).setF (.jibStat (j / 4) (j % 4)) Machine.JIB_STAT.WAITING 0
  let tile := s.bit (.jibCtrl (j / 4) (j % 4)) Machine.JIB_CTRL.MODE
  let n := (s.jibCount j w).1
  { s := s, j := j, w := w, tile := tile, n := n, r := if tile then n / 32 else max 1 (Machine.jw w 6 63 53) }

/-- An instruction passes every check of R167 on a view with at least one element. -/
def JibPasses (s : Machine.State) (j : Nat) (w : List Word) (op : Nat) : Prop :=
  op ≠ 0 ∧ Machine.jibOps.contains (Machine.jw w 0 7 0) = true ∧ Machine.jStep1 w (jibView s j w).tile op = true ∧
  ((jibView s j w).s.jibCount j w).2 = .done ∧ ((jibView s j w).n ≠ 0 ∨ op = 0x54) ∧ (jibView s j w).check op = .done

/-- What an instruction writes: what its operation computes, and where the selected predicate is poisoned every byte of its
destinations in place, poisoned (R154). -/
def jibWrites (x : Machine.Jx) (op : Nat) : List Machine.JWrite :=
  (x.run op).writes ++ (if x.predBad then x.taint (x.dFoot op ++ x.dScales op ++ x.cFoot op) else [])

/-- An instruction has met poison: in its selected predicate, in what it writes, or in the predicate it leaves (R154). -/
def jibPoisons (x : Machine.Jx) (op : Nat) : Bool :=
  x.predBad || (x.run op).writes.any (·.p) || (match (x.run op).pred with | some y => y.2.2 | none => false)

/-- Writes to memory, byte by byte in their order. -/
def jibCells (ws : List Machine.JWrite) : List (Nat × Byte) :=
  (ws.filter (fun y => y.mem)).flatMap (fun y => (List.range y.d.length).map (fun i => (y.at_ + i, y.d.getD i 0)))

/-- Writes to the register store, byte by byte in their order. -/
def jibOwn (ws : List Machine.JWrite) : List (Nat × Byte) :=
  (ws.filter (fun y => !y.mem)).flatMap (fun y => (List.range y.d.length).map (fun i => (y.at_ + i, y.d.getD i 0)))

/-- The rows of sheave instructions, with their operations (R124). -/
def sheaveRows : List ((Fin 8 → Fin 256 → Instr) × Nat) :=
  [(.shvNop, 0x00), (.shvMov, 0x01), (.shvAdd, 0x02), (.shvSub, 0x03), (.shvMul, 0x04), (.shvFma, 0x05), (.shvMax, 0x06),
   (.shvMin, 0x07), (.shvAbs, 0x08), (.shvNeg, 0x09), (.shvAnd, 0x0A), (.shvOr, 0x0B), (.shvXor, 0x0C), (.shvShl, 0x0D),
   (.shvShr, 0x0E), (.shvAsr, 0x0F), (.shvCmpeq, 0x10), (.shvCmplt, 0x11), (.shvCmple, 0x12), (.shvSel, 0x13), (.shvCvt, 0x14),
   (.shvRsum, 0x15), (.shvRmax, 0x16), (.lane, 0x17), (.ins, 0x18), (.tag, 0x19)]

/-- `t` differs from `s` in registers `rs` and in sheave `n` of mast `m`, in what has moved there, and in the free values
alone. -/
def OnlySheave (rs : List Machine.Reg) (s t : Machine.State) (m n : Nat) : Prop :=
  { t with regs := s.regs, fab := s.fab, free := s.free } = s ∧ (∀ r, r ∉ rs → t.rd r = s.rd r) ∧
  (∀ g, g ≠ m → t.fabric g = s.fabric g) ∧ (∀ k, k ≠ n → t.sheave m k = s.sheave m k) ∧
  (t.fabric m).lanes = (s.fabric m).lanes ∧ (t.fabric m).ports = (s.fabric m).ports

/-- In `t` sheave `n` of mast `m` has issued an instruction of the firing `c` that it was in (R103, R127, R129): its input queues,
latches and firings are as before, and the firing goes on at its next instruction, or has ended. -/
def SheaveIssued (s t : Machine.State) (m n : Nat) (c : Machine.Firing) : Prop :=
  OnlySheave [.fabStat m, .shvFlags m n] s t m n ∧ (t.sheave m n).iq = (s.sheave m n).iq ∧
  (t.sheave m n).latch = (s.sheave m n).latch ∧ (t.sheave m n).last = (s.sheave m n).last ∧
  (t.sheave m n).fires = (s.sheave m n).fires ∧
  ∃ f, (c.next + 1 < s.hdr m n c.slot Machine.SLOT.LENGTH →
      (t.sheave m n).cur = some { c with next := c.next + 1, flags := c.flags ||| f } ∧ t.regs = s.regs) ∧
    (s.hdr m n c.slot Machine.SLOT.LENGTH ≤ c.next + 1 → (t.sheave m n).cur = none ∧
      (t.rd (.shvFlags m n)).toNat / 2 ^ (8 * c.slot) % 256 = (c.flags ||| f) % 256)

/-- What a firing leaves of a sheave that it does not consume or write: registers, counters, other queues. -/
def SheaveKeeps (x y : Machine.Sheave) : Prop := y.v = x.v ∧ y.sc = x.sc ∧ y.pr = x.pr ∧ y.rs = x.rs

/-- Slot `k` fired: it is the last one, its count has moved on (R123, R128). -/
def SlotFired (x y : Machine.Sheave) (k : Nat) : Prop :=
  y.last = k ∧ Machine.Tbl.get 0 y.fires k = (Machine.Tbl.get 0 x.fires k + 1) % 2 ^ 32 ∧
  ∀ j, j ≠ k → Machine.Tbl.get 0 y.fires j = Machine.Tbl.get 0 x.fires j

/-- `t` differs from `s` in mast `m`'s fabric, outside its sheaves, in registers `rs`, and in nothing else. -/
def OnlyFabric (rs : List Machine.Reg) (s t : Machine.State) (m : Nat) : Prop :=
  { t with regs := s.regs, fab := s.fab } = s ∧ (∀ r, r ∉ rs → t.rd r = s.rd r) ∧
  (∀ g, g ≠ m → t.fabric g = s.fabric g) ∧ (t.fabric m).sheaves = (s.fabric m).sheaves

/-- The tackle of mast `m` issues the descriptor `w` by the row of operation `op`, with none in flight, and it waits for no
cleat (R226, R228, R229). -/
def TackleIssues (s : Machine.State) (m : Nat) (w : List Word) (p : Bool) (op : Nat) : Prop :=
  s.tkMay m = true ∧ (s.tack m).flight = [] ∧ s.tkFetch m = (w, p) ∧ (Machine.wf w 0 3 0 ≤ 5 → Machine.wf w 0 3 0 = op) ∧
  Calm s ∧ (p = true ∨ Machine.wf w 1 15 0 = 0 ∨ Machine.cleatMax < Machine.wf w 0 63 48)

/-- Where the tackle of mast `m` puts its next completion record (R241). -/
def tackleRecord (s : Machine.State) (m : Nat) : Nat :=
  Machine.actBase m + s.f (.tkRec m) Machine.TK_REC.OFFSET + 16 * s.f (.tkStat m) Machine.TK_STAT.PC

/-- In `t` the tackle of mast `m` has completed a descriptor with a status (R228, R241, R244). -/
def TackleEnds (s t : Machine.State) (m : Nat) (w : List Word) (op : Nat) (st : Status) (flags : Nat) : Prop :=
  t.f (.tkStat m) Machine.TK_STAT.LAST_STATUS = (s.recStatus (Machine.uTackle m) st).code ∧
  t.bit (.tkStat m) Machine.TK_STAT.WAITING = false ∧ t.bit (.tkStat m) Machine.TK_STAT.BUSY = false ∧
  t.f (.tkStat m) Machine.TK_STAT.INFLIGHT = 0 ∧ (t.tack m).flight = [] ∧
  t.f (.tkStat m) Machine.TK_STAT.PC = (s.f (.tkStat m) Machine.TK_STAT.PC + 1) % 65536 ∧
  (Machine.wb w 0 21 = true ∨ s.f (.tkStat m) Machine.TK_STAT.PC + 1 = s.f (.tkProg m) Machine.TK_PROG.LENGTH →
    t.bit (.tkStat m) Machine.TK_STAT.STEP_DONE = true ∧ (Machine.uTackle m, s.tbNs) ∈ t.tick.reports) ∧
  (∀ F, Machine.tkErrField st = some F → t.bit (.tkErr m) F = true) ∧
  (49152 ≤ Machine.wf w 0 47 32 → Machine.wb w 0 20 = true →
    s.access (.unit (Machine.uTackle m)) true (tackleRecord s m) 16 = .done →
    byteAt t (tackleRecord s m) = BitVec.ofNat 8 (s.recStatus (Machine.uTackle m) st).code ∧
    byteAt t (tackleRecord s m + 1) = BitVec.ofNat 8 flags ∧ byteAt t (tackleRecord s m + 2) = BitVec.ofNat 8 op)

/-- Every byte of memory outside the completion record is in `t` as in `u`, where no cleat is signalled. -/
def TackleStored (s u t : Machine.State) (m : Nat) (w : List Word) : Prop :=
  49152 ≤ Machine.wf w 0 47 32 → ∀ a, a < tackleRecord s m ∨ tackleRecord s m + 16 ≤ a → byteAt t a = byteAt u a

/-- A COPY of one contiguous run of `n` elements of one unpacked format, without padding or a change of order. -/
def PlainCopy (w : List Word) (f n : Nat) : Prop :=
  Machine.tkSrcFmt w = f ∧ Machine.tkDstFmt w = f ∧ f ≤ 4 ∧ Machine.tkAccum w = false ∧ Machine.tkCoil w = false ∧
  Machine.wf w 0 8 6 = 0 ∧ Machine.tkExt w 0 = n ∧ Machine.tkWin w 0 = n ∧
  Machine.tkSs w 0 = Int.ofNat (Machine.tkBytes f) ∧ Machine.tkDs w 0 = Int.ofNat (Machine.tkBytes f) ∧
  (∀ k < 4, Machine.tkOff w k = 0 ∧ Machine.tkRot w k = 0 ∧ Machine.tkRev w k = false) ∧
  ∀ k < 4, 0 < k → Machine.tkExt w k = 1 ∧ Machine.tkWin w k = 1

end Sys2Proof
end

