-- ==== Sys2Proof/Certificates/Slice0/Obligations.lean ====
section
/-! DEFINITION. The statements for the provers. -/

open Sys2Proof Sys2Proof.Machine

/-- A step runs the command at the front of the queue. For every state whose queue is c followed by rest, step is exec of
c on the state whose queue is rest. On an empty queue a step passes one reference period (the model's choice, log
entry 1). [00_scope.md, R406, R31] -/
def Obligations.StepRunsFront : Prop :=
  ∀ (c : Instr) (rest : List Instr) (s : State),
    (s.pending = c :: rest → step s = exec c { s with pending := rest }) ∧ (s.pending = [] → step s = .next s.refPeriod)

/-- No command stops the block. Every command in every state answers a next state: a command the device turns away leaves
its status where the spec says, and the device goes on (R486: errors are corrected, carried as poison, or fatal to a
scope). [R486, R410] -/
def Obligations.EveryCommandAnswers : Prop :=
  ∀ (c : Instr) (s : State), Answers (exec c s)

/-- Memory and boot flash are canonical after reset. The state after reset has its memory and its boot flash in canonical
form. [R462, R465] -/
def Obligations.CanonicalAtReset : Prop :=
  Canonical State.reset ∧ (∀ a, byteAt State.reset a = 0) ∧ State.reset.pending = []

/-- Every step keeps memory and boot flash canonical. From every state whose memory and boot flash are in canonical form
(addresses strictly rising, no listed byte equal to what an unlisted one reads), whatever command is at the front of
the queue, or on an idle step, the next state's memory and boot flash are in canonical form. [06_onchip_memory.md,
14_hbm.md, R467] -/
def Obligations.CanonicalKept : Prop :=
  ∀ s t : State, Canonical s → step s = .next t → Canonical t

/-- No step changes what was fused, and a step takes one command from the queue. For every state and whatever command is
at the front of its queue: the next state has the same fuses (serial number, order code, fused gear, stepping, repair
map, device secret), and its queue is the rest of the queue; an idle step leaves it empty. [R529, R447] -/
def Obligations.FusesKept : Prop :=
  ∀ s t : State, step s = .next t → t.fuses = s.fuses ∧ t.pending = s.pending.tail

/-- REGISTER_READ and REGISTER_WRITE: addresses, absent blocks and the lock. An address that is not aligned to 8 B
completes with BAD_DESCRIPTOR and one that names no register with OUT_OF_BOUNDS, and nothing else changes (R524); a
register that is absent on this device reads as zero, ignores its write and completes with DONE (R528); a write that
would change an RWL field while a section runs on the owning unit completes with DENIED and changes nothing (R10);
every other access completes with the register's value, or with the effect of the write. The outcome stays with the
requester, crowsnest. Which unit owns an RWL field, and that a direct write of a register all of whose writable fields
are RWL is refused even where it changes none, is the model's reading (log entry 37). REGISTER_READ and REGISTER_WRITE
each complete here. [R524, R528, R10] -/
def Obligations.RegisterAccess : Prop :=
  ∀ (s : State) (a v : Word),
    (a.toNat % 8 ≠ 0 →
      exec (.registerRead a) s = .next (s.regAnswer .badDescriptor 0) ∧
      exec (.registerWrite a v) s = .next (s.regAnswer .badDescriptor 0)) ∧
    (a.toNat % 8 = 0 → zeroWord a.toNat = false → Reg.ofAddr a.toNat = none →
      exec (.registerRead a) s = .next (s.regAnswer .outOfBounds 0) ∧
      exec (.registerWrite a v) s = .next (s.regAnswer .outOfBounds 0)) ∧
    (∀ r, a.toNat % 8 = 0 → zeroWord a.toNat = false → Reg.ofAddr a.toNat = some r →
      (s.regAbsent r = true →
        exec (.registerRead a) s = .next (s.regAnswer .done 0) ∧
        exec (.registerWrite a v) s = .next (s.regAnswer .done 0)) ∧
      (s.regAbsent r = false →
        exec (.registerRead a) s = .next ((s.readEffect r).regAnswer .done (s.regView r)) ∧
        (s.rwlDenied r v.toNat true = true →
          exec (.registerWrite a v) s = .next (s.regAnswer .denied 0)) ∧
        (s.rwlLocked r = true → s.rwlChange r v.toNat = true → s.rwlDenied r v.toNat true = true) ∧
        (s.rwlLocked r = false → s.rwlDenied r v.toNat true = false) ∧
        (s.rwlDenied r v.toNat true = false →
          exec (.registerWrite a v) s = .next ((s.regEffect r v.toNat).2.regAnswer (s.regEffect r v.toNat).1 0))))

/-- A12: the blocks of the missing stacks and fairleads read as zero. On a device fused as DMK-BRC-A12, every register of
HBM controllers and fairleads 3, 7, 11 and 15 reads as zero with DONE and ignores every write with DONE; nothing but
the requester's answer changes. [R528] -/
def Obligations.AbsentBlocks : Prop :=
  ∀ (s : State) (h : Nat) (r : Reg) (a v : Word),
    s.fuses.a12 = true → h ∈ [3, 7, 11, 15] →
    r ∈ [.hbmStat h, .hbmTemp h, .hbmCe h, .hbmUe h, .hbmUeAddr h, .hbmErr h, .hbmScrub h, .hbmLines h, .flStep h, .flRec h,
         .flStat h, .flErr h, .scOp h, .scRange h, .scLen h, .scHits h, .scMisses h, .scErr h] →
    a.toNat = Reg.addr r →
    exec (.registerRead a) s = .next (s.regAnswer .done 0) ∧ exec (.registerWrite a v) s = .next (s.regAnswer .done 0)

/-- What a stored write does to each field of a register. A write of a register that has no effect but its storage: an RW
field, and an RWL field (the lock is checked before), holds the written value (or keeps its own where its table
restricts its range); each 1 written to a W1C field clears the bit and each 0 leaves it; RO, RC, WO and W1S fields
keep their value. No other register, no byte of memory and no other state changes. [R10, R345] -/
def Obligations.AccessCodes : Prop :=
  ∀ (s : State) (r : Reg) (v : Nat) (F : Field), F ∈ Reg.here r → s.regEffect r v = (.done, s.regStore r v) →
    (F.acc = .rw ∨ F.acc = .rwl →
      (s.regEffect r v).2.f r F = s.fieldNew r F (fld v F.hi F.lo) % 2 ^ (F.hi + 1 - F.lo)) ∧
    (F.acc = .w1c → ∀ k, k < F.hi + 1 - F.lo →
      bitN ((s.regEffect r v).2.f r F) k = (bitN (s.f r F) k && !bitN (fld v F.hi F.lo) k)) ∧
    (F.acc ∈ [.ro, .rc, .wo, .w1s] → (s.regEffect r v).2.f r F = s.f r F) ∧
    OnlyRegs [r] s (s.regEffect r v).2

/-- NOP completes with the entry of R404. A ready NOP whose completion the host has not acknowledged: its command slot is
freed; its completion is held and is Seq, status DONE, opcode 0x00, the Tag of the entry, OutLen 0, Elapsed 0 and 48
zero bytes. Only mailboxes, what the transport sends, and the registers of the connection the completion leaves on may
change. NOP completes here. [R400, R404, R405, R409] -/
def Obligations.CompletionEntry : Prop :=
  ∀ (i : Fin 64) (s : State) (c : MbxCmd), Ready s i 0x00 c →
    (c.seq % 65536 = (s.mailbox i).a % 65536 ∨ 256 < ((s.mailbox i).a + 65536 - c.seq % 65536) % 65536) →
    ∃ t, exec (.nop i) s = .next t ∧
      (c.seq, leBytes 2 c.seq ++ [0] ++ [0] ++ (c.entry.drop 4).take 4 ++ zeros 4 ++ zeros 4 ++ zeros 48, []) ∈
        (t.mailbox i).cpls ∧
      (∀ q ∈ (t.mailbox i).ring, q.seq ≠ c.seq) ∧
      { t with mbx := s.mbx, net := s.net, regs := s.regs } = s ∧
      (∀ r, (∀ k w, r ≠ .cn k w) → t.rd r = s.rd r)

/-- IDENTIFY, GET_INFO, TELEMETRY, GET_CERTS and ATTEST answer from the state. When ready, each completes with DONE and
changes nothing but its mailbox: IDENTIFY returns DEV_ID, FwIf 1, FwVer, Order, Stacks, Gear and Serial; GET_INFO the
six identity registers; TELEMETRY page 0 the five power registers, page 1 the temperatures of controllers 0 to 15,
after which their PEAK fields are 0 (RC); GET_CERTS the chain of its Level; ATTEST the report over its Nonce.
IDENTIFY, GET_INFO, TELEMETRY, GET_CERTS and ATTEST each complete here. [R409, R531, R448, R450, R10] -/
def Obligations.MailboxIdentity : Prop :=
  ∀ (i : Fin 64) (s : State) (c : MbxCmd),
    (Ready s i 0x01 c → exec (.identify i) s = .next (completed (started s i c) s i c .done
      (leBytes 4 (s.rd .devId).toNat ++ leBytes 2 1 ++ leBytes 2 s.boot.fwVer ++
        leBytes 1 (s.f .devIdent DEV_IDENT.ORDER) ++ leBytes 1 (s.f .devIdent DEV_IDENT.STACKS) ++
        leBytes 1 (s.f .devIdent DEV_IDENT.GEAR) ++ zeros 5 ++
        (leBytes 8 (s.rd .devSerial0).toNat ++ leBytes 8 (s.rd .devSerial1).toNat)))) ∧
    (Ready s i 0x02 c → exec (.getInfo i) s = .next (completed (started s i c) s i c .done []
      (leBytes 8 (s.rd .devIdent).toNat ++ leBytes 8 (s.rd .devId).toNat ++ leBytes 8 (s.rd .devSerial0).toNat ++
        leBytes 8 (s.rd .devSerial1).toNat ++ leBytes 8 (s.rd .devVersion).toNat ++ leBytes 8 (s.rd .devRepair).toNat))) ∧
    (Ready s i 0x70 c → c.p 0x10 2 = 0 → exec (.telemetry i) s = .next (completed (started s i c) s i c .done []
      (leBytes 8 (s.rd .pwrCtrl).toNat ++ leBytes 8 (s.rd .pwrStat).toNat ++ leBytes 8 (s.rd .pwrInput).toNat ++
        leBytes 8 (s.rd .therm).toNat ++ leBytes 8 (s.rd .pwrErr).toNat))) ∧
    (Ready s i 0x70 c → c.p 0x10 2 = 1 → ∃ t, exec (.telemetry i) s = .next (completed t s i c .done []
        ((List.range 16).flatMap (fun h => leBytes 8 (s.regView (.hbmTemp h))))) ∧
      OnlyRegs ((List.range 16).map Reg.hbmTemp) (started s i c) t ∧
      ∀ h, h < 16 → t.f (.hbmTemp h) HBM_TEMP.PEAK = 0 ∧ t.f (.hbmTemp h) HBM_TEMP.TEMP = s.f (.hbmTemp h) HBM_TEMP.TEMP) ∧
    (Ready s i 0x10 c → exec (.getCerts i) s = .next (completed (started s i c) s i c .done [] (s.certs (c.p 0x10 1)))) ∧
    (Ready s i 0x11 c → exec (.attest i) s = .next (completed (started s i c) s i c .done []
      (s.attReport ((c.entry.drop 0x10).take 64))))

/-- The commands of the time base, the tick, PTP, the device ID and the power cap. When ready: TIME_GET returns TB_NOW,
TB_FRAC, STK_NUM and STK_STAT; TIME_ADJUST sets the rate, and steps the time base unless Step is not 0 while RUN is 1
(DENIED, nothing changes); TICK_CONFIG writes its registers, and drives TICK_OUT low where PINMODE does not select it,
unless RUN is 1 (BUSY); TICK_RUN sets RUN and returns the first tick, or clears it unless a section runs (BUSY);
PTP_CONFIG stores its configuration; SET_DEVICE_ID is BUSY while a section is loaded, and else completes with DONE:
DEVICE holds the ID and ASSIGNED is set, and on a device without an ID, or with this one, nothing else changes;
POWER_CAP writes CAP. TIME_GET, TIME_ADJUST, TICK_CONFIG, TICK_RUN, PTP_CONFIG, SET_DEVICE_ID and POWER_CAP each
complete here. [R409, R311, R314, R41, R475] -/
def Obligations.MailboxTime : Prop :=
  ∀ (i : Fin 64) (s : State) (c : MbxCmd),
    (Ready s i 0x40 c → exec (.timeGet i) s = .next (completed (started s i c).latchFrac s i c .done
      (leBytes 8 s.tbNs ++ leBytes 2 s.tbFrac ++ zeros 2 ++ leBytes 4 (s.f .stkNum STK_NUM.NUM) ++
        leBytes 8 (s.rd .stkStat).toNat))) ∧
    (Ready s i 0x41 c → c.p 0x18 8 ≠ 0 → s.bit .stkCtrl STK_CTRL.RUN = true →
      exec (.timeAdjust i) s = .next (completed (started s i c) s i c .denied)) ∧
    (Ready s i 0x41 c → c.p 0x18 8 = 0 →
      exec (.timeAdjust i) s = .next (completed ((started s i c).setRate (sext 32 (c.p 0x10 4))) s i c .done)) ∧
    (Ready s i 0x41 c → c.p 0x18 8 ≠ 0 → s.bit .stkCtrl STK_CTRL.RUN = false →
      exec (.timeAdjust i) s = .next (completed (((started s i c).setRate (sext 32 (c.p 0x10 4))).tbStepBy
        (BitVec.ofNat 64 (c.p 0x18 8))) s i c .done)) ∧
    (Ready s i 0x42 c → s.bit .stkCtrl STK_CTRL.RUN = true →
      exec (.tickConfig i) s = .next (completed (started s i c) s i c .busy)) ∧
    (Ready s i 0x42 c → s.bit .stkCtrl STK_CTRL.RUN = false → ∃ t,
      exec (.tickConfig i) s = .next (completed t s i c .done) ∧
      OnlyRegs [.stkT0, .stkPeriod, .stkGuard, .stkGrace, .stkCable, .stkCtrl] { started s i c with tick := t.tick } t ∧
      t.tick = { s.tick with tickOut := if c.p 0x29 1 % 4 < 2 then none else s.tick.tickOut } ∧
      t.f .stkT0 STK_T0.ALL = c.p 0x10 8 % 2 ^ 64 ∧ t.f .stkPeriod STK_PERIOD.P = c.p 0x18 4 % 2 ^ 24 ∧
      t.f .stkGuard STK_GUARD.G = c.p 0x1C 4 % 2 ^ 20 ∧ t.bit .stkCtrl STK_CTRL.RUN = false ∧
      t.f .stkCtrl STK_CTRL.POLICY = c.p 0x28 1 % 2 ∧ t.f .stkCtrl STK_CTRL.PINMODE = c.p 0x29 1 % 4) ∧
    (Ready s i 0x43 c → c.p 0x10 1 = 1 → ∃ t, exec (.tickRun i) s = .next (completed t s i c .done (leBytes 4 t.tick.nextK)) ∧
      t.bit .stkCtrl STK_CTRL.RUN = true ∧ t.mem = s.mem ∧
      (s.bit .stkCtrl STK_CTRL.RUN = false → t.tick.nextK = s.firstEdge)) ∧
    (Ready s i 0x43 c → c.p 0x10 1 = 0 → s.anyRuns = true →
      exec (.tickRun i) s = .next (completed (started s i c) s i c .busy)) ∧
    (Ready s i 0x43 c → c.p 0x10 1 = 0 → s.anyRuns = false → ∃ t, exec (.tickRun i) s = .next (completed t s i c .done) ∧
      t.bit .stkCtrl STK_CTRL.RUN = false ∧ OnlyRegs [.stkCtrl] (started s i c) t) ∧
    (Ready s i 0x44 c → ∃ t, exec (.ptpConfig i) s = .next (completed t s i c .done) ∧
      Tbl.get (0, 0, 0) t.net.ptp (c.p 0x10 1, c.p 0x11 1) = (c.p 0x12 1, c.p 0x13 1, c.p 0x14 1) ∧
      { t with net := s.net } = started s i c) ∧
    (Ready s i 0x03 c → s.anyLoaded = true → exec (.setDeviceId i) s = .next (completed (started s i c) s i c .busy)) ∧
    (Ready s i 0x03 c → s.anyLoaded = false → exec (.setDeviceId i) s =
      .next (completed ((started s i c).setDevId (c.p 0x10 4)) s i c .done)) ∧
    (Ready s i 0x03 c → s.anyLoaded = false → s.devAssigned = false ∨ s.dev = c.p 0x10 4 % 2 ^ 17 → ∃ t : State,
      exec (.setDeviceId i) s = .next (completed t s i c .done) ∧ OnlyRegs [.devId] (started s i c) t ∧
      t.dev = c.p 0x10 4 % 2 ^ 17 ∧ t.devAssigned = true) ∧
    (Ready s i 0x72 c → ∃ t, exec (.powerCap i) s = .next (completed t s i c .done) ∧
      OnlyRegs [.pwrCtrl] (started s i c) t ∧ t.f .pwrCtrl PWR_CTRL.CAP = c.p 0x10 2 % 4096)

/-- The device ID: a first write, a change, and the lock. A write of DEV_ID while a section is loaded completes with
DENIED and changes nothing; otherwise DEVICE takes the value and ASSIGNED is set. The first write after reset, and a
write of the same value, change nothing else: no connection ends. Where the assigned ID changes and every entry is
HOST, IDLE or already LOST, HOST and IDLE entries stay as they are and each LOST entry that is not HOST takes cause 5;
nothing but DEV_ID and those entries changes when no shroud group is in a round. The status stays with the requester,
crowsnest. DEV_ID completes here. [R10, R41, R529, R530] -/
def Obligations.DeviceId : Prop :=
  ∀ (v : Word) (s : State),
    (s.anyLoaded = true → exec (.devId v) s = .next (s.regAnswer .denied 0)) ∧
    (s.anyLoaded = false → (s.devAssigned = false ∨ s.dev = v.toNat % 2 ^ 17) → ∃ t : State, exec (.devId v) s = .next (t.regAnswer .done 0) ∧
      OnlyRegs [.devId] s t ∧ t.dev = v.toNat % 2 ^ 17 ∧ t.devAssigned = true) ∧
    (s.anyLoaded = false → s.devAssigned = true → s.dev ≠ v.toNat % 2 ^ 17 →
      (∀ k ∈ s.cnList, s.cn k CN.HOST = 1 ∨ s.cn k CN.STATE = cnIdle ∨ s.cn k CN.STATE = cnLost) →
      (∀ g, g < 16 → s.shrBusy g = false) → ∃ t : State, exec (.devId v) s = .next (t.regAnswer .done 0) ∧
      t.dev = v.toNat % 2 ^ 17 ∧ t.devAssigned = true ∧ { t with regs := s.regs } = s ∧
      (∀ k ∈ s.cnList, s.cn k CN.HOST = 0 → s.cn k CN.STATE = cnLost → t.cn k CN.CAUSE = 5) ∧
      (∀ k F, s.cn k CN.HOST = 1 ∨ s.cn k CN.STATE = cnIdle → t.cn k F = s.cn k F) ∧
      ∀ r, r ≠ .devId → (∀ k w, r ≠ .cn k w) → t.rd r = s.rd r)

/-- Windows: WINDOW_OPEN, WINDOW_CLOSE, OP OPEN and OP CLOSE. WINDOW_OPEN of an open window completes with BUSY, of a
range that lies in no region with OUT_OF_BOUNDS, of a range the owner protects with DENIED; else the window is open
with its base, length, permissions and peer, its epoch unchanged and ACCEPTED 0, and the handle is returned. OP OPEN
opens a closed window with its epoch unchanged; OP CLOSE closes an open one in the same cycle and its epoch moves on
modulo 64; BUSY is set exactly when a write that passed is not accepted. Either on a window already in that state
changes nothing. WINDOW_CLOSE_DONE clears BUSY once every write that passed is accepted. WINDOW_OPEN, WINDOW_CLOSE,
WIN_OPEN, WIN_CLOSE and WINDOW_CLOSE_DONE each complete here. [R355, R409, R454] -/
def Obligations.WindowCommands : Prop :=
  ∀ (i : Fin 64) (w : Fin 1024) (s : State) (c : MbxCmd),
    (Ready s i 0x50 c → s.f (.win (c.p 0x10 2) 0) WIN.OPEN = 1 →
      exec (.windowOpen i) s = .next (completed (started s i c) s i c .busy)) ∧
    (Ready s i 0x50 c → s.f (.win (c.p 0x10 2) 0) WIN.OPEN = 0 → s.fuses.region (c.p 0x18 8) (c.p 0x20 8) = none →
      exec (.windowOpen i) s = .next (completed (started s i c) s i c .outOfBounds)) ∧
    (Ready s i 0x50 c → s.f (.win (c.p 0x10 2) 0) WIN.OPEN = 0 → s.fuses.region (c.p 0x18 8) (c.p 0x20 8) ≠ none →
      s.winDenied (c.p 0x18 8) (c.p 0x20 8) = true →
      exec (.windowOpen i) s = .next (completed (started s i c) s i c .denied)) ∧
    (Ready s i 0x50 c → s.f (.win (c.p 0x10 2) 0) WIN.OPEN = 0 → s.fuses.region (c.p 0x18 8) (c.p 0x20 8) ≠ none →
      s.winDenied (c.p 0x18 8) (c.p 0x20 8) = false → ∃ t,
      exec (.windowOpen i) s = .next (completed t s i c .done
        (leBytes 2 (c.p 0x10 2 + s.f (.win (c.p 0x10 2) 0) WIN.EPOCH * 1024))) ∧
      OnlyRegs [.win (c.p 0x10 2) 0, .win (c.p 0x10 2) 1, .win (c.p 0x10 2) 3] (started s i c) t ∧
      t.f (.win (c.p 0x10 2) 0) WIN.OPEN = 1 ∧ t.f (.win (c.p 0x10 2) 3) WIN.ACCEPTED = 0 ∧
      t.f (.win (c.p 0x10 2) 0) WIN.BASE = c.p 0x18 8 % 2 ^ 47 ∧ t.f (.win (c.p 0x10 2) 1) WIN.LENGTH = c.p 0x20 8 % 2 ^ 40 ∧
      t.f (.win (c.p 0x10 2) 0) WIN.EPOCH = s.f (.win (c.p 0x10 2) 0) WIN.EPOCH) ∧
    (Ready s i 0x51 c → s.mbxUnderWay 0x51 = [] → s.bit (.win (c.p 0x10 2) 2) WIN.BUSY = false →
      s.f (.win (c.p 0x10 2) 0) WIN.OPEN = 0 → exec (.windowClose i) s =
        .next ((underWay s i c).mbxDone i (ran s c) .done (leBytes 8 (s.f (.win (c.p 0x10 2) 3) WIN.ACCEPTED)))) ∧
    (Ready s i 0x51 c → s.mbxUnderWay 0x51 = [] → s.bit (.win (c.p 0x10 2) 2) WIN.BUSY = false →
      s.f (.win (c.p 0x10 2) 0) WIN.OPEN = 1 → exec (.windowClose i) s =
        .next (if s.winWaits (c.p 0x10 2) then (underWay s i c).winCloseOp (c.p 0x10 2)
          else ((underWay s i c).winCloseOp (c.p 0x10 2)).mbxDone i (ran s c) .done
            (leBytes 8 (s.f (.win (c.p 0x10 2) 3) WIN.ACCEPTED)))) ∧
    (s.f (.win w 0) WIN.OPEN = 1 → exec (.winOpen w) s = .next s) ∧
    (s.f (.win w 0) WIN.OPEN = 0 → ∃ t, exec (.winOpen w) s = .next t ∧ OnlyRegs [.win w 0, .win w 3] s t ∧
      OnlyFields (.win w 0) [WIN.OPEN] s t ∧ t.f (.win w 0) WIN.OPEN = 1 ∧ t.f (.win w 3) WIN.ACCEPTED = 0) ∧
    (s.f (.win w 0) WIN.OPEN = 0 → exec (.winClose w) s = .next s) ∧
    (s.f (.win w 0) WIN.OPEN = 1 → ∃ t, exec (.winClose w) s = .next t ∧ OnlyRegs [.win w 0, .win w 2] s t ∧
      OnlyFields (.win w 0) [WIN.OPEN, WIN.EPOCH] s t ∧ t.f (.win w 0) WIN.OPEN = 0 ∧
      t.f (.win w 0) WIN.EPOCH = (s.f (.win w 0) WIN.EPOCH + 1) % 64 ∧
      (s.winWaits w = true → t.bit (.win w 2) WIN.BUSY = true) ∧
      (s.winWaits w = false → t.rd (.win w 2) = s.rd (.win w 2))) ∧
    (s.winWaits w = true → exec (.windowCloseDone w) s = .next s) ∧
    (s.winWaits w = false → s.mbxUnderWay 0x51 = [] → ∃ t, exec (.windowCloseDone w) s = .next t ∧
      OnlyRegs [.win w 2] s t ∧ t.bit (.win w 2) WIN.BUSY = false)

/-- FW_STAGE, FW_ACTIVATE, IMAGE_STAGE, CAL_READ and CAL_APPLY. FW_STAGE completes with OUT_OF_BOUNDS beyond the slot and
changes nothing, else the bytes stand in the inactive slot and no other byte of flash changes; FW_ACTIVATE completes
with DENIED where the image is not valid, else the inactive slot is active and the rollback floor never falls;
IMAGE_STAGE answers the check of its range; CAL_READ returns the bytes of the table, or OUT_OF_BOUNDS; CAL_APPLY
refuses a bad overlay, and with BUSY one that names a mast that holds a section, else the overlay is stored and its
counts are returned. A firmware image's and an overlay's format are opaque (they stand in Config). FW_STAGE (in states
whose flash is in canonical form), FW_ACTIVATE, IMAGE_STAGE, CAL_READ and CAL_APPLY each complete with DONE here.
[R391, R409, R468, R469, R471] -/
def Obligations.FirmwareCommands : Prop :=
  ∀ (i : Fin 64) (s : State) (c : MbxCmd) (d : List Byte), (s.mailbox i).data c = d →
    (Ready s i 0x20 c → fwSlotSize < c.p 0x10 4 + d.length →
      exec (.fwStage i) s = .next (completed (started s i c) s i c .outOfBounds)) ∧
    (Ready s i 0x20 c → Canonical s → c.p 0x10 4 + d.length ≤ fwSlotSize → ∃ t,
      exec (.fwStage i) s = .next (completed t s i c .done) ∧ { t with boot := s.boot } = started s i c ∧
      { t.boot with flash := s.boot.flash, lens := s.boot.lens } = s.boot ∧
      (∀ k, k < d.length → memGet t.boot.flash (fwSlotAt (1 - s.boot.active) + c.p 0x10 4 + k) = d.getD k 0) ∧
      (∀ a, a < fwSlotAt (1 - s.boot.active) + c.p 0x10 4 ∨ fwSlotAt (1 - s.boot.active) + c.p 0x10 4 + d.length ≤ a →
        memGet t.boot.flash a = memGet s.boot.flash a)) ∧
    (Ready s i 0x21 c → fwSlotSize < c.p 0x10 4 →
      exec (.fwActivate i) s = .next (completed (started s i c) s i c .denied)) ∧
    (∀ img, img = memGets s.boot.flash (fwSlotAt (1 - s.boot.active)) (c.p 0x10 4) →
      Ready s i 0x21 c → c.p 0x10 4 ≤ fwSlotSize → ∃ t st,
      exec (.fwActivate i) s = .next (completed t s i c st (if st = .done then leBytes 2 (Config.fwVer img) else [])) ∧
      st = (if s.fwValid img then .done else .denied) ∧ (st = .denied → t = started s i c) ∧
      { t with boot := s.boot } = started s i c ∧ s.boot.floor ≤ t.boot.floor ∧ t.boot.flash = s.boot.flash ∧
      (st = .done → t.boot.active = 1 - s.boot.active) ∧
      t.boot.warmAt = s.boot.warmAt ∧
      t.boot.warmFor = (if st = .done ∧ s.bit .cnStat CN_STAT.RECOVERY = true then some (i.val, c.seq, true) else s.boot.warmFor)) ∧
    (∀ img, img = memGets s.boot.flash (fwSlotAt (1 - s.boot.active)) (c.p 0x10 4) →
      Ready s i 0x21 c → c.p 0x10 4 ≤ fwSlotSize → s.fwValid img = true → ∃ t,
      exec (.fwActivate i) s = .next (completed t s i c .done (leBytes 2 (Config.fwVer img))) ∧
      t.boot.active = 1 - s.boot.active ∧ t.boot.floor = max s.boot.floor (Config.fwVer img)) ∧
    (Ready s i 0x30 c → s.fuses.region (c.p 0x10 8) c.dataLen = some .hbm →
      s.access (.unit (uCn 0)) true (c.p 0x10 8) c.dataLen = .done →
      exec (.imageStage i) s = .next (completed (started s i c) s i c .done)) ∧
    (Ready s i 0x30 c → s.fuses.region (c.p 0x10 8) c.dataLen = some .hbm → exec (.imageStage i) s =
      .next (completed (started s i c) s i c (s.access (.unit (uCn 0)) true (c.p 0x10 8) c.dataLen))) ∧
    (Ready s i 0x30 c → s.fuses.region (c.p 0x10 8) c.dataLen ≠ some .hbm →
      exec (.imageStage i) s = .next (completed (started s i c) s i c .outOfBounds)) ∧
    (∀ t, t = (if c.p 0x10 1 = 0 then Config.factoryTable else if c.p 0x10 1 = 1 then s.boot.overlay
        else Config.effTable (calAll s.boot.overlay)) →
      Ready s i 0x78 c → exec (.calRead i) s = .next (
        if t.length < c.p 0x14 4 + c.p 0x18 4 then completed (started s i c) s i c .outOfBounds
        else completed (started s i c) s i c .done [] ((t.drop (c.p 0x14 4)).take (c.p 0x18 4)))) ∧
    (Ready s i 0x79 c → calOk d = false → exec (.calApply i) s = .next (completed (started s i c) s i c .badDescriptor)) ∧
    (Ready s i 0x79 c → calOk d = true → (∃ x ∈ calItems d, x.1 = 1 ∧ s.mastLocked x.2.1 = true) →
      exec (.calApply i) s = .next (completed (started s i c) s i c .busy)) ∧
    (Ready s i 0x79 c → calOk d = true → (∀ x ∈ calItems d, x.1 = 1 → s.mastLocked x.2.1 = false) → ∃ t,
      exec (.calApply i) s = .next (completed t s i c .done
        (leBytes 4 (calItems d).length ++ leBytes 4 (calClamped d))) ∧
      t.boot.overlay = (if calItems d = [] then [] else d) ∧ t.mem = s.mem ∧ t.boot.flash = s.boot.flash)

/-- CLEAT_DUMP, QUEUE_DUMP, CRASH_FETCH and CRASH_CLEAR. CLEAT_DUMP returns the records of its range or OUT_OF_BOUNDS;
QUEUE_DUMP the queues and rings of an owner, a mast's COIL table, fabric snapshot or scoreboard, and BAD_DESCRIPTOR
for these at device level; CRASH_FETCH the bytes of the held dump with DumpLen, or OUT_OF_BOUNDS beyond it;
CRASH_CLEAR clears the fatal bits, the dump's state and its length, and leaves the log. The place of the ring pointers
in a queue dump is the model's (log entry 43). CLEAT_DUMP, QUEUE_DUMP, CRASH_FETCH and CRASH_CLEAR each complete here.
[R305, R409, R497, R500] -/
def Obligations.DumpCommands : Prop :=
  ∀ (i : Fin 64) (s : State) (c : MbxCmd),
    (Ready s i 0x80 c → 49152 < c.p 0x10 4 + c.p 0x14 4 →
      exec (.cleatDump i) s = .next (completed (started s i c) s i c .outOfBounds)) ∧
    (Ready s i 0x80 c → c.p 0x10 4 + c.p 0x14 4 ≤ 49152 → exec (.cleatDump i) s =
      .next (completed (started s i c) s i c .done []
        ((List.range (c.p 0x14 4)).flatMap (fun k => s.cleatRecord (c.p 0x10 4 + k))))) ∧
    (Ready s i 0x81 c → c.p 0x10 1 = 0 → exec (.queueDump i) s = .next (completed (started s i c) s i c .done []
      (s.queueBytes (c.p 0x11 1) ++ s.resvBytes (c.p 0x11 1) ++
        s.regWords ((List.range 128).map (Reg.halPtr (c.p 0x11 1)))))) ∧
    (Ready s i 0x81 c → c.p 0x10 1 ≠ 0 → c.p 0x11 1 = 8 →
      exec (.queueDump i) s = .next (completed (started s i c) s i c .badDescriptor)) ∧
    (Ready s i 0x81 c → c.p 0x10 1 = 1 → c.p 0x11 1 < 8 → exec (.queueDump i) s =
      .next (completed (started s i c) s i c .done []
        (s.regWords ((List.range 256).flatMap (fun e => (List.range 4).map (Reg.coil (c.p 0x11 1) e)))))) ∧
    (Ready s i 0x81 c → c.p 0x10 1 = 2 → c.p 0x11 1 < 8 → exec (.queueDump i) s =
      .next (completed (started s i c) s i c .done [] (s.heldSnap (c.p 0x11 1)))) ∧
    (Ready s i 0x81 c → c.p 0x10 1 = 3 → c.p 0x11 1 < 8 → exec (.queueDump i) s =
      .next (completed (started s i c) s i c .done []
        (s.regWords ((List.range 64).flatMap (fun e => (List.range 2).map (Reg.sbEntry (c.p 0x11 1) e)))))) ∧
    (Ready s i 0x82 c → (s.rd .fltDumplen).toNat < c.p 0x10 8 + c.p 0x18 4 → exec (.crashFetch i) s =
      .next (completed (started s i c) s i c .outOfBounds (leBytes 8 (s.rd .fltDumplen).toNat))) ∧
    (Ready s i 0x82 c → c.p 0x10 8 + c.p 0x18 4 ≤ (s.rd .fltDumplen).toNat → exec (.crashFetch i) s =
      .next (completed ((started s i c).readPass (uCn 0) [(s.dumpAt + c.p 0x10 8, c.p 0x18 4)]) s i c .done
        (leBytes 8 (s.rd .fltDumplen).toNat) (s.bytes (s.dumpAt + c.p 0x10 8) (c.p 0x18 4)))) ∧
    (Ready s i 0x83 c → ∃ t, exec (.crashClear i) s = .next (completed t s i c .done) ∧
      t.bit .fltStat FLT_STAT.FATAL = false ∧ t.bit .fltStat FLT_STAT.DEVICE_FATAL = false ∧
      t.f .fltStat FLT_STAT.DUMP = 0 ∧ t.rd .fltDumplen = 0 ∧ t.flt.log = s.flt.log ∧ t.mem = s.mem ∧
      (∀ r, r ≠ .fltStat → r ≠ .fltDumplen → t.rd r = s.rd r))

/-- SECTION_LOAD, START, SUSPEND, RESUME, UNLOAD and SWITCH. Each command on a section that is not loaded completes with
BAD_DESCRIPTOR, and in a state that does not take it with BUSY, with nothing changed. SECTION_LOAD answers the first
failing check of its header and loads nothing; where every check passes it completes its own effect: the section is
LOADING, its image is being verified. SECTION_START and SECTION_RESUME need RUN, the period of the image, and an edge
at least 20 us away (TIMEOUT); where they have it, each completes its own effect: the start, or the restoration and
resumption, stands for that edge. SECTION_SUSPEND of a running section with a save area completes its own effect: the
section is SUSPENDING for DrainUs (0: 1,000). SECTION_UNLOAD of a LOADED, SUSPENDED, HALTED or ABORTED section unloads
it. SECTION_SWITCH needs an edge 200 us away, and is recorded with a cutoff 140 us before its edge when its verify
pass succeeds. The loader takes the phases of a load one by one (the model's pace: one a reference period, log entry
82), a failed one ends the command with its status and no section, the last one leaves the section LOADED and the
command DONE with the index of its measurement. Images are verified with opaque primitives (Config). A resumption of a
mast whose FAB_GEN has moved, or of an image whose key is erased, is turned away with the model's status (log entry
83). SECTION_LOAD, SECTION_START, SECTION_SUSPEND, SECTION_RESUME, SECTION_UNLOAD and SECTION_SWITCH each complete
here. [R411, R428, R429, R430, R434, R435, R436, R438, R441] -/
def Obligations.SectionCommands : Prop :=
  ∀ (i : Fin 64) (s : State) (c : MbxCmd) (sec : Nat), c.p 0x10 1 = sec →
    (∀ st h, Ready s i 0x31 c → s.imgCheck sec (c.p 0x18 8) none = (st, h) → st ≠ .done →
      exec (.sectionLoad i) s = .next (((underWay s i c).loadErr st sec false).mbxDone i (ran s c) st)) ∧
    (∀ h, Ready s i 0x31 c → s.imgCheck sec (c.p 0x18 8) none = (.done, h) → s.saveClash (c.p 0x18 8) h = true →
      exec (.sectionLoad i) s = .next (((underWay s i c).loadErr .badDescriptor sec false).mbxDone i (ran s c) .badDescriptor)) ∧
    (∀ h, Ready s i 0x31 c → s.imgCheck sec (c.p 0x18 8) none = (.done, h) → s.saveClash (c.p 0x18 8) h = false → ∃ t : State,
      exec (.sectionLoad i) s = .next t ∧ (t.sect sec).job = .load i c.seq 1 none ∧ (t.sect sec).hdr = h ∧
      t = ((underWay s i c).readPass uLoader [(c.p 0x18 8, 512)]).loadEnter sec (c.p 0x18 8) h (s.imgKeyOf h) i c.seq 1 none ∧
      ((∃ e < 8, s.bit (.slSec e 0) SL_SEC.VALID = false) → t.secState sec = some secLoading)) ∧
    (∀ q p edge, s.loaderNext = some sec → (s.sect sec).job = .load i q p edge →
      s.loaderClock = s.loadPhase sec i q p edge ∧
      (p = 1 → ∀ e st sig, s.secEntry sec = some e →
        s.imgVerify (s.f (.slSec e 1) SL_SEC.IMAGE) (s.sect sec).hdr (s.sect sec).key (some sec) = (st, sig) →
        (st = .done → (s.loaderClock.sect sec).job = .load i q 2 edge) ∧
        (st ≠ .done → ∃ u : State, s.loaderClock = ((u.dropEntry sec).loadErr st sec sig).mbxEnd i q st))) ∧
    (∀ q edge idx, s.f .slStat SL_STAT.MEASURES = idx → (s.secEntry sec).isSome = true → ∃ u : State,
      u.secState sec = some secLoaded ∧ u.f .slStat SL_STAT.MEASURES = (idx + 1) % 2 ^ 32 ∧
      (edge = none → (u.sect sec).job = .none ∧ s.loadDone sec i q edge = u.mbxEnd i q .done (leBytes 4 idx)) ∧
      ∀ k, edge = some k → s.loadDone sec i q edge = u ∧
        (u.sect sec).job = .start i q (max k s.tick.nextK) false (some (decide (k < s.tick.nextK)))) ∧
    (s.secState sec = none →
      (Ready s i 0x32 c → exec (.sectionStart i) s = .next ((underWay s i c).mbxDone i (ran s c) .badDescriptor)) ∧
      (Ready s i 0x33 c → exec (.sectionSuspend i) s = .next ((underWay s i c).mbxDone i (ran s c) .badDescriptor)) ∧
      (Ready s i 0x34 c → exec (.sectionResume i) s = .next ((underWay s i c).mbxDone i (ran s c) .badDescriptor)) ∧
      (Ready s i 0x35 c → exec (.sectionUnload i) s = .next (completed (started s i c) s i c .badDescriptor)) ∧
      (Ready s i 0x36 c → exec (.sectionSwitch i) s = .next ((underWay s i c).mbxDone i (ran s c) .badDescriptor))) ∧
    (∀ st, s.secState sec = some st →
      (Ready s i 0x32 c → st ≠ secLoaded ∨ (s.sect sec).job ≠ .none ∨ s.bit .stkCtrl STK_CTRL.RUN = false →
        exec (.sectionStart i) s = .next ((underWay s i c).mbxDone i (ran s c) .busy)) ∧
      (Ready s i 0x34 c → st ≠ secSuspended ∨ (s.sect sec).job ≠ .none ∨ s.bit .stkCtrl STK_CTRL.RUN = false →
        exec (.sectionResume i) s = .next ((underWay s i c).mbxDone i (ran s c) .busy)) ∧
      (Ready s i 0x33 c → st ≠ secRunning →
        exec (.sectionSuspend i) s = .next ((underWay s i c).mbxDone i (ran s c) .busy)) ∧
      (Ready s i 0x35 c → st ∉ [secLoaded, secSuspended, secHalted, secAborted] →
        exec (.sectionUnload i) s = .next (completed (started s i c) s i c .busy)) ∧
      (Ready s i 0x35 c → st ∈ [secLoaded, secSuspended, secHalted, secAborted] →
        exec (.sectionUnload i) s = .next (completed ((started s i c).unload sec) s i c .done)) ∧
      ((s.sect sec).job = .none → s.bit .stkCtrl STK_CTRL.RUN = true → leAt (s.sect sec).hdr 0x10 4 = s.period →
        (Ready s i 0x32 c → st = secLoaded → s.edgeIn (c.p 0x14 4) 20 = none →
          exec (.sectionStart i) s = .next ((underWay s i c).mbxDone i (ran s c) .timeout)) ∧
        (∀ k, s.edgeIn (c.p 0x14 4) 20 = some k →
          (Ready s i 0x32 c → st = secLoaded → ∃ t : State, exec (.sectionStart i) s = .next t ∧
            t = (underWay s i c).setSecJob sec (.start i c.seq k false none) ∧
            (t.sect sec).job = .start i c.seq k false none ∧ { t with mbx := s.mbx, secs := s.secs } = s) ∧
          (Ready s i 0x34 c → st = secSuspended → keyGone (s.sect sec).hdr (s.sect sec).key = true →
            exec (.sectionResume i) s = .next ((underWay s i c).mbxDone i (ran s c) .denied)) ∧
          (Ready s i 0x34 c → st = secSuspended → keyGone (s.sect sec).hdr (s.sect sec).key = false → s.gensSaved sec = false →
            exec (.sectionResume i) s = .next ((underWay s i c).mbxDone i (ran s c) .badDescriptor)) ∧
          (Ready s i 0x34 c → st = secSuspended → keyGone (s.sect sec).hdr (s.sect sec).key = false → s.gensSaved sec = true →
            ∃ t : State, exec (.sectionResume i) s = .next t ∧ t = (underWay s i c).setSecJob sec (.restore i c.seq k) ∧
            (t.sect sec).job = .restore i c.seq k ∧ { t with mbx := s.mbx, secs := s.secs } = s))) ∧
      (∀ q k, s.loaderNext = some sec → (s.sect sec).job = .restore i q k →
        s.loaderClock = (s.restoreSection sec).setSecJob sec (.start i q k true none)) ∧
      (Ready s i 0x33 c → st = secRunning → imgSave (s.sect sec).hdr ≠ 0 → exec (.sectionSuspend i) s =
        .next ((((underWay s i c).setSecState sec secSuspending).setSecJob sec (.suspend i c.seq s.now
          (s.now + (if c.p 0x14 4 = 0 then 1000 else c.p 0x14 4) * 1000))).suspendStop sec)) ∧
      (Ready s i 0x33 c → st = secRunning → imgSave (s.sect sec).hdr ≠ 0 → (s.stepOf sec).opens ≠ [] → ∃ t : State,
        exec (.sectionSuspend i) s = .next t ∧ t.secState sec = some secSuspending ∧
        (t.sect sec).job = .suspend i c.seq s.now (s.now + (if c.p 0x14 4 = 0 then 1000 else c.p 0x14 4) * 1000) ∧
        { t with mbx := s.mbx, secs := s.secs, regs := s.regs } = s) ∧
      (Ready s i 0x36 c → (s.sect sec).job = .none → s.bit .stkCtrl STK_CTRL.RUN = true →
        st ∈ [secLoaded, secRunning, secSuspended] →
        (s.edgeIn (c.p 0x14 4) 200 = none → exec (.sectionSwitch i) s =
          .next (((underWay s i c).slErrBit SL_ERR.SWITCH (c.p 0x11 1)).mbxDone i (ran s c) .timeout)) ∧
        (∀ k, s.edgeIn (c.p 0x14 4) 200 = some k → ∃ st' t,
          exec (.sectionSwitch i) s = .next (match st' with | some x => t.mbxDone i (ran s c) x | none => t) ∧
          (st' = none → (∃ j, t.loader.switches = s.loader.switches ++ [j] ∧ j.old = sec ∧ j.new = c.p 0x11 1 ∧ j.k = k) ∧
            (t.sect sec).cutoff = some (s.edgeAt k - 140000)) ∧
          (st' ≠ none → t.loader.switches = s.loader.switches)) ∧
        (∀ k h, s.edgeIn (c.p 0x14 4) 200 = some k → s.imgCheck (c.p 0x11 1) (c.p 0x18 8) (some sec) = (.done, h) →
          s.saveClash (c.p 0x18 8) h = false → (s.imgVerify (c.p 0x18 8) h (s.imgKeyOf h) (some sec)).1 = .done → ∃ t : State,
          exec (.sectionSwitch i) s = .next t ∧ t.loader.switches = s.loader.switches ++ [{
            mbx := i, seq := c.seq, old := sec, new := c.p 0x11 1, k := k, image := c.p 0x18 8, hdr := h, key := s.imgKeyOf h }] ∧
          (t.sect sec).cutoff = some (s.edgeAt k - 140000))))

/-- POWER_STATE, RESET and the resets they order. POWER_STATE is BUSY while a named mast holds a section, or under a fatal
device error or thermal shutdown for a state but SLEEP (log entry 68); it is done at once where every named mast is in
the state, else its masts are on their way. RESET warm is done at once and the reset follows 100 us after that
completion has left; of a mast BUSY while a section occupies it, of a port while a section uses it (log entry 46),
else the RST_STAT bit is set and the command is under way until the reset has happened. POWER_STATE (with every named
mast in the state) and RESET warm complete here; RESET of a mast or a port is taken up here. [R409, R462, R464, R472,
R476] -/
def Obligations.PowerAndResetCommands : Prop :=
  ∀ (i : Fin 64) (s : State) (c : MbxCmd),
    (Ready s i 0x71 c → (∃ m ∈ maskMasts (c.p 0x11 1), s.mastLocked m = true) →
      exec (.powerState i) s = .next ((underWay s i c).mbxDone i (ran s c) .busy)) ∧
    (Ready s i 0x71 c → c.p 0x10 1 < 2 → s.bit .fltStat FLT_STAT.DEVICE_FATAL = true →
      exec (.powerState i) s = .next ((underWay s i c).mbxDone i (ran s c) .busy)) ∧
    (Ready s i 0x71 c → (∀ m ∈ maskMasts (c.p 0x11 1), s.mastLocked m = false) →
      (c.p 0x10 1 = 2 ∨ (s.bit .fltStat FLT_STAT.DEVICE_FATAL = false ∧ s.pwr.shut = false)) → ∃ t,
      exec (.powerState i) s = .next (if ∃ m ∈ maskMasts (c.p 0x11 1), s.mastPower m ≠ c.p 0x10 1 then t
        else t.mbxDone i (ran s c) .done) ∧
      { t with pwr := s.pwr } = underWay s i c ∧
      (∀ m ∈ maskMasts (c.p 0x11 1), s.mastPower m ≠ c.p 0x10 1 → t.moveOf m = some (c.p 0x10 1)) ∧
      (∀ m ∈ maskMasts (c.p 0x11 1), s.mastPower m = c.p 0x10 1 → t.moveOf m = none) ∧
      (∀ m, m ∉ maskMasts (c.p 0x11 1) → t.moveOf m = s.moveOf m)) ∧
    (Ready s i 0x90 c → c.p 0x10 1 = 2 → exec (.reset i) s = .next (State.mbxDone
      { underWay s i c with boot := { s.boot with warmFor := some (i.val, c.seq, false) } } i (ran s c) .done)) ∧
    (Ready s i 0x90 c → c.p 0x10 1 = 3 → s.mastLocked (c.p 0x11 1) = true →
      exec (.reset i) s = .next ((underWay s i c).mbxDone i (ran s c) .busy)) ∧
    (Ready s i 0x90 c → c.p 0x10 1 = 3 → s.mastLocked (c.p 0x11 1) = false → c.p 0x11 1 < 8 → ∃ t,
      exec (.reset i) s = .next t ∧ OnlyRegs [.rstStat] (underWay s i c) t ∧
      bitN (t.f .rstStat RST_STAT.MAST) (c.p 0x11 1) = true) ∧
    (Ready s i 0x90 c → c.p 0x10 1 = 4 → s.portUsed (c.p 0x11 1) = true →
      exec (.reset i) s = .next ((underWay s i c).mbxDone i (ran s c) .busy)) ∧
    (Ready s i 0x90 c → c.p 0x10 1 = 4 → s.portUsed (c.p 0x11 1) = false → c.p 0x11 1 < 18 → ∃ t,
      exec (.reset i) s = .next t ∧ OnlyRegs [.rstStat] (underWay s i c) t ∧
      bitN (t.f .rstStat RST_STAT.PORT) (c.p 0x11 1) = true)

/-- SESSION_OPEN, KEY_IMPORT and DEBUG_UNLOCK. SESSION_OPEN with a malformed key is DENIED and changes nothing; with every
one of sixteen sessions bound it is BUSY; else a session is added at the end, its SessionId (not 0) is the result, the
device's key and signature are the output. KEY_IMPORT with a target or index other than the blob's is BAD_DESCRIPTOR,
of a slot in use BUSY, of a blob that fails a check DENIED, with SEC_REJECT counted and no key changed; else the owner
is bound and the blob's Counter is the last one accepted. DEBUG_UNLOCK is DENIED, with no key changed, unless an owner
is bound and the token's level is above the level in force; when it is DONE every imported key and session is erased
first and the level is the token's. The cryptographic primitives are opaque (Config). SESSION_OPEN, KEY_IMPORT and
DEBUG_UNLOCK each complete with DONE here. [R453, R454, R456, R457, R460, R461] -/
def Obligations.SecurityCommands : Prop :=
  ∀ (i : Fin 64) (s : State) (c : MbxCmd) (d : List Byte), (s.mailbox i).data c = d →
    (Ready s i 0x12 c → d.length ≠ 133 → exec (.sessionOpen i) s = .next (completed (started s i c) s i c .denied)) ∧
    (Ready s i 0x12 c → d.length = 133 → ∃ st res out t,
      exec (.sessionOpen i) s = .next (completed t s i c st res out) ∧
      (Config.p521Ok d = false → st = .denied ∧ t = started s i c) ∧
      (Config.p521Ok d = true → s.sessionRoom = none → st = .busy ∧ t = started s i c) ∧
      (∀ l, Config.p521Ok d = true → s.sessionRoom = some l → st = .done ∧ out.length = 265 ∧ ∃ x, x.id ≠ 0 ∧
        res = leBytes 4 x.id ∧ x.conn = none ∧ t.sec = { s.sec with sessions := l ++ [x] } ∧ t.mem = s.mem ∧
        (∀ r, r ≠ .secStat → t.rd r = s.rd r))) ∧
    (Ready s i 0x13 c → d.length = 564 → (leAt d 6 1 ≠ c.p 0x10 1 ∨ leAt d 7 1 ≠ c.p 0x11 1) →
      exec (.keyImport i) s = .next (completed (started s i c) s i c .badDescriptor)) ∧
    (Ready s i 0x13 c → leAt d 6 1 = c.p 0x10 1 → leAt d 7 1 = c.p 0x11 1 → s.keyBusy (c.p 0x10 1) (c.p 0x11 1) = true →
      exec (.keyImport i) s = .next (completed (started s i c) s i c .busy)) ∧
    (Ready s i 0x13 c → leAt d 6 1 = c.p 0x10 1 → leAt d 7 1 = c.p 0x11 1 → s.keyBusy (c.p 0x10 1) (c.p 0x11 1) = false →
      ∃ st t, exec (.keyImport i) s = .next (completed t s i c st) ∧
      (s.blobFault d ≠ none → st = .denied ∧ t.sec = s.sec ∧ t.mem = s.mem ∧
        t.f .secReject SEC_REJECT.CNT = min (s.f .secReject SEC_REJECT.CNT + 1) (2 ^ 32 - 1)) ∧
      (s.blobFault d = none → st = .done ∧ t.sec.counter = leAt d 0x58 8 ∧ s.sec.counter < t.sec.counter ∧
        t.bit .secStat SEC_STAT.OWNER_BOUND = true ∧
        (s.bit .secStat SEC_STAT.OWNER_BOUND = true → t.sec.ownerPub = s.sec.ownerPub))) ∧
    (Ready s i 0x14 c → ∃ st t, exec (.debugUnlock i) s = .next (completed t s i c st) ∧ (st = .done ∨ st = .denied) ∧
      (d.length ≠ 220 ∨ s.bit .secStat SEC_STAT.OWNER_BOUND = false → st = .denied) ∧
      (st = .denied → t.sec = s.sec ∧ t.mem = s.mem ∧ t.f .secStat SEC_STAT.DEBUG = s.f .secStat SEC_STAT.DEBUG) ∧
      (st = .done → s.f .secStat SEC_STAT.DEBUG < leAt d 6 1 ∧ leAt d 6 1 ≤ 2 ∧ t.f .secStat SEC_STAT.DEBUG = leAt d 6 1 ∧
        t.sec.image = [] ∧ t.sec.link = [] ∧ t.sec.abort = [] ∧ t.sec.sessions = [] ∧ t.sec.ownerPub = [])) ∧
    (Ready s i 0x14 c → d.length = 220 → leAt d 0 4 = 0x4C554B44 → leAt d 4 2 = 1 → leAt d 7 1 = 0 → leAt d 6 1 ≤ 2 →
      s.bit .secStat SEC_STAT.OWNER_BOUND = true → (d.drop 8).take 16 = fit 16 s.fuses.serial →
      (d.drop 0x18).take 64 = Config.sha512 (fit 133 (Config.p521Pub s.sec.importKey)) →
      Config.ecdsaOk s.sec.ownerPub (d.take 0x58) ((d.drop 0x58).take 132) = true →
      s.f .secStat SEC_STAT.DEBUG < leAt d 6 1 → ∃ t, exec (.debugUnlock i) s = .next (completed t s i c .done) ∧
      t.f .secStat SEC_STAT.DEBUG = leAt d 6 1 ∧ t.sec.image = [] ∧ t.sec.link = [] ∧ t.sec.abort = [] ∧
      t.sec.sessions = [] ∧ t.sec.ownerPub = [] ∧ t.bit .secStat SEC_STAT.OWNER_BOUND = false)

/-- COMMAND_RESOURCE_TIMEOUT and COMMAND_DATA_TIMEOUT. A command that has been at the head for 1 s without its resources
completes with BUSY; one that has had no byte of its incomplete DATA_IN for 1 s completes with TIMEOUT. Before that,
or once it has started, nothing changes. COMMAND_RESOURCE_TIMEOUT and COMMAND_DATA_TIMEOUT each complete here. [R407,
R408] -/
def Obligations.CommandLimits : Prop :=
  ∀ (i : Fin 64) (s : State) (c : MbxCmd) (t0 : Nat), (s.mailbox i).head = some c → c.head = some t0 → c.start = none →
    (c.granted = false → t0 + 1000000000 ≤ s.now →
      exec (.commandResourceTimeout i) s = .next (s.mbxDone i c .busy)) ∧
    (c.granted = true ∨ s.now < t0 + 1000000000 → exec (.commandResourceTimeout i) s = .next s) ∧
    ((s.mailbox i).dataFull c = false → max t0 (c.lastData.getD t0) + 1000000000 ≤ s.now →
      exec (.commandDataTimeout i) s = .next (s.mbxDone i c .timeout)) ∧
    ((s.mailbox i).dataFull c = true ∨ s.now < max t0 (c.lastData.getD t0) + 1000000000 →
      exec (.commandDataTimeout i) s = .next s)

/-- REG_READ and REG_WRITE under the host's policy. REG_READ checks every address before it reads any: the first failing
address decides the status, and nothing is read; output that does not fit completes with SHAPE_OVERFLOW and nothing is
read; else the words are read in ascending order, words 0 to 5 in Result and all of them in DATA_OUT. REG_WRITE to an
address or with a mask that the policy refuses completes with that status and writes nothing; else the merge of prior
value and Value under Mask is written, and the prior value is returned. REG_READ and REG_WRITE each complete here.
[R533, R534, R535, R536, R537, R538] -/
def Obligations.HostRegisterCommands : Prop :=
  ∀ (i : Fin 64) (s : State) (c : MbxCmd),
    (∀ k, Ready s i 0x60 c → k < c.p 0x18 2 → s.readCheck (c.p 0x10 8 + 8 * k) ≠ .done →
      (∀ j, j < k → s.readCheck (c.p 0x10 8 + 8 * j) = .done) →
      exec (.regRead i) s = .next (completed (started s i c) s i c (s.readCheck (c.p 0x10 8 + 8 * k)))) ∧
    (Ready s i 0x60 c → (∀ j, j < c.p 0x18 2 → s.readCheck (c.p 0x10 8 + 8 * j) = .done) →
      (c.dataLen ≠ 0 ∧ c.dataLen < 8 * c.p 0x18 2) ∨ (c.dataLen = 0 ∧ 6 < c.p 0x18 2) →
      exec (.regRead i) s = .next (completed (started s i c) s i c .shapeOverflow (leBytes 8 (8 * c.p 0x18 2)))) ∧
    (Ready s i 0x60 c → c.p 0x18 2 = 1 → s.readCheck (c.p 0x10 8) = .done → c.dataLen = 0 ∨ 8 ≤ c.dataLen →
      ∃ t, exec (.regRead i) s = .next (completed t s i c .done (leBytes 8 (s.readWord (c.p 0x10 8)).2.1)
        (if c.dataLen = 0 then [] else leBytes 8 (s.readWord (c.p 0x10 8)).2.1)) ∧
      t = ((started s i c).readWord (c.p 0x10 8)).2.2) ∧
    (Ready s i 0x61 c → s.writeCheck (c.p 0x10 8) (c.p 0x20 8) ≠ .done →
      exec (.regWrite i) s = .next (completed (started s i c) s i c (s.writeCheck (c.p 0x10 8) (c.p 0x20 8)))) ∧
    (∀ r, Ready s i 0x61 c → s.writeCheck (c.p 0x10 8) (c.p 0x20 8) = .done → regDecode (c.p 0x10 8) = .ok (some r) →
      exec (.regWrite i) s =
        .next (completed ((started s i c).writeWord (c.p 0x10 8) (hostMerge (some r) (s.regView r) (c.p 0x18 8) (c.p 0x20 8)) false).2
          s i c ((started s i c).writeWord (c.p 0x10 8) (hostMerge (some r) (s.regView r) (c.p 0x18 8) (c.p 0x20 8)) false).1
          (if ((started s i c).writeWord (c.p 0x10 8)
              (hostMerge (some r) (s.regView r) (c.p 0x18 8) (c.p 0x20 8)) false).1 = .done then leBytes 8 (s.regView r) else []))) ∧
    (Ready s i 0x61 c → regDecode (c.p 0x10 8) = .ok none →
      exec (.regWrite i) s = .next (completed (started s i c) s i c .done (zeros 8)))

/-- READ, WAIT_GE, ADD, SUB, TAKE and SET of an active cleat. On an active cleat of this device that no wait pends on, of
an issuer with no write outstanding and no earlier release waiting (R194), in flits that can be read (R28), whose
corrected errors are counted: READ returns Value and changes no cleat; WAIT_GE of a value reached, with room in its
segment's table, returns DONE and consumes N when asked, else it is pending; ADD saturates at 2^31 - 1, SUB ends at 0,
TAKE beyond 2^31 - 1 is FULL and leaves Value; the first status other than DONE that a signal carries stays in
ErrStatus; SET writes Value, clears ErrStatus, SAT and FLOOR, and moves the epoch on with RENEW. No other cleat and no
byte of memory changes. Then the shroud logic acts. CLEAT_READ, CLEAT_WAIT_GE, CLEAT_ADD, CLEAT_SUB, CLEAT_TAKE and
CLEAT_SET each complete here. [R28, R194, R295, R296, R298, R301, R303, R307] -/
def Obligations.CleatOperations : Prop :=
  ∀ (h : CltHdr) (n : BitVec 31) (consume renew : Bool) (tmo : BitVec 20) (st : Byte) (s₀ s : State) (c : Cleat) (i : Nat),
    s = crossed s₀ h → meshBad h.mesh = false → CleatTakes s h → i = h.index.toNat → c = s.cleat i → Unheld s h.issuer.toNat →
    (exec (.cleatRead h) s₀ =
      .next (s.cltReturn .plain h.issuer.toNat (s.cltResult c c.value .done c.err)).shroudPass) ∧
    (n.toNat ≤ c.value → s.segHolds (cleatSeg i) = false → ∃ t : State, exec (.cleatWaitGe h n consume tmo) s₀ = .next t.shroudPass ∧
      t.cleat i = (if consume then { c with value := c.value - n.toNat
                                            err := if c.value = n.toNat then .done else c.err } else c) ∧
      { t with clt := s.clt } = s ∧ t.clt.waits = s.clt.waits ∧ ∀ j, j ≠ i → t.cleat j = s.cleat j) ∧
    (c.value < n.toNat ∨ s.segHolds (cleatSeg i) = true → ∃ (t : State) (w : Wait), exec (.cleatWaitGe h n consume tmo) s₀ = .next t.shroudPass ∧
      t.clt.waits = s.clt.waits ++ [w] ∧ w.cleat = i ∧ w.n = n.toNat ∧ w.consume = consume ∧ w.tmo = tmo.toNat ∧
      w.start = s.now ∧ w.unit = h.issuer.toNat ∧ (t.cleat i).value = c.value ∧ { t with clt := s.clt } = s ∧
      ∀ j, j ≠ i → t.cleat j = s.cleat j) ∧
    (∃ t : State, exec (.cleatAdd h n st) s₀ = .next t.shroudPass ∧ (t.cleat i).value = min (c.value + n.toNat) (2 ^ 31 - 1) ∧
      (t.cleat i).err = (if c.err = .done then Status.ofCode st.toNat else c.err) ∧
      (t.cleat i).sat = (c.sat || decide (2 ^ 31 - 1 < c.value + n.toNat)) ∧ t.mem = s.mem ∧
      (∀ j, j ≠ i → t.cleat j = s.cleat j) ∧ (c.value + n.toNat < 2 ^ 31 → { t with clt := s.clt } = s)) ∧
    (∃ t : State, exec (.cleatSub h n st) s₀ = .next t.shroudPass ∧ (t.cleat i).value = c.value - n.toNat ∧
      (t.cleat i).err = (if c.err = .done then Status.ofCode st.toNat else c.err) ∧
      (t.cleat i).floor = (c.floor || decide (c.value < n.toNat)) ∧ t.mem = s.mem ∧
      (∀ j, j ≠ i → t.cleat j = s.cleat j) ∧ (n.toNat ≤ c.value → { t with clt := s.clt } = s)) ∧
    (∃ t : State, exec (.cleatTake h n st) s₀ = .next t.shroudPass ∧ t.mem = s.mem ∧ (∀ j, j ≠ i → t.cleat j = s.cleat j) ∧
      (t.cleat i).value = (if c.value + n.toNat < 2 ^ 31 then c.value + n.toNat else c.value) ∧
      ((Tbl.get {} t.clt.results h.issuer.toNat).st = if c.value + n.toNat < 2 ^ 31 then .done else .full)) ∧
    (∃ t : State, exec (.cleatSet h n renew) s₀ = .next t.shroudPass ∧ (t.cleat i).value = n.toNat ∧ (t.cleat i).err = .done ∧
      (t.cleat i).sat = false ∧ (t.cleat i).floor = false ∧ (t.cleat i).st = .active ∧
      (t.cleat i).epoch = (if renew then (c.epoch + 1) % 16 else c.epoch) ∧ { t with clt := s.clt, free := s.free } = s ∧
      ∀ j, j ≠ i → t.cleat j = s.cleat j)

/-- A cleat operation that fails a check of R303, or names a proxy, leaves every cleat as it was. Whichever check fails
first, of an issuer that nothing holds back (R194) the result carries that check's status, no cleat changes, no wait
is added, and no byte of memory changes. READ and WAIT_GE of a proxy cleat are DENIED; ADD, SUB, TAKE and SET of one
change no cleat and are queued to leave (R299). An operation in an uncorrectable flit returns POISONED and has no
other effect (R28; the status is the model's reading, log entry 84). A release whose issuer has remote writes that are
not acknowledged is held, and changes no cleat (R194). [R28, R194, R299, R303, R357] -/
def Obligations.CleatRefusals : Prop :=
  ∀ (h : CltHdr) (n : BitVec 31) (consume renew : Bool) (tmo : BitVec 20) (st : Byte) (s₀ s : State), s = crossed s₀ h →
    (meshBad h.mesh = true →
      ∀ e ∈ [Instr.cleatRead h, .cleatWaitGe h n consume tmo, .cleatAdd h n st, .cleatSub h n st, .cleatTake h n st,
          .cleatSet h n renew],
        ∃ t : State, exec e s₀ = .next t.shroudPass ∧ t.clt.tab = s.clt.tab ∧ t.clt.waits = s.clt.waits ∧
          { t with clt := s.clt } = s ∧ (Tbl.get {} t.clt.results h.issuer.toNat).st = .poisoned) ∧
    (meshBad h.mesh = false → s.isProxy h.index.toNat = false → Unheld s h.issuer.toNat →
      ∀ e ∈ [(Instr.cleatRead h, 0), (.cleatWaitGe h n consume tmo, 1), (.cleatAdd h n st, 2), (.cleatSub h n st, 3),
          (.cleatTake h n st, 4), (.cleatSet h n renew, 5)],
        s.cltCheck (CltHdr.req h e.2) h.issuer.toNat ≠ .done →
        ∃ t : State, exec e.1 s₀ = .next t.shroudPass ∧ t.clt.tab = s.clt.tab ∧ t.clt.waits = s.clt.waits ∧ t.mem = s.mem ∧
          (Tbl.get {} t.clt.results h.issuer.toNat).st = s.cltCheck (CltHdr.req h e.2) h.issuer.toNat) ∧
    (meshBad h.mesh = false → s.isProxy h.index.toNat = true → h.index.toNat ≤ cleatMax →
      (∀ e ∈ [Instr.cleatRead h, .cleatWaitGe h n consume tmo], ∃ t : State, exec e s₀ = .next t.shroudPass ∧
        t.clt.tab = s.clt.tab ∧ t.clt.waits = s.clt.waits ∧ (Tbl.get {} t.clt.results h.issuer.toNat).st = .denied) ∧
      (h.issuer.toNat / 65536 ≠ s.dev ∨ s.unsettled s.dev (h.issuer.toNat % 65536) = false →
        ∀ e ∈ [(Instr.cleatAdd h n st, 2), (.cleatSub h n st, 3), (.cleatTake h n st, 4), (.cleatSet h n renew, 5)],
        ∃ (t : State) (p : ProxyOp), exec e.1 s₀ = .next t.shroudPass ∧ t.net.proxies = s.net.proxies ++ [p] ∧
        p.idx = h.index.toNat - proxyBase ∧ p.op = e.2 ∧ p.operand = n.toNat ∧ p.unit = h.issuer.toNat ∧ p.who = .plain ∧
        p.upto = s.net.nextId ∧ { t with net := s.net } = s)) ∧
    (meshBad h.mesh = false → s.isProxy h.index.toNat = false → h.issuer.toNat / 65536 = s.dev →
      s.unsettled s.dev (h.issuer.toNat % 65536) = false → s.remoteOwes (h.issuer.toNat % 65536) s.net.nextId = true →
        ∀ e ∈ [(Instr.cleatAdd h n st, 2), (.cleatSub h n st, 3), (.cleatTake h n st, 4), (.cleatSet h n renew, 5)],
        ∃ (t : State) (x : HeldOp), exec e.1 s₀ = .next t.shroudPass ∧ t.clt.held = s.clt.held ++ [x] ∧
        x.req.op = e.2 ∧ x.req.index = h.index.toNat ∧ x.unit = h.issuer.toNat ∧ x.upto = s.net.nextId ∧
        { t with clt := { t.clt with held := s.clt.held } } = s)

/-- Pending waits: entry to a full segment's table, timeout, and proxy operations. The oldest wait held at a segment's
input enters the table when an entry is free and is evaluated; with a full table or no held wait nothing changes. A
wait whose TmoUs has passed ends with TIMEOUT, its cleat untouched; else nothing changes. A proxy operation leaves as
one CLEAT_OP frame once its issuer has no remote write outstanding; without an assigned ID, or a connection, it fails.
CLEAT_WAIT_ENTER, CLEAT_WAIT_TIMEOUT and PROXY_CLEAT_OP each complete here. [R298, R299, R301, R357] -/
def Obligations.CleatWaits : Prop :=
  ∀ (seg : Fin 9) (issuer : BitVec 33) (index : BitVec 16) (k : Fin 1024) (s : State),
    (2048 ≤ s.segWaits seg ∨ (∀ w ∈ s.clt.waits, w.held = true → cleatSeg w.cleat ≠ seg.val) →
      exec (.cleatWaitEnter seg) s = .next s) ∧
    (∀ w l1 l2, s.segWaits seg < 2048 → s.clt.waits = l1 ++ w :: l2 → w.held = true → cleatSeg w.cleat = seg.val →
      (∀ x ∈ l1, x.held = false ∨ cleatSeg x.cleat ≠ seg.val) → w ∉ l1 → exec (.cleatWaitEnter seg) s =
      .next (State.wake { s with clt := { s.clt with waits := l1 ++ { w with held := false } :: l2 } } w.cleat)) ∧
    (∀ w l1 l2, s.clt.waits = l1 ++ w :: l2 → w.unit = issuer.toNat → w.cleat = index.toNat → w.tmo ≠ 0 →
      w.start + 1000 * w.tmo ≤ s.now → w ∉ l1 →
      (∀ x ∈ l1, x.unit ≠ issuer.toNat ∨ x.cleat ≠ index.toNat ∨ x.tmo = 0 ∨ s.now < x.start + 1000 * x.tmo) →
      exec (.cleatWaitTimeout issuer index) s =
        .next (State.cltReturn { s with clt := { s.clt with waits := l1 ++ l2 } } w.who w.unit
          (s.cltResult (s.cleat w.cleat) (s.cleat w.cleat).value .timeout (s.cleat w.cleat).err))) ∧
    ((∀ x ∈ s.clt.waits, x.unit ≠ issuer.toNat ∨ x.cleat ≠ index.toNat ∨ x.tmo = 0 ∨ s.now < x.start + 1000 * x.tmo) →
      exec (.cleatWaitTimeout issuer index) s = .next s) ∧
    ((∀ p ∈ s.net.proxies, p.idx ≠ k.val) → exec (.proxyCleatOp k) s = .next s) ∧
    (∀ p l, s.net.proxies = p :: l → p.idx = k.val → p.unit / 65536 = s.dev → s.remoteOwes (p.unit % 65536) p.upto = true →
      exec (.proxyCleatOp k) s = .next s) ∧
    (∀ p l, s.net.proxies = p :: l → p.idx = k.val → s.net.ops = [] →
      p.unit / 65536 ≠ s.dev ∨ s.remoteOwes (p.unit % 65536) p.upto = false →
      (s.devAssigned = false → exec (.proxyCleatOp k) s =
        .next (State.proxyFail { s with net := { s.net with proxies := l } } p 0xFFFF .denied)) ∧
      (s.devAssigned = true → s.connFor (s.f (.pxy k) PXY.DEV) (p.unit % 65536) = none → exec (.proxyCleatOp k) s =
        .next (State.proxyFail { s with net := { s.net with proxies := l } } p 0xFFFF .peerLost)) ∧
      (∀ c, s.devAssigned = true → s.connFor (s.f (.pxy k) PXY.DEV) (p.unit % 65536) = some c →
        ∃ (t : State) (o : RemOp) (fr : TxFrame),
        exec (.proxyCleatOp k) s = .next t ∧ t.net.proxies = l ∧ t.net.ops = [o] ∧ o.cn = c ∧ o.unit = p.unit % 65536 ∧
        o.cont = .proxy (s.net.nextId % 2 ^ 32) ∧
        t.net.proxyOut = s.net.proxyOut ++ [(s.net.nextId % 2 ^ 32, c, p)] ∧
        t.net.txq = s.net.txq ++ [fr] ∧ fr.typ = tCleatOp ∧ fr.cn = c ∧ fr.queue = 0 ∧
        fr.subhdr.length = 32 ∧ t.mem = s.mem))

/-- A received frame: the order of checks, and a new frame is performed once. For every row of a sequenced frame: a frame
its port drops is counted in PORT_DROP, BAD where its FCS, ICV or protection failed, else FILT; one of a malformed
header in TP_DROP.UNKNOWN; one on no valid entry in UNKNOWN; one of another epoch in STALE; nothing else changes but
the counts of the FEC codewords the frame came in. A frame that passes and is new is marked, performed and completed;
one for another device is marked and completes with DENIED, not performed; one already received is not performed
again; one beyond the window is dropped. A CONTROL, SHROUD or trailer frame that an uncorrectable flit carried has no
effect and completes with POISONED (R28; the status is the model's reading, log entry 84). [R28, R347, R349, R361,
R362, R366, R374] -/
def Obligations.FrameRules : Prop :=
  ∀ (f : Frame) (s : State), ∀ e ∈ frameRows,
    (∀ F, (s.fecCount f).portRefuses f = some F → exec (e.1 f) s = .next ((s.fecCount f).incSat (.portDrop f.port f.sub) F)) ∧
    (f.good = false → (s.fecCount f).portRefuses f = some PORT_DROP.BAD) ∧
    (f.good = true → s.macsecOn f.port f.sub = false → f.wire.an = none → s.wireOk f = true →
      (s.fecCount f).portRefuses f = none) ∧
    ((s.fecCount f).portRefuses f = none → frameBad f e.2.1 = true →
      exec (e.1 f) s = .next ((s.fecCount f).tpDrop TP_DROP.UNKNOWN)) ∧
    ((s.fecCount f).portRefuses f = none → frameBad f e.2.1 = false → bitN f.verFlags.toNat 0 = false →
      s.cn (frameConn f) CN.VALID = 0 → exec (e.1 f) s = .next ((s.fecCount f).tpDrop TP_DROP.UNKNOWN)) ∧
    ((s.fecCount f).portRefuses f = none → frameBad f e.2.1 = false → bitN f.verFlags.toNat 0 = false →
      s.cn (frameConn f) CN.VALID = 1 →
      (s.cn (frameConn f) CN.HOST = 1 ∨ s.cn (frameConn f) CN.PEER = f.srcDev.toNat) →
      s.cn (frameConn f) CN.EPOCH ≠ f.conn.toNat / 4096 → exec (e.1 f) s = .next ((s.fecCount f).tpDrop TP_DROP.STALE)) ∧
    (Arrives s f e.2.1 → Fresh s f → exec (e.1 f) s =
      .next (framed ((marked s f).rxPerform f (frameConn f) e.2.1 e.2.2).2 f
        ((marked s f).rxPerform f (frameConn f) e.2.1 e.2.2).1)) ∧
    (Arrives s f e.2.1 → Fresh s f → meshBad f.mesh = true →
      e.2.1 = tControl ∨ e.2.1 = tShroud ∨ (e.2.1 = tRadd ∧ e.2.2 = 1) →
      exec (e.1 f) s = .next (framed (taken s f) f (some .poisoned))) ∧
    (Arrives s f e.2.1 → Unseen s f → mine s f = false → exec (e.1 f) s = .next (framed (marked s f) f (some .denied))) ∧
    (Arrives s f e.2.1 → (acked s f).cn (frameConn f) CN.STATE ∈ [cnOpen, cnClosing] →
      (2 ^ 31 ≤ serDist f.seq.toNat ((acked s f).rcvNxt (frameConn f)) ∨
        ((acked s f).conn (frameConn f)).marked.contains f.seq.toNat = true) →
      exec (e.1 f) s = .next (if (acked s f).frameDone (frameConn f) f.seq.toNat
        then (acked s f).sendAck (frameConn f) else acked s f).shroudPass) ∧
    (Arrives s f e.2.1 → (acked s f).cn (frameConn f) CN.STATE ∈ [cnOpen, cnClosing] →
      4096 ≤ serDist f.seq.toNat ((acked s f).rcvNxt (frameConn f)) →
      serDist f.seq.toNat ((acked s f).rcvNxt (frameConn f)) < 2 ^ 31 →
      ((acked s f).conn (frameConn f)).marked.contains f.seq.toNat = false → exec (e.1 f) s = .next (acked s f).shroudPass)

/-- WRITE, READ_REQ, READ_RESP, CLEAT_OP, RADD and SHROUD frames take their effect. A new frame that passes its checks: a
WRITE to a window that allows it puts its payload at the address it names, counts ACCEPTED and completes with DONE;
one the window refuses completes with the first failing status and writes nothing; a READ_REQ is answered with
READ_RESP frames; a READ_RESP for no read of this device changes nothing more, one that completes a read leaves its
data with the unit that reads; a CLEAT_OP request reaches its cleat with the sending unit as issuer; a RADD message is
answered as its bucket or ordered channel decides, an element message that an open bucket accepts is applied element
by element, a trailer that is accepted counts one arrival and adds its claims; a SHROUD frame of another generation is
counted and dropped, a RELEASE of the generation in force releases its group. WRITE, READ_REQ, READ_RESP, CLEAT_OP,
RADD_ELEMENT, RADD_TRAILER, SHROUD_ARRIVE and SHROUD_RELEASE each complete with DONE here. [R353, R355, R357, R307,
R331, R362] -/
def Obligations.FrameEffects : Prop :=
  ∀ (f : Frame) (s : State) (a n : Nat), a = leAt f.subhdr 0 8 % 2 ^ 47 → n = f.pay.length → Fresh s f →
    (taken s f).cn (frameConn f) CN.HOST = 0 →
    (Arrives s f tWrite → Calm (taken s f) → (taken s f).windowCheck (leAt f.subhdr 8 2) a n f.srcDev.toNat WIN.PW = .done →
      (taken s f).access .remote true a n = .done → ∃ t, exec (.write f) s = .next (framed t f (some .done)) ∧
      (∀ x, x < a ∨ a + n ≤ x → byteAt t x = byteAt (taken s f) x) ∧
      (∀ k, k < n → byteAt t (a + k) = f.pay.getD k 0) ∧
      t.f (.win (leAt f.subhdr 8 2 % 1024) 3) WIN.ACCEPTED =
        ((taken s f).f (.win (leAt f.subhdr 8 2 % 1024) 3) WIN.ACCEPTED + 1) % 2 ^ 64) ∧
    (∀ st, Arrives s f tWrite → st ≠ .done → (taken s f).windowCheck (leAt f.subhdr 8 2) a n f.srcDev.toNat WIN.PW = st →
      exec (.write f) s = .next (framed ((taken s f).winRefuse st) f (some st))) ∧
    (∀ len, Arrives s f tReadReq → Calm (taken s f) → len = leAt f.subhdr 10 2 → 0 < len → len ≤ 4096 →
      (taken s f).windowCheck (leAt f.subhdr 8 2) a len f.srcDev.toNat WIN.PR = .done →
      (taken s f).access .remote false a len = .done → (taken s f).cn (frameConn f) CN.STATE = cnOpen →
      0 < ((taken s f).conn (frameConn f)).maxpay → ∃ t frs,
      exec (.readReq f) s = .next (framed t f (some .done)) ∧ (∀ x, byteAt t x = byteAt (taken s f) x) ∧
      t.net.txq = (taken s f).net.txq ++ frs ∧ frs ≠ [] ∧ (∀ g ∈ frs, g.typ = tReadResp ∧ g.cn = frameConn f) ∧
      frs.flatMap (fun g => g.pay) = (List.range len).map (fun k => (taken s f).byte (a + k))) ∧
    (Arrives s f tReadResp → (∀ r ∈ (taken s f).net.reads, r.tag ≠ leAt f.subhdr 0 4) →
      exec (.readResp f) s = .next (framed (taken s f) f (some .done))) ∧
    (∀ r, Arrives s f tReadResp → (taken s f).net.reads = [r] → r.tag = leAt f.subhdr 0 4 → leAt f.subhdr 4 1 = 0 →
      r.got = [] → leAt f.subhdr 6 2 = 0 → r.len = n → ∃ t, exec (.readResp f) s = .next (framed t f (some .done)) ∧
      t.net.reads = [] ∧ t.mem = (taken s f).mem ∧ Tbl.get {} t.chip.results r.unit =
        { st := .done, data := f.pay, poison := r.poison || frameTaint f (leAt f.subhdr 8 8) != 0 }) ∧
    (Arrives s f tCleatOp → leAt f.subhdr 20 1 = 0 → meshBad f.mesh = false → exec (.cleatOp f) s =
      .next (framed ((taken s f).cltOp (CltReq.ofWords (leAt f.subhdr 0 8) (leAt f.subhdr 8 8))
        (f.srcDev.toNat * 65536 + f.srcUnit.toNat) (.remote (frameConn f) (leAt f.subhdr 16 4)) false) f (some .done))) ∧
    (Arrives s f tCleatOp → leAt f.subhdr 20 1 ≠ 0 → exec (.cleatOp f) s =
      .next (framed ((taken s f).rxCleatResult f) f (some .done))) ∧
    (Arrives s f tRadd → exec (.raddElement f) s =
      .next (framed ((taken s f).rxRadd f (frameConn f) false).2 f ((taken s f).rxRadd f (frameConn f) false).1)) ∧
    (∀ tag, Arrives s f tRadd → Calm (taken s f) → tag = leAt f.subhdr 8 2 % 4096 → (∀ o < 8, (taken s f).entState (4096 + o) = 0) →
      (taken s f).entState tag = 3 → (taken s f).f (.bkt tag 0) BKT.EPOCH = leAt f.subhdr 8 2 / 4096 →
      (taken s f).roundFull tag = false → ((taken s f).round tag).last = none →
      (((taken s f).round tag).ticked = false ∨ leAt f.subhdr 12 4 = (taken s f).ent tag BKT.ROUND ORD.ROUND) →
      (taken s f).entK16 tag = bitN (leAt f.subhdr 11 1) 0 → n ≠ 0 → n % ((taken s f).entFmt tag).bytes = 0 →
      a % ((taken s f).entFmt tag).bytes = 0 → (taken s f).entBase tag ≤ a →
      a + n ≤ (taken s f).entBase tag + (taken s f).entLen tag →
      ((taken s f).entBase tag < 0x018000000000 → (taken s f).hbmStatus = .done) → ∃ t,
      exec (.raddElement f) s = .next (framed t f (some .done)) ∧
      t.f (.bkt tag 7) BKT.APPLIED =
        ((taken s f).f (.bkt tag 7) BKT.APPLIED + n / ((taken s f).entFmt tag).bytes) % 2 ^ 32 ∧
      (∀ x, x < a ∨ a + n ≤ x → byteAt t x = byteAt (taken s f) x)) ∧
    (∀ tag, Arrives s f tRadd → meshBad f.mesh = false → tag = leAt f.subhdr 8 2 % 4096 →
      (∀ o < 8, (taken s f).entState (4096 + o) = 0) → (taken s f).red.routes = [] → (taken s f).entState tag = 3 →
      (taken s f).f (.bkt tag 0) BKT.EPOCH = leAt f.subhdr 8 2 / 4096 → (taken s f).roundFull tag = false →
      (taken s f).f (.bkt tag 0) BKT.F = leAt f.subhdr 11 1 % 64 → ((taken s f).round tag).last = none →
      (((taken s f).round tag).ticked = false ∨ leAt f.subhdr 12 4 = (taken s f).ent tag BKT.ROUND ORD.ROUND) → ∃ t,
      exec (.raddTrailer f) s = .next (framed t f (some .done)) ∧ t.mem = (taken s f).mem ∧
      t.f (.bkt tag 2) BKT.ARRIVED = ((taken s f).f (.bkt tag 2) BKT.ARRIVED + 1) % 2 ^ 16 ∧
      t.f (.bkt tag 5) BKT.CLAIMED = ((taken s f).f (.bkt tag 5) BKT.CLAIMED + leAt f.subhdr 16 8) % 2 ^ 64 ∧
      t.f (.bkt tag 7) BKT.CLAIMED_N = ((taken s f).f (.bkt tag 7) BKT.CLAIMED_N + leAt f.subhdr 0 4) % 2 ^ 32) ∧
    (∀ g, Arrives s f tShroud → meshBad f.mesh = false → g = leAt f.subhdr 0 1 % 16 →
      ((taken s f).bit (.shrGrp g) SHR_GRP.VALID = false ∨ leAt f.subhdr 4 2 ≠ (taken s f).shrStat g SHR_STAT.GEN →
        exec (.shroudArrive f) s = .next (framed ((taken s f).incSat .shrStale SHR_STALE.CNT) f (some .done)) ∧
        exec (.shroudRelease f) s = .next (framed ((taken s f).incSat .shrStale SHR_STALE.CNT) f (some .done))) ∧
      ((taken s f).bit (.shrGrp g) SHR_GRP.VALID = true → leAt f.subhdr 4 2 = (taken s f).shrStat g SHR_STAT.GEN →
        (taken s f).bit (.shrStat g) SHR_STAT.LOST = false →
        exec (.shroudRelease f) s =
          .next (framed ((taken s f).shrRelease g (Status.ofCode (leAt f.subhdr 3 1)) false) f (some .done)) ∧
        (∀ slot, slot = leAt f.subhdr 2 1 % 16 → slot ≠ 15 → bitN ((taken s f).shrStat g SHR_STAT.ARRIVED) slot = false →
          exec (.shroudArrive f) s = .next (framed (State.shrStage
            (((taken s f).setF (.shrStat g) SHR_STAT.ARRIVED ((taken s f).shrStat g SHR_STAT.ARRIVED + 2 ^ slot)).setShr g
              { (taken s f).shrGrp g with
                st := Status.or ((taken s f).shrGrp g).st (Status.ofCode (leAt f.subhdr 3 1)) }) g) f (some .done)))))

/-- A device edge and a section edge. A device edge falls only while RUN is 1 and the time base has reached T0 + k P: then
STK_NUM is k modulo 2^32, RUNNING is set, the next edge is k + 1, and reductions and halyards see the edge. A section
edge that is not due changes nothing; one beyond a switch's cutoff only moves the section's count; one that the
overrun rules skip (under FAULT, at a time when a marked step still lacks a report that is to come) also counts
SKIPPED; buckets and ordered channels of the section count every edge (R336); else the step opens with every reporter
missing and the edge reaches the units that are not held by an older step. That a stopped fairlead leaves its older
steps and starts anew at an edge is log entry 62. TICK_EDGE and SECTION_EDGE each complete here. [R207, R314, R315,
R316, R318, R336, R436] -/
def Obligations.TickEdges : Prop :=
  ∀ (sec : Byte) (s : State) (n k : Nat), n = sec.toNat → k = s.secNext n →
    (s.bit .stkCtrl STK_CTRL.RUN = false ∨ s.tick.tb < s.edgeAt s.tick.nextK * tbUnit → exec .tickEdge s = .next s) ∧
    (s.bit .stkCtrl STK_CTRL.RUN = true → s.edgeAt s.tick.nextK * tbUnit ≤ s.tick.tb → ∃ t : State,
      exec .tickEdge s = .next (State.halEdge ((0xFF :: t.idleSections).foldl (fun y x => y.entsEdge x (x == 0xFF)) t)) ∧
      t.f .stkNum STK_NUM.NUM = s.tick.nextK % 2 ^ 32 ∧ t.bit .stkStat STK_STAT.RUNNING = true ∧
      t.tick.nextK = s.tick.nextK + 1 ∧ t.tick.policy = s.bit .stkCtrl STK_CTRL.POLICY ∧
      { t with regs := s.regs, tick := s.tick } = s ∧ ∀ r, r ∉ [.stkNum, .stkStat] → t.rd r = s.rd r) ∧
    (s.secTicks n = false ∨ s.tick.nextK ≤ k ∨ s.tick.tb < (s.edgeAt k + (s.binding n).1) * tbUnit →
      exec (.sectionEdge sec) s = .next s) ∧
    (s.secTicks n = true → k < s.tick.nextK → (s.edgeAt k + (s.binding n).1) * tbUnit ≤ s.tick.tb →
      (∀ c, (Tbl.get {} s.secs n).cutoff = some c → c < s.deadlineAt n k →
        exec (.sectionEdge sec) s = .next ((s.setStep n { s.stepOf n with nextEdge := k + 1 }).entsEdge n true)) ∧
      ((∀ c, (Tbl.get {} s.secs n).cutoff = some c → s.deadlineAt n k ≤ c) →
        (s.tick.policy = false →
          (∃ o ∈ (s.stepOf n).opens, o.mark = true ∧ ∃ u ∈ s.lateAt n o (s.edgeAt k + (s.binding n).1), s.flLost u = false) →
          exec (.sectionEdge sec) s =
            .next (((s.setStep n { s.stepOf n with nextEdge := k + 1 }).incSat .stkCnt STK_CNT.SKIPPED).entsEdge n true)) ∧
        ((s.tick.policy = true ∨ ∀ o ∈ (s.stepOf n).opens, o.mark = true →
            ∀ u ∈ s.lateAt n o (s.edgeAt k + (s.binding n).1), s.flLost u = true) →
          (∃ (t : State) (us : List Nat), exec (.sectionEdge sec) s =
            .next ((us.foldl (fun y u => y.unitEdge u k) t).entsEdge n true) ∧
            (t.stepOf n).k = k ∧ (t.stepOf n).nextEdge = k + 1 ∧
            ∀ u ∈ s.reporters n, u ∈ us ∨ ∃ o ∈ (s.stepOf n).opens, u ∈ o.missing) ∧
          ((∀ u ∈ s.reporters n, s.flLost u = false) →
            ∃ (t : State) (us : List Nat), exec (.sectionEdge sec) s =
            .next ((us.foldl (fun y u => y.unitEdge u k) t).entsEdge n true) ∧
            { t with tick := s.tick } = s ∧ (t.stepOf n).k = k ∧ (t.stepOf n).nextEdge = k + 1 ∧
            (t.stepOf n).opens = (if s.reporters n = [] then (s.stepOf n).opens
              else (s.stepOf n).opens ++ [{ k := k, missing := s.reporters n }]) ∧
            ∀ u ∈ s.reporters n, u ∈ us ∨
              ∃ o ∈ (s.stepOf n).opens, u ∈ s.lateAt n o (s.edgeAt k + (s.binding n).1)))))

/-- End-of-step reports, deadlines and grace. The oldest report of a unit leaves the wire; it counts for the oldest step
the unit is missing from, and the last report ends the step (one that a stopped fairlead has left stays open until its
deadline has counted it, log entry 62); a unit that reported after its next edge gets that edge then. At the deadline
of a step, a step with every report in is only examined; a late one under FAULT, or after grace under LATE_OK, is
marked with its cause and counted in OVERRUN, and STK_ERR.OVERRUN is set. Before its deadline a step is left as it is.
END_OF_STEP, STEP_DEADLINE and STEP_GRACE_EXPIRY each complete here. [R316, R317, R318, R319, R321] -/
def Obligations.StepReports : Prop :=
  ∀ (unit : BitVec 16) (sec : Byte) (s : State) (n : Nat), n = sec.toNat →
    ((∀ r ∈ s.tick.reports, r.1 ≠ unit.toNat) → exec (.endOfStep unit) s = .next s) ∧
    (∀ r l1 l2, s.tick.reports = l1 ++ r :: l2 → r.1 = unit.toNat → (∀ x ∈ l1, x.1 ≠ unit.toNat) →
      ((s.workMast unit.toNat).bind s.mastSection = none → exec (.endOfStep unit) s =
        .next { s with tick := { s.tick with reports := l1 ++ l2 } }) ∧
      (∀ o, (s.workMast unit.toNat).bind s.mastSection = some n → (s.stepOf n).opens = [o] →
        unit.toNat ∈ o.missing → (∃ u ∈ o.missing, u ≠ unit.toNat) → ∃ t, exec (.endOfStep unit) s = .next t ∧
        t.tick.reports = l1 ++ l2 ∧ { t with tick := s.tick } = s ∧
        (t.stepOf n).opens = [{ o with missing := o.missing.filter (· != unit.toNat), last := max o.last r.2
                                       lastUnit := if o.last ≤ r.2 then unit.toNat else o.lastUnit }]) ∧
      (∀ o l o' A, (s.workMast unit.toNat).bind s.mastSection = some n → (s.stepOf n).opens = o :: l → o.missing = [unit.toNat] →
        o' = { o with missing := [], last := max o.last r.2, lastUnit := if o.last ≤ r.2 then unit.toNat else o.lastUnit } →
        A = (if o.gone = [] ∨ o.mark = true
          then State.stepDone (State.updOpen { s with tick := { s.tick with reports := l1 ++ l2 } } n o') n o'
          else State.updOpen { s with tick := { s.tick with reports := l1 ++ l2 } } n o') →
        exec (.endOfStep unit) s = .next (match (A.stepOf n).opens.find? (fun p => p.missing.contains unit.toNat) with
          | some p => if A.edgeAt p.k + (A.binding n).1 < r.2 then A.unitEdge unit.toNat p.k else A
          | none => A))) ∧
    ((∀ o ∈ (s.stepOf n).opens, o.checked = true) → exec (.stepDeadline sec) s = .next s) ∧
    (∀ o l, (s.stepOf n).opens = o :: l → o.checked = false →
      (s.tick.tb < s.deadlineAt n o.k * tbUnit → exec (.stepDeadline sec) s = .next s) ∧
      (s.deadlineAt n o.k * tbUnit ≤ s.tick.tb → (s.lateAt n o (s.deadlineAt n o.k) ++ o.gone = [] ∨ s.tick.policy = true) →
        ∃ t, exec (.stepDeadline sec) s = .next t ∧ (t.stepOf n).opens = { o with checked := true } :: l ∧
        { t with tick := s.tick } = s) ∧
      (s.deadlineAt n o.k * tbUnit ≤ s.tick.tb → s.lateAt n o (s.deadlineAt n o.k) ++ o.gone ≠ [] → s.tick.policy = false →
        ∃ t, exec (.stepDeadline sec) s = .next t ∧
        (t.stepOf n).opens = { o with ovr := some (o.ovr.getD 0), mark := true, checked := true } :: l ∧
        t.f .stkCnt STK_CNT.OVERRUN = satAdd 16 (s.f .stkCnt STK_CNT.OVERRUN) 1 ∧ t.mem = s.mem ∧
        (o.ovr = none → t.bit .stkErr STK_ERR.OVERRUN = true))) ∧
    (∀ o l, (s.stepOf n).opens = o :: l → o.checked = true → o.mark = false →
      (s.tick.policy = false ∨ s.tick.tb < (s.deadlineAt n o.k + s.grace) * tbUnit ∨
          s.lateAt n o (s.deadlineAt n o.k + s.grace) ++ o.gone = [] → exec (.stepGraceExpiry sec) s = .next s) ∧
      (s.tick.policy = true → (s.deadlineAt n o.k + s.grace) * tbUnit ≤ s.tick.tb →
        s.lateAt n o (s.deadlineAt n o.k + s.grace) ++ o.gone ≠ [] → o.missing = [] → ∃ t : State,
        exec (.stepGraceExpiry sec) s =
          .next (t.stepDone n { o with ovr := some (o.ovr.getD 1), mark := true, checked := true }) ∧ t.mem = s.mem ∧
        t.f .stkCnt STK_CNT.OVERRUN = satAdd 16 (s.f .stkCnt STK_CNT.OVERRUN) 1 ∧
        (o.ovr = none → t.bit .stkErr STK_ERR.OVERRUN = true)) ∧
      (s.tick.policy = true → (s.deadlineAt n o.k + s.grace) * tbUnit ≤ s.tick.tb →
        s.lateAt n o (s.deadlineAt n o.k + s.grace) ++ o.gone ≠ [] → o.missing ≠ [] → ∃ t,
        exec (.stepGraceExpiry sec) s = .next t ∧
        (t.stepOf n).opens = { o with ovr := some (o.ovr.getD 1), mark := true, checked := true } :: l ∧
        t.f .stkCnt STK_CNT.OVERRUN = satAdd 16 (s.f .stkCnt STK_CNT.OVERRUN) 1 ∧ t.mem = s.mem ∧
        (o.ovr = none → t.bit .stkErr STK_ERR.OVERRUN = true)))

/-- PPS_IN, TICK_IN and TB_STEP. Before boot phase 3 the pins change nothing. A PPS edge is stamped in TB_PPS and a
TICK_IN edge in TB_TICKIN, to a tenth of a ns after the last reference period; outside follower mode nothing else
changes, and an edge more than 1,000 ns from the nearest expected one only sets WINDOW. An expected edge that has not
come within its window is counted once, and the fourth in a row unlocks. TB_STEP is ignored while RUN is 1 and sets
WR_IGNORED; else it adds its signed ns, never below zero. PPS_IN_EDGE, TICK_IN_EDGE, TICK_IN_MISS and TB_STEP each
complete here. [R311, R312, R314, R477] -/
def Obligations.TimePins : Prop :=
  ∀ (sub : Fin 64) (v : Word) (s : State),
    (s.pinsOn = false → exec (.ppsInEdge sub) s = .next s ∧ exec (.tickInEdge sub) s = .next s) ∧
    (s.pinsOn = true → (∃ t, exec (.ppsInEdge sub) s = .next t ∧ OnlyRegs [.tbPps] s t ∧
        t.f .tbPps TB_PPS.ALL = (s.tick.tb + sub * tbUnit / 10) / tbUnit % 2 ^ 64) ∧
      (s.f .stkCtrl STK_CTRL.PINMODE % 2 = 0 → ∃ t, exec (.tickInEdge sub) s = .next t ∧ OnlyRegs [.tbTickin] s t ∧
        t.f .tbTickin TB_TICKIN.ALL = (s.tick.tb + sub * tbUnit / 10) / tbUnit % 2 ^ 64) ∧
      (∀ base p k, s.f .stkCtrl STK_CTRL.PINMODE % 2 = 1 → base = s.t0 * tbUnit + s.cable → p = s.period * tbUnit →
        k = (if s.tbAt sub < base then 0 else (s.tbAt sub - base + p / 2) / p) →
        (1000 * tbUnit < (Int.ofNat (s.tbAt sub) - Int.ofNat (base + k * p)).natAbs → ∃ t,
          exec (.tickInEdge sub) s = .next t ∧ OnlyRegs [.tbTickin, .stkErr] s t ∧ t.bit .stkErr STK_ERR.WINDOW = true) ∧
        ((Int.ofNat (s.tbAt sub) - Int.ofNat (base + k * p)).natAbs ≤ 1000 * tbUnit → ∃ t,
          exec (.tickInEdge sub) s = .next t ∧ t.mem = s.mem ∧ t.tick.tb = s.tick.tb ∧ t.tick.expectK = k + 1 ∧
          t.tick.slew = -(Int.ofNat (s.tbAt sub) - Int.ofNat (base + k * p)) ∧ t.tick.lockMissed = 0))) ∧
    (s.f .stkCtrl STK_CTRL.PINMODE % 2 = 0 ∨
        s.tick.tb ≤ s.t0 * tbUnit + s.cable + s.tick.expectK * (s.period * tbUnit) + 1000 * tbUnit →
      exec .tickInMiss s = .next s) ∧
    (s.f .stkCtrl STK_CTRL.PINMODE % 2 = 1 →
      s.t0 * tbUnit + s.cable + s.tick.expectK * (s.period * tbUnit) + 1000 * tbUnit < s.tick.tb → ∃ t,
      exec .tickInMiss s = .next t ∧ t.tick.lockMissed = s.tick.lockMissed + 1 ∧ t.tick.expectK = s.tick.expectK + 1 ∧
      t.mem = s.mem ∧ (s.tick.lockMissed < 3 → { t with tick := s.tick } = s) ∧
      (3 ≤ s.tick.lockMissed → t.bit .stkStat STK_STAT.LOCKED = false)) ∧
    (s.bit .stkCtrl STK_CTRL.RUN = true → ∃ t, exec (.tbStep v) s = .next t ∧ OnlyRegs [.stkErr] s t ∧
      OnlyFields .stkErr [STK_ERR.WR_IGNORED] s t ∧ t.bit .stkErr STK_ERR.WR_IGNORED = true) ∧
    (s.bit .stkCtrl STK_CTRL.RUN = false → exec (.tbStep v) s = .next { s with tick := { s.tick with
      tb := (Int.ofNat s.tick.tb + v.toInt * Int.ofNat tbUnit).toNat } })

/-- Buckets and ordered channels: arming, completion, timeout, application, and repeated messages. An entry that is not
CLOSED does not arm; one without an arm cleat that crowsnest declared arms while RUN is 0, and its counters and sums
are cleared; one whose wait on its arm cleat has ended with DONE arms; an ARMING entry opens with its range and poison
cleared; a round that is not full, or not open, does not complete, one that is full closes with the first of
CHECKSUM_MISMATCH, POISONED and DONE that its checks give; a timed-out round closes with TIMEOUT; an ordered channel
applies the staged contribution of its next rank only, counts it, and answers the message; a contribution refused for
a period ends with BUSY, and else a refused message that is due is sent again. BUCKET_ARM, BUCKET_ARM_DONE,
ROUND_COMPLETE, ROUND_TIMEOUT, ORD_APPLY and RADD_RETRY each complete here. [R330, R332, R334, R335, R336, R340] -/
def Obligations.Reductions : Prop :=
  ∀ (e : Fin 4104) (o : Fin 8) (s : State),
    (s.entState e ≠ 1 → exec (.bucketArm e) s = .next s) ∧
    (s.entState e = 1 → s.entArm e = 0xFFFF → s.entSection e = 0xFF → s.f .stkCtrl STK_CTRL.RUN = 0 → ∃ t,
      exec (.bucketArm e) s = .next t ∧ t.mem = s.mem ∧
      t.entState e = (if s.ent e BKT.INIT ORD.INIT = 1 then 2 else 3) ∧ t.ent e BKT.FLAGS ORD.FLAGS = 0 ∧
      (e.val < 4096 → t.f (.bkt e 2) BKT.ARRIVED = 0 ∧ t.f (.bkt e 7) BKT.APPLIED = 0 ∧ t.f (.bkt e 7) BKT.CLAIMED_N = 0)) ∧
    (∀ g l, s.entState e = 1 → s.entArm e ≠ 0xFFFF → s.clt.grants = g :: l → g.key = entKey e → g.st = .done →
      exec (.bucketArm e) s = .next (State.armEntry { s with clt := { s.clt with grants := l } } e)) ∧
    (s.entState e = 1 → s.entArm e = 0xFFFF → s.entSection e ≠ 0xFF → exec (.bucketArm e) s = .next s) ∧
    (s.entState e ≠ 2 → exec (.bucketArmDone e) s = .next s) ∧
    (s.entState e = 2 → s.entBase e < 0x018000000000 → s.hbmStatus ≠ .done → exec (.bucketArmDone e) s = .next s) ∧
    (s.entState e = 2 → (s.entBase e < 0x018000000000 → s.hbmStatus = .done) → ∃ t, exec (.bucketArmDone e) s = .next t ∧ t.entState e = 3 ∧
      (∀ a, s.entBase e ≤ a → a < s.entBase e + s.entLen e → cellAt t a = 0 ∧ a ∉ t.poison) ∧
      (Calm s → ∀ a, a < s.entBase e ∨ s.entBase e + s.entLen e ≤ a → byteAt t a = byteAt s a)) ∧
    (s.roundFull e = false → exec (.roundComplete e) s = .next s) ∧
    (s.roundFull e = true → exec (.roundComplete e) s = .next (s.closeRound e (s.roundStatus e).1 (s.roundStatus e).2)) ∧
    (s.entState e ≠ 3 ∨ (s.round e).ticked = false ∨ s.roundFull e = true → exec (.roundTimeout e) s = .next s) ∧
    (s.entState e = 3 → (s.round e).ticked = true → s.roundFull e = false → s.entSection e ≠ 0xFF →
      s.ent e BKT.TMO ORD.TMO ≤ (s.round e).edges → exec (.roundTimeout e) s = .next (s.closeRound e .timeout false)) ∧
    (s.entState e = 3 → (s.round e).ticked = true → s.roundFull e = false → s.entSection e ≠ 0xFF →
      (s.round e).edges < s.ent e BKT.TMO ORD.TMO → exec (.roundTimeout e) s = .next s) ∧
    ((∀ x ∈ (s.round (4096 + o)).staged, x.1 ≠ s.f (.ord o 4) ORD.APPLIED) → exec (.ordApply o) s = .next s) ∧
    (∀ d mask ack l1 l2, s.entState (4096 + o) = 3 →
      (s.round (4096 + o)).staged = l1 ++ (s.f (.ord o 4) ORD.APPLIED, d, mask, ack) :: l2 →
      (∀ x ∈ l1, x.1 ≠ s.f (.ord o 4) ORD.APPLIED) → ∃ t : State, exec (.ordApply o) s = .next (t.raddAnswer ack .done) ∧
      t.f (.ord o 4) ORD.APPLIED = (s.f (.ord o 4) ORD.APPLIED + 1) % 2 ^ (ORD.APPLIED.hi + 1 - ORD.APPLIED.lo) ∧
      (∀ a, a < s.entBase (4096 + o) ∨ s.entBase (4096 + o) + d.length ≤ a → Calm s → byteAt t a = byteAt s a)) ∧
    ((∀ c ∈ s.red.contribs, s.raddOver c = false) → (∀ r ∈ s.red.retries, s.now < r.due) → exec .raddRetry s = .next s) ∧
    (∀ c l, s.red.contribs = c :: l → s.raddOver c = true → exec .raddRetry s = .next (s.contribEnds c .busy)) ∧
    (∀ r l, (∀ c ∈ s.red.contribs, s.raddOver c = false) → s.red.retries = r :: l → r.due ≤ s.now →
      exec .raddRetry s = .next
        (State.raddSend { s with red := { s.red with retries := l } } r.contrib (min (2 * r.wait) 4096) r.msg))

/-- ABORT frames: what is dropped, what is accepted. An ABORT frame that its port drops is counted in PORT_DROP, BAD where
its integrity checks failed, else FILT, one of another format in TP_DROP.UNKNOWN; one without an installed key, with a
wrong tag, or with a counter that is not larger than the last accepted one is counted in ABT_DROP with its sticky bit,
and nothing else changes but the counts of the FEC codewords the frame came in; an accepted one stores its Counter in
ABT_CTR, and with no abort active and a section in scope it starts the abort: ACTIVE, PHASE 1, its scope, its time and
the frame that is owed an ABORT_DONE. Tag equality is the conclusion's case, never a hypothesis. ABORT_FRAME completes
here. [R366, R374, R414, R415, R416, R417] -/
def Obligations.AbortFrames : Prop :=
  ∀ (f : Frame) (s : State),
    (∀ F, (s.fecCount f).portRefuses f = some F → (f.good = false → F = PORT_DROP.BAD) ∧ ∃ t, exec (.abortFrame f) s = .next t ∧
      OnlyRegs [.portDrop f.port f.sub] (s.fecCount f) t ∧ OnlyFields (.portDrop f.port f.sub) [F] (s.fecCount f) t) ∧
    ((s.fecCount f).portRefuses f = none → frameBad f tAbort = true ∨ f.pay.length ≠ 16 ∨ leAt f.subhdr 0 1 ≠ 0 ∨ 1 < leAt f.subhdr 1 1 ∨ bitN f.verFlags.toNat 0 = false →
      ∃ t, exec (.abortFrame f) s = .next t ∧ OnlyRegs [.tpDrop] (s.fecCount f) t ∧ OnlyFields .tpDrop [TP_DROP.UNKNOWN] (s.fecCount f) t) ∧
    ((s.fecCount f).portRefuses f = none → frameBad f tAbort = false → bitN f.verFlags.toNat 0 = true → f.pay.length = 16 →
      leAt f.subhdr 0 1 = 0 → leAt f.subhdr 1 1 ≤ 1 →
      (s.sec.abort.find? (fun e => e.1 == leAt f.subhdr 3 1) = none → ∃ t, exec (.abortFrame f) s = .next t ∧
        OnlyRegs [.abtDrop, .abtErr] (s.fecCount f) t ∧ t.bit .abtErr ABT_ERR.NOKEY = true ∧
        t.f .abtDrop ABT_DROP.CNT = satAdd 32 (s.f .abtDrop ABT_DROP.CNT) 1) ∧
      (∀ e, s.sec.abort.find? (fun e => e.1 == leAt f.subhdr 3 1) = some e → ∃ t, exec (.abortFrame f) s = .next t ∧
        (Config.gcmTag e.2 (zeros 4 ++ leBytes 8 (leAt f.subhdr 8 8)) (f.subhdr.take 24 ++ leBytes 4 f.srcDev.toNat) [] ≠ f.pay →
          OnlyRegs [.abtDrop, .abtErr] (s.fecCount f) t ∧ t.bit .abtErr ABT_ERR.BADTAG = true) ∧
        (Config.gcmTag e.2 (zeros 4 ++ leBytes 8 (leAt f.subhdr 8 8)) (f.subhdr.take 24 ++ leBytes 4 f.srcDev.toNat) [] = f.pay →
          leAt f.subhdr 8 8 ≤ s.f (.abtCtr (leAt f.subhdr 3 1)) ABT_CTR.ALL →
          OnlyRegs [.abtDrop, .abtErr] (s.fecCount f) t ∧ t.bit .abtErr ABT_ERR.REPLAY = true) ∧
        (Config.gcmTag e.2 (zeros 4 ++ leBytes 8 (leAt f.subhdr 8 8)) (f.subhdr.take 24 ++ leBytes 4 f.srcDev.toNat) [] = f.pay →
          s.f (.abtCtr (leAt f.subhdr 3 1)) ABT_CTR.ALL < leAt f.subhdr 8 8 →
          s.bit .abtStat ABT_STAT.ACTIVE = false → s.abortScope (leAt f.subhdr 1 1) (leAt f.subhdr 2 1) ≠ [] →
          ∃ x : State, t = x.abortStop (s.abortScope (leAt f.subhdr 1 1) (leAt f.subhdr 2 1)) ∧
          OnlyRegs [.abtCtr (leAt f.subhdr 3 1), .abtStat] { s.fecCount f with abt := x.abt } x ∧
          x.f (.abtCtr (leAt f.subhdr 3 1)) ABT_CTR.ALL = leAt f.subhdr 8 8 ∧
          x.bit .abtStat ABT_STAT.ACTIVE = true ∧ x.f .abtStat ABT_STAT.PHASE = 1 ∧
          x.abt.scope = s.abortScope (leAt f.subhdr 1 1) (leAt f.subhdr 2 1) ∧ x.abt.start = s.now ∧ x.abt.trig = false ∧
          ∃ a, x.abt.frames = [a] ∧ a.port = f.port ∧ a.counter = leAt f.subhdr 8 8 ∧ a.key = leAt f.subhdr 3 1 ∧
            a.dst = f.srcDev.toNat ∧ a.time = s.now)))

/-- TRIGGER, quiet, forced clear and the mailbox command ABORT. TRIGGER with a section in scope and no abort active starts
the abort of those sections, in PHASE 1; while one is active it joins, with PHASE 1 again where it adds a section, and
does not restart its times; with nothing in scope the abort ends at once. A quiet abort goes to its cleanup, PHASE 4;
after 80 µs one that is not quiet is forced, PHASE 3, with the masts that were not quiet; earlier, or in another
phase, the events change nothing. Then the abort's own clock goes on: PHASE 2 from 3 µs on, 4 after 3, and cleanup
ends it: ACTIVE 0, PHASE 0, ABT_LAST holds whether it was forced and how long it took, and nothing is owed any more
(one phase a reference period is the model's pace, log entry 82). The mailbox command runs when it is accepted: a
command whose checks fail completes with that status, one that passes cancels the queued section commands that its
scope names (of its own mailbox, or of all with Cancel 1; which ones a scope names is the model's reading, log entry
70) and writes TRIGGER. TRIGGER, ABORT_QUIET, ABORT_FORCE and ABORT each complete here. [R406, R416, R417, R418] -/
def Obligations.AbortCourse : Prop :=
  ∀ (i : Fin 64) (s : State) (secs : List Nat),
    (secs = s.abortScope (s.f .abtCtrl ABT_CTRL.SCOPE) (s.f .abtCtrl ABT_CTRL.SECTION) →
      (s.bit .abtStat ABT_STAT.ACTIVE = false → secs = [] → ∃ t, exec .trigger s = .next t ∧ t.abt = {} ∧
        t.bit .abtStat ABT_STAT.ACTIVE = false ∧ t.f .abtStat ABT_STAT.PHASE = 0 ∧ t.f .abtCtrl ABT_CTRL.TRIGGER = 0 ∧
        t.f .abtStat ABT_STAT.COUNT = (s.f .abtStat ABT_STAT.COUNT + 1) % 2 ^ (ABT_STAT.COUNT.hi + 1 - ABT_STAT.COUNT.lo) ∧
        t.f .abtLast ABT_LAST.FORCED = 0 ∧ t.f .abtLast ABT_LAST.SOURCE = 1) ∧
      (s.bit .abtStat ABT_STAT.ACTIVE = false → secs ≠ [] → ∃ x : State, exec .trigger s = .next (x.abortStop secs) ∧
        OnlyRegs [.abtCtrl, .abtStat] { s with abt := { scope := secs, start := s.now, trig := true } } x ∧
        x.bit .abtStat ABT_STAT.ACTIVE = true ∧ x.f .abtStat ABT_STAT.PHASE = 1 ∧ x.f .abtCtrl ABT_CTRL.TRIGGER = 1) ∧
      (s.bit .abtStat ABT_STAT.ACTIVE = true → ∃ (x : State) (new : List Nat), exec .trigger s = .next (x.abortStop new) ∧
        new = secs.filter (fun k => !s.abt.scope.contains k) ∧
        OnlyRegs [.abtCtrl, .abtStat] { s with abt := { s.abt with scope := s.abt.scope ++ new } } x ∧
        x.f .abtStat ABT_STAT.PHASE = (if new = [] then s.f .abtStat ABT_STAT.PHASE else 1))) ∧
    (s.abortWaits = (s.bit .abtStat ABT_STAT.ACTIVE && decide (s.f .abtStat ABT_STAT.PHASE ≤ 2))) ∧
    (s.abortWaits = false ∨ s.abortQuiet = false → exec .abortQuiet s = .next s) ∧
    (s.abortWaits = false ∨ s.abortQuiet = true ∨ s.now < s.abt.start + 80000 → exec .abortForce s = .next s) ∧
    (s.abortWaits = true → s.abortQuiet = true → ∃ t, exec .abortQuiet s = .next t ∧ OnlyRegs [.abtStat] s t ∧
      OnlyFields .abtStat [ABT_STAT.PHASE] s t ∧ t.f .abtStat ABT_STAT.PHASE = 4) ∧
    (s.abortWaits = true → s.abortQuiet = false → s.abt.start + 80000 ≤ s.now → ∃ t,
      exec .abortForce s = .next t ∧ t.f .abtStat ABT_STAT.PHASE = 3 ∧ t.bit .abtErr ABT_ERR.FORCED = true ∧
      t.abt.forced = (if s.abortMasts.filter (fun m => !s.drained [m]) = [] then s.abortMasts
        else s.abortMasts.filter (fun m => !s.drained [m]))) ∧
    (s.f .abtStat ABT_STAT.PHASE = 1 → s.abortClock =
      if s.abt.start + 3000 ≤ s.now then s.setF .abtStat ABT_STAT.PHASE 2 else s) ∧
    (s.f .abtStat ABT_STAT.PHASE = 3 → s.abortClock = s.setF .abtStat ABT_STAT.PHASE 4) ∧
    (s.f .abtStat ABT_STAT.PHASE = 4 → s.abortClock.abt = {} ∧ s.abortClock.bit .abtStat ABT_STAT.ACTIVE = false ∧
      s.abortClock.f .abtStat ABT_STAT.PHASE = 0 ∧
      s.abortClock.f .abtLast ABT_LAST.FORCED = (if s.abt.forced = [] then 0 else 1) ∧
      s.abortClock.f .abtLast ABT_LAST.ELAPSED = min (s.now - s.abt.start) (2 ^ 32 - 1)) ∧
    (s.f .abtStat ABT_STAT.PHASE ∉ [1, 3, 4] → s.abortClock = s) ∧
    ((s.mailbox i).abortHead = none → exec (.abort i) s = .next s) ∧
    (∀ c d : MbxCmd, (s.mailbox i).abortHead = some c → d = { begun s c with head := some s.now, running := true } →
      (s.mbxCheck c ≠ .done → exec (.abort i) s = .next ((s.updCmd i c.seq (fun _ => d)).mbxDone i d (s.mbxCheck c))) ∧
      (s.mbxCheck c = .done → exec (.abort i) s = .next (State.trigger
        ((if c.p 0x12 1 = 1 then (s.updCmd i c.seq (fun _ => d)).mbxList else [i.val]).foldl
          (fun (y : State) (j : Nat) => y.cancelQueued j (c.p 0x10 1) (c.p 0x11 1))
          (s.updCmd i c.seq (fun _ => d))) (c.p 0x10 1) (c.p 0x11 1))))

/-- KICK, the watchdog's first expiry, and a crowsnest restart. KICK restarts the watchdog's period and clears nothing
else. Before a period has passed, and while no core is up, an expiry changes nothing; the first expiry sets STAGE1 and
raises the interrupt. A restart after a further period or an uncorrectable SRAM error clears crowsnest SRAM, gives
every mailbox its next epoch modulo 256 with both rings empty, restarts the watchdog and counts in RESTARTS; keys,
tick, fuses and the sections' steps are as before, and so is every byte of memory outside crowsnest SRAM, unless a
dump was being written. KICK, CN_WD_STAGE1 and CN_RESTART each complete here. [R395, R402] -/
def Obligations.WatchdogAndRestart : Prop :=
  ∀ (sram : Bool) (s : State),
    exec .kick s = .next { s with cns := { wdAt := s.now } } ∧
    (s.f .cnStat CN_STAT.CORES_UP = 0 ∨ s.cns.wdFired = true ∨ s.now < s.cns.wdAt + s.wdPeriod →
      exec .cnWdStage1 s = .next s) ∧
    (s.f .cnStat CN_STAT.CORES_UP ≠ 0 → s.cns.wdFired = false → s.cns.wdAt + s.wdPeriod ≤ s.now → ∃ t,
      exec .cnWdStage1 s = .next t ∧ t.bit .cnWd CN_WD.STAGE1 = true ∧ OnlyFields .cnWd [CN_WD.STAGE1] s t ∧
      t.cns.wdAt = s.now ∧ t.cns.wdFired = true ∧ t.cns.nmi = true ∧ t.mem = s.mem ∧ t.tick = s.tick ∧ t.secs = s.secs) ∧
    (s.f .cnStat CN_STAT.CORES_UP = 0 → exec (.cnRestart sram) s = .next s) ∧
    (s.cns.wdFired = false ∨ s.now < s.cns.wdAt + s.wdPeriod → exec (.cnRestart false) s = .next s) ∧
    (s.f .cnStat CN_STAT.CORES_UP ≠ 0 → sram = true ∨ (s.cns.wdFired = true ∧ s.cns.wdAt + s.wdPeriod ≤ s.now) → ∃ t,
      exec (.cnRestart sram) s = .next t ∧ t.cns = { wdAt := s.now } ∧
      t.f .cnStat CN_STAT.RESTARTS = (s.incSat .cnStat CN_STAT.RESTARTS).f .cnStat CN_STAT.RESTARTS ∧
      (∀ i, i < 64 → t.mailbox i = { epoch := ((s.mailbox i).epoch + 1) % 256 }) ∧
      (∀ a, sramBase ≤ a → a < sramBase + 0x01000000 → cellAt t a = 0) ∧
      (s.f .fltStat FLT_STAT.DUMP ≠ 1 → Canonical s → ∀ a, a < sramBase ∨ sramBase + 0x01000000 ≤ a →
        cellAt t a = cellAt s a) ∧
      t.sec = s.sec ∧ t.tick = s.tick ∧ t.fuses = s.fuses ∧ t.clt = s.clt ∧ t.red = s.red)

/-- Send slots: triggers, reply reservations, resends and the send timer. A trigger on a slot whose owner does not run,
that is not VALID, has no trigger, is busy, or is parked with an inactive cleat changes nothing; one whose wait is
pending only unparks; a granted one with a bad descriptor completes with its status, counts and signals nothing else;
a request with a good descriptor takes a free reservation of its reply downhaul and leaves for its channel with its
payload as read, or waits where none is free. A waiting request leaves when a reservation is free; a refused one is
resent when its wait is over; a send whose timer expires completes with FULL and signals its cleat, and what it had
under way tells the slot nothing any more. HAL_SEND_TRIGGER, HAL_RESERVE, HAL_RESEND and HAL_SEND_TIMEOUT each
complete here. [R282, R284, R287, R290, R291] -/
def Obligations.HalyardSends : Prop :=
  ∀ (o : Fin 9) (i : Fin 64) (s y z : State) (a : Nat) (d : List Byte), a = s.f (.halSend o i 1) HAL_SEND.DESC →
    y = s.readPass (uHal o i) [(a, 64)] → d = y.bytes a 64 → z = y.sendCount o i d →
    (s.halRuns o = false ∨ s.bit (.halSend o i 0) HAL_SEND.VALID = false ∨ s.f (.halSend o i 0) HAL_SEND.TRIG = 0xFFFF ∨
        (s.job o i).isSome = true ∨ (s.bit (.halSstat o i) HAL_SSTAT.PARKED = true ∧
          (s.cleat (s.f (.halSend o i 0) HAL_SEND.TRIG)).st ≠ .active) → exec (.halSendTrigger o i) s = .next s) ∧
    (s.halRuns o = true → s.bit (.halSend o i 0) HAL_SEND.VALID = true → s.f (.halSend o i 0) HAL_SEND.TRIG ≠ 0xFFFF →
      s.job o i = none → s.bit (.halSstat o i) HAL_SSTAT.PARKED = false →
      (s.clt.grants.find? (fun g => g.key == .send o i) = none → s.clt.waits.any (fun w => w.who == .eng (.send o i)) = true →
        ∃ t, exec (.halSendTrigger o i) s = .next t ∧ OnlyRegs [.halSstat o i] s t ∧
        OnlyFields (.halSstat o i) [HAL_SSTAT.PARKED] s t) ∧
      (∀ g, s.clt.grants.find? (fun g => g.key == .send o i) = some g → g.st = .done →
        (s.descCheck o a ≠ .done → ∃ t, exec (.halSendTrigger o i) s = .next t ∧ t.mem = s.mem ∧ t.job o i = none ∧
          t.f (.halSstat o i) HAL_SSTAT.LAST_STATUS = (s.descCheck o a).code ∧ t.bit (.halSstat o i) HAL_SSTAT.BUSY = false) ∧
        (∀ n, s.descCheck o a = .done → y.poisonedAt a 64 = false → z.sendCheck o d = (.done, n) →
          fld (leAt d 0 8) 1 0 = 0 →
          (s.resvFree (128 * o + 64 + fld (leAt d 0 8) 55 50) (fld (leAt d 0 8) 49 41) = none → ∃ t x,
            exec (.halSendTrigger o i) s = .next t ∧ t.job o i = some x ∧ x.phase = .resv ∧ x.len = n ∧ x.resv = false ∧
            x.start = s.now ∧ t.bit (.halSstat o i) HAL_SSTAT.BUSY = true ∧ (Calm s → ∀ b, byteAt t b = byteAt s b)) ∧
          (∀ k, s.resvFree (128 * o + 64 + fld (leAt d 0 8) 55 50) (fld (leAt d 0 8) 49 41) = some k →
            fld (leAt d 16 8) 16 0 = s.dev → ∃ t x, exec (.halSendTrigger o i) s = .next t ∧ t.job o i = some x ∧
            x.phase = .travel ∧ x.len = n ∧ x.rslot = k ∧ x.resv = true ∧ x.ep = fld (leAt d 16 8) 28 17 ∧
            x.data = (z.readPass (uHal o i) [(fld (leAt d 8 8) 46 0, n)]).sendData o (fld (leAt d 8 8) 46 0) n ∧
            (Calm s → ∀ b, byteAt t b = byteAt s b) ∧
            ((t.chan (128 * o + 64 + fld (leAt d 0 8) 55 50)).slot k).held = true ∧
            ((t.chan (128 * o + 64 + fld (leAt d 0 8) 55 50)).slot k).maxReply = fld (leAt d 0 8) 49 41)))) ∧
    ((∀ x, s.job o i = some x → x.phase ≠ .resv ∨ x.reply = true) → exec (.halReserve o i) s = .next s) ∧
    (∀ x, s.job o i = some x → x.phase = .resv → x.reply = false →
      (s.resvFree (128 * o + 64 + x.chan) x.maxReply = none → exec (.halReserve o i) s = .next s) ∧
      (∀ k, s.resvFree (128 * o + 64 + x.chan) x.maxReply = some k → x.dev = s.dev → ∃ t,
        exec (.halReserve o i) s = .next t ∧ (Calm s → ∀ b, byteAt t b = byteAt s b) ∧
        ((t.chan (128 * o + 64 + x.chan)).slot k).held = true ∧ t.job o i = some { x with
          phase := .travel, rslot := k, rgen := ((s.chan (128 * o + 64 + x.chan)).slot k).gen, resv := true
          data := (s.readPass (uHal o i) [(x.addr, x.len)]).sendData o x.addr x.len })) ∧
    ((∀ x, s.job o i = some x → x.phase ≠ .retry ∨ s.now < x.due) → exec (.halResend o i) s = .next s) ∧
    (∀ x, s.job o i = some x → x.phase = .retry → x.due ≤ s.now → x.dev = s.dev → exec (.halResend o i) s =
      .next ((s.readPass (uHal o i) [(x.addr, x.len)]).setJob o i { x with
        phase := .travel, data := (s.readPass (uHal o i) [(x.addr, x.len)]).sendData o x.addr x.len })) ∧
    ((∀ x, s.job o i = some x → s.now < x.start + x.tmo) → exec (.halSendTimeout o i) s = .next s) ∧
    (∀ x, s.job o i = some x → x.start + x.tmo ≤ s.now → ∃ t : State,
      exec (.halSendTimeout o i) s = .next (t.signal (uHal o i) x.cleat .full) ∧ t.mem = s.mem ∧ t.job o i = none ∧
      (∀ p ∈ t.net.ops, p.cont ≠ .send o i) ∧
      t.f (.halSstat o i) HAL_SSTAT.LAST_STATUS = Status.code .full ∧ t.bit (.halSstat o i) HAL_SSTAT.BUSY = false ∧
      t.bit (.halSstat o i) HAL_SSTAT.RETRYING = false ∧ t.bit (.halErr o) HAL_ERR.FULL = true)

/-- Messages land, notifications enter, and reservations expire. A send that is not on its way does not land; a message
its channel refuses is answered with that status; an accepted one puts its bytes at its landing address, poisoned
where its flits cannot be read (R28), and every byte outside is as before, and it waits for its notification. The
oldest landed message of an endpoint enters the queue at the end, a reply whose reservation has ended meanwhile is
stale and enters none, and an endpoint with no landed message changes nothing. A reservation whose limit is 0 or not
reached, or whose reply is landed whole, stays; else a TIMEOUT notification enters in its place and its generation
moves on. A frame that its port drops is only counted, a new one is performed once, and one on a connection of a host
completes with DENIED. HAL_MESSAGE_LAND, NOTIFICATION_ENTER and HAL_RLIMIT_TIMEOUT each complete here. [R28, R272,
R273, R275, R284, R285, R289, R347, R366] -/
def Obligations.HalyardDelivery : Prop :=
  ∀ (o : Fin 9) (i c : Fin 64) (e : Fin 1152) (f : Frame) (mesh : List MeshErr) (s : State),
    ((∀ x, s.job o i = some x → x.phase ≠ .travel) → exec (.halMessageLand (.job o i mesh)) s = .next s) ∧
    (∀ (x : SendJob) (m : HalMsg), s.job o i = some x → x.phase = .travel →
      m = { reply := x.reply, dst := x.ep, src := x.src, dev := s.dev, slot := x.rslot, gen := x.rgen, land := x.land
            handle := x.handle, total := x.len / 16 } →
      ((s.halDecide m).2.1 = none → exec (.halMessageLand (.job o i mesh)) s =
        .next ((s.halDecide m).2.2.sendAnswer o i (s.halDecide m).1)) ∧
      (∀ n, Calm s → (s.halDecide m).2.1 = some n → ∃ t, exec (.halMessageLand (.job o i mesh)) s = .next t ∧
        (∀ k, k < x.data.length → byteAt t (n.addr + k) = (x.data.getD k (0, false)).1) ∧
        (∀ b, b < n.addr ∨ n.addr + x.data.length ≤ b → byteAt t b = byteAt s b) ∧
        t.job o i = some { x with phase := .landed } ∧
        (∃ l, (t.chan x.ep).landing = (s.chan x.ep).landing ++ [l] ∧ l.src = .job o i ∧ l.ready = true ∧ l.note.addr = n.addr ∧
          l.note.poison = (meshBad mesh || x.data.any (fun y => y.2))) ∧
        (t.chan x.ep).queue = (s.chan x.ep).queue)) ∧
    (∀ F, (s.fecCount f).portRefuses f = some F →
      exec (.halMessageLand (.frame f)) s = .next ((s.fecCount f).incSat (.portDrop f.port f.sub) F)) ∧
    (f.typeCls.toNat % 16 ≠ tDownhaul → Arrives s f tHalyard → Fresh s f → (taken s f).cn (frameConn f) CN.HOST = 0 →
      exec (.halMessageLand (.frame f)) s = .next (framed ((taken s f).rxHal f (frameConn f) false).2 f
        ((taken s f).rxHal f (frameConn f) false).1)) ∧
    (f.typeCls.toNat % 16 = tDownhaul → Arrives s f tDownhaul → Fresh s f → (taken s f).cn (frameConn f) CN.HOST = 0 →
      exec (.halMessageLand (.frame f)) s = .next (framed ((taken s f).rxHal f (frameConn f) true).2 f
        ((taken s f).rxHal f (frameConn f) true).1)) ∧
    (Arrives s f (if f.typeCls.toNat % 16 = tDownhaul then tDownhaul else tHalyard) → Fresh s f →
      (taken s f).cn (frameConn f) CN.HOST = 1 →
      exec (.halMessageLand (.frame f)) s = .next (framed (taken s f) f (some .denied))) ∧
    ((s.chan e).landing.find? (fun l => l.ready) = none → exec (.notificationEnter e) s = .next s) ∧
    (∀ l first, (s.chan e).landing.find? (fun l => l.ready) = some l →
      (l.src = .gone ∨ (l.src = .job o i ∧ s.job o i = none) ∨
        (l.src = .msg c first ∧ ∀ r ∈ s.net.reasm, r.cn ≠ c.val ∨ r.first ≠ first)) →
      (l.note.reply = true → s.resvLive e l.note.slot l.note.gen = true) →
      (l.note.reply = true ∨ s.hcfg e HAL_CFG.AUTOACK = 0) → ∃ t, exec (.notificationEnter e) s = .next t ∧
      { t with hal := s.hal } = s ∧ (t.chan e).queue = (s.chan e).queue ++ [l.note] ∧
      (t.chan e).landing = delFirst (fun x => x == l) (s.chan e).landing ∧
      (l.note.reply = true → ((t.chan e).slot l.note.slot).held = false)) ∧
    (∀ l x, (s.chan e).landing.find? (fun l => l.ready) = some l → l.src = .job o i → s.job o i = some x → x.reply = true →
      x.cleat = 0xFFFF → l.note.reply = true → s.resvLive e l.note.slot l.note.gen = true → ∃ t,
      exec (.notificationEnter e) s = .next t ∧ (t.chan e).queue = (s.chan e).queue ++ [l.note] ∧ t.mem = s.mem ∧
      t.job o i = none ∧ t.f (.halSstat o i) HAL_SSTAT.LAST_STATUS = (if l.note.poison then Status.poisoned else .done).code) ∧
    (∀ l, (s.chan e).landing.find? (fun l => l.ready) = some l → l.src = .gone → l.note.reply = true →
      s.resvLive e l.note.slot l.note.gen = false → ∃ t, exec (.notificationEnter e) s = .next t ∧
      OnlyRegs [.halDrop (e / 128)] { s with hal := t.hal } t ∧ (t.chan e).queue = (s.chan e).queue ∧
      OnlyFields (.halDrop (e / 128)) [HAL_DROP.STALE] s t ∧
      (t.chan e).landing = delFirst (fun x => x == l) (s.chan e).landing ∧
      ((t.chan e).slot l.note.slot) = (s.chan e).slot l.note.slot) ∧
    (∀ (x : HalChan) (q : Nat), q = 128 * o + 64 + c → x = s.chan q →
      ((x.slot i).edges = none ∨ s.hcfg q HAL_CFG.RLIMIT = 0 ∨ (∀ n, (x.slot i).edges = some n → n < s.hcfg q HAL_CFG.RLIMIT) ∨
        x.replied i = true → exec (.halRlimitTimeout o c i) s = .next s) ∧
      (∀ n, (x.slot i).edges = some n → s.hcfg q HAL_CFG.RLIMIT ≠ 0 → s.hcfg q HAL_CFG.RLIMIT ≤ n → (x.slot i).held = true →
        x.replied i = false → ∃ t note, exec (.halRlimitTimeout o c i) s = .next t ∧
        { t with hal := s.hal } = s ∧ (t.chan q).queue = x.queue ++ [note] ∧ note.st = .timeout ∧ note.len = 0 ∧
        note.slot = i.val ∧ note.gen = (x.slot i).gen ∧ ((t.chan q).slot i).held = false ∧
        ((t.chan q).slot i).gen = ((x.slot i).gen + 1) % 16))

/-- HAL_NOTE, HAL_REL, HAL_SEND, HBM_MAP and HBM_KR. Reading a notification of an empty device-level queue returns 0 and
changes nothing else; else the head leaves the queue and its bytes 8 to 15 return with VALID. A handshake message of a
peer on a link halyard whose chain and signature verify under a link secret installs the next association of its sub-
port, and the one in use before stays for receiving; one that fails sets HANDSHAKE and installs none (what the message
looks like is log entry 66). HAL_REL does nothing outside release mode 1 or with nothing popped; else the ring's head
moves to the end of the last message released, and a count above 64 releases all of them. A write of a send slot
stores both words where its owner's lock allows, unparks the slot and withdraws its wait; a locked change is refused
with DENIED and changes nothing. HBM_MAP and HBM_KR: a locked or refused change leaves the register; an accepted one
is stored with BUSY set and starts CLEAN_INV of every slice; entry 0 is never written; a range that is not a multiple
of 64 KiB, runs past the HBM range or meets another valid region sets KR_REJECT. HAL_NOTE, HAL_REL, HAL_SEND, HBM_MAP
and HBM_KR each complete here. [R276, R277, R280, R282, R380, R388, R389, R10, R458] -/
def Obligations.NotificationRegisters : Prop :=
  ∀ (k : Fin 128) (o : Fin 9) (n : BitVec 7) (i j : Fin 64) (v w0 w1 : Word) (s : State),
    ((s.chan (1024 + k)).queue = [] → ∃ t, exec (.halNote k) s = .next t ∧ { t with chip := s.chip } = s ∧
      Tbl.get {} t.chip.results (uCn 0) = { data := zeros 8 }) ∧
    (∀ x l, (s.chan (1024 + k)).queue = x :: l → ∃ t, exec (.halNote k) s = .next t ∧ t.mem = s.mem ∧
      (t.chan (1024 + k)).queue = l ∧
      Tbl.get {} t.chip.results (uCn 0) = { data := leBytes 8 (leAt x.bytes 8 8 % 2 ^ 63 + 2 ^ 63) }) ∧
    (∀ x l c p b d y, (s.chan (1024 + k)).queue = x :: l → 60 ≤ k.val → k.val ≤ 63 → x.dev ≠ s.dev → x.len ≠ 0 →
      s.shakeConn x.dev (k - 60) = some c → p = s.cn c CN.PORT → b = s.cn c CN.SUB → d = s.bytes x.addr (16 * x.len) →
      s.sec.shake.find? (fun e => e.1 == (p, b)) = some y →
      (s.linkSecret p b = none ∨ d.length < 297 ∨ Config.chainOk (d.take (d.length - 297)) = false ∨
        Config.p521Ok ((d.drop (d.length - 265)).take 133) = false ∨
        Config.ecdsaOk (Config.chainKey (d.take (d.length - 297))) ((d.drop (d.length - 265)).take 133)
          ((d.drop (d.length - 132)).take 132) = false → ∃ t,
        exec (.halNote k) s = .next t ∧ t.bit .secErr SEC_ERR.HANDSHAKE = true ∧ t.sec.sak = s.sec.sak ∧
        t.rd (.portStat p b) = s.rd (.portStat p b)) ∧
      (∀ ls nonce pub low, s.linkSecret p b = some ls → 297 ≤ d.length → nonce = (d.drop (d.length - 297)).take 32 →
        pub = (d.drop (d.length - 265)).take 133 → low = decide (s.dev < x.dev) →
        Config.chainOk (d.take (d.length - 297)) = true → Config.p521Ok pub = true →
        Config.ecdsaOk (Config.chainKey (d.take (d.length - 297))) pub ((d.drop (d.length - 132)).take 132) = true → ∃ t,
        exec (.halNote k) s = .next t ∧ t.bit (.portStat p b) PORT_STAT.MACSEC_ACTIVE = true ∧
        t.f (.portStat p b) PORT_STAT.AN_CUR = s.nextAn p b % 4 ∧
        (s.bit (.portStat p b) PORT_STAT.MACSEC_ACTIVE = true →
          s.nextAn p b = (s.f (.portStat p b) PORT_STAT.AN_CUR + 1) % 4 ∧
          Tbl.get [] t.sec.sak (p, b, s.f (.portStat p b) PORT_STAT.AN_CUR) =
            Tbl.get [] s.sec.sak (p, b, s.f (.portStat p b) PORT_STAT.AN_CUR)) ∧
        Tbl.get [] t.sec.sak (p, b, s.nextAn p b) = macsecKey (Config.ecdh y.2.key pub) ls (if low then y.2.nonce else nonce)
          (if low then nonce else y.2.nonce) p b (s.nextAn p b) ++ leBytes 1 (if low then 1 else 2))) ∧
    (∀ q, q = 128 * o.val + k.val → (s.hcfg q HAL_CFG.RELMODE ≠ 1 ∨ (s.chan q).popped = [] ∨ n.toNat = 0 →
        exec (.halRel o k n) s = .next s) ∧
      (∀ p, s.hcfg q HAL_CFG.RELMODE = 1 → ((s.chan q).popped.take (if 64 < n.toNat then (s.chan q).popped.length else n.toNat)).getLast? = some p → ∃ t,
        exec (.halRel o k n) s = .next t ∧ t.mem = s.mem ∧ (t.chan q).popped = (s.chan q).popped.drop (if 64 < n.toNat then (s.chan q).popped.length else n.toNat) ∧
        t.hptr q HAL_PTR.HEAD = p % 2 ^ 32 ∧ (∀ r, r ≠ .halPtr (q / 128) (q % 128) → t.rd r = s.rd r))) ∧
    ((s.rwlDenied (.halSend o i 0) w0.toNat true = true ∨ s.rwlDenied (.halSend o i 1) w1.toNat true = true) → exec (.halSend o i w0 w1) s = .next (s.regAnswer .denied 0)) ∧
    (s.rwlDenied (.halSend o i 0) w0.toNat true = false → s.rwlDenied (.halSend o i 1) w1.toNat true = false → ∃ t, exec (.halSend o i w0 w1) s = .next (State.regAnswer t .done 0) ∧
      t.f (.halSend o i 0) HAL_SEND.TRIG = fld w0.toNat HAL_SEND.TRIG.hi HAL_SEND.TRIG.lo ∧
      t.f (.halSend o i 0) HAL_SEND.VALID = fld w0.toNat HAL_SEND.VALID.hi HAL_SEND.VALID.lo ∧
      t.f (.halSend o i 1) HAL_SEND.DESC = fld w1.toNat HAL_SEND.DESC.hi HAL_SEND.DESC.lo ∧
      t.bit (.halSstat o i) HAL_SSTAT.PARKED = false ∧ (∀ w ∈ t.clt.waits, w.who ≠ .eng (.send o i)) ∧
      t.mem = s.mem ∧ ∀ r, r ∉ [.halSend o i 0, .halSend o i 1, .halSstat o i] → t.rd r = s.rd r) ∧
    (s.rwlDenied .hbmMap v.toNat true = true → exec (.hbmMap v) s = .next (s.regAnswer .denied 0)) ∧
    (s.rwlDenied .hbmMap v.toNat true = false → ∃ x : State, x = (s.regStore .hbmMap v.toNat).setF .hbmMap HBM_MAP.MAP_BUSY 1 ∧
      OnlyRegs [.hbmMap] s x ∧ x.bit .hbmMap HBM_MAP.MAP_BUSY = true ∧
      exec (.hbmMap v) s = .next ((State.scCleanAll x 2 (fun _ => true)).regAnswer .done 0)) ∧
    (j.val ≠ 0 → (s.rwlDenied (.hbmKr j 0) w0.toNat true = true ∨ s.rwlDenied (.hbmKr j 1) w1.toNat true = true) → exec (.hbmKr j w0 w1) s = .next (s.regAnswer .denied 0)) ∧
    (exec (.hbmKr 0 w0 w1) s = .next (s.regAnswer .done 0)) ∧
    (∀ b l, s.rwlDenied (.hbmKr j 0) w0.toNat true = false → s.rwlDenied (.hbmKr j 1) w1.toNat true = false → j.val ≠ 0 →
      b = fld w0.toNat HBM_KR.BASE.hi HBM_KR.BASE.lo → l = fld w1.toNat HBM_KR.LENGTH.hi HBM_KR.LENGTH.lo →
      (bitN w0.toNat 63 = true → b % 65536 ≠ 0 ∨ l % 65536 ≠ 0 ∨ s.fuses.hbmSize < b + l ∨
        (∃ r < 64, r ≠ j.val ∧ s.bit (.hbmKr r 0) HBM_KR.VALID = true ∧
          rngMeet b l (s.f (.hbmKr r 0) HBM_KR.BASE) (s.f (.hbmKr r 1) HBM_KR.LENGTH) = true) →
        ∃ t, exec (.hbmKr j w0 w1) s = .next (State.regAnswer t .done 0) ∧
        t.bit (.hbmErr 0) HBM_ERR.KR_REJECT = true ∧ t.rd (.hbmKr j 0) = s.rd (.hbmKr j 0) ∧ t.rd (.hbmKr j 1) = s.rd (.hbmKr j 1)) ∧
      (bitN w0.toNat 63 = false ∨ (b % 65536 = 0 ∧ l % 65536 = 0 ∧ b + l ≤ s.fuses.hbmSize ∧
        ∀ r < 64, r ≠ j.val → s.bit (.hbmKr r 0) HBM_KR.VALID = true →
          rngMeet b l (s.f (.hbmKr r 0) HBM_KR.BASE) (s.f (.hbmKr r 1) HBM_KR.LENGTH) = false) →
        ∃ x, exec (.hbmKr j w0 w1) s = .next ((State.scCleanAll x (2 + j) (x.krRange j)).regAnswer .done 0) ∧
        OnlyRegs [.hbmKr j 0, .hbmKr j 1] s x ∧ x.bit (.hbmKr j 0) HBM_KR.BUSY = true ∧
        x.bit (.hbmKr j 0) HBM_KR.VALID = bitN w0.toNat 63 ∧ x.f (.hbmKr j 0) HBM_KR.BASE = b ∧
        x.f (.hbmKr j 1) HBM_KR.LENGTH = l))

/-- CMD, DATA_IN and CONTROL messages. On the host channel, at a port that does not offer it both messages are counted and
dropped; before mailbox-ready, or malformed, they are counted in MBX_DROP and change nothing else. A CMD of another
epoch changes no mailbox and is answered with one CPL of Count 0. A CMD whose one entry has Seq N, with a free
completion slot, accepts it: N advances modulo 65,536 and the entry waits at the end of the ring. DATA_IN for a
waiting command keeps its bytes, whole where they fit; data for an entry not yet sent is held up to 64 KiB, each byte
counted once, else counted and dropped. On a HOST connection CMD and DATA_IN are taken the same way; a reserved or
device-to-host CONTROL subtype is counted and refused, DENIED on a connection of a peer, and one in an uncorrectable
flit completes with POISONED (R28; the status is the model's reading, log entry 84). The FEC codewords of every frame
are counted besides. CMD, DATA_IN and CONTROL each complete here. [R28, R398, R400, R402, R405, R548, R366] -/
def Obligations.MailboxMessages : Prop :=
  ∀ (f : Frame) (s : State) (x : Mailbox) (q : Nat), x = s.mailbox 0 → q = leAt f.pay 4 2 →
    (ArrivesNc s f → s.bit (.portCfg f.port) PORT_CFG.HOSTCH = false →
      exec (.cmd f) s = .next ((s.fecCount f).tpDrop TP_DROP.UNKNOWN) ∧ exec (.dataIn f) s = .next ((s.fecCount f).tpDrop TP_DROP.UNKNOWN)) ∧
    (ArrivesNc s f → s.bit (.portCfg f.port) PORT_CFG.HOSTCH = true → s.mailboxReady = false ∨ leAt f.pay 0 1 ≠ 0 →
      exec (.cmd f) s = .next (s.fecCount f).mbxDrop ∧ exec (.dataIn f) s = .next (s.fecCount f).mbxDrop) ∧
    (ArrivesNc s f → s.bit (.portCfg f.port) PORT_CFG.HOSTCH = true → s.mailboxReady = true → leAt f.pay 0 1 = 0 →
      f.pay.length ≤ 1024 →
      (∀ n, n = leAt f.pay 2 1 → n ≤ 31 → f.pay.length = 16 + 128 * n → leAt f.pay 1 1 ≠ x.epoch → ∃ t fr,
        exec (.cmd f) s = .next t ∧ t.net.txq = s.net.txq ++ [fr] ∧ fr.typ = tControl ∧ fr.port = f.port.val ∧
        fr.addr = f.src.toNat ∧ fr.pay = mbxHeader 0 x.epoch 0 0 0 0 0 ∧ { t with net := s.net } = s.fecCount f) ∧
      (leAt f.pay 2 1 = 1 → f.pay.length = 144 → leAt f.pay 1 1 = x.epoch → q = x.n → leAt f.pay 6 2 = x.a →
        x.n < 65536 → (x.n + 65536 - x.a) % 65536 < 256 → leAt f.pay 16 1 ≠ 0x30 → ∃ (t : State) (c : MbxCmd),
        exec (.cmd f) s = .next (t.mbxPoll 0) ∧ (t.mailbox 0).n = (x.n + 1) % 65536 ∧ (t.mailbox 0).a = x.a ∧
        (t.mailbox 0).ring = x.ring ++ [c] ∧ c.seq = q ∧ c.entry = f.pay.drop 16 ∧ c.host = true ∧ c.start = none ∧
        (t.mailbox 0).origin = some (.host f.port f.sub f.src.toNat) ∧
        (∀ i, i ≠ 0 → t.mailbox i = s.mailbox i)) ∧
      (∀ off, off = leAt f.pay 8 4 → f.pay.length = 16 + leAt f.pay 12 4 → leAt f.pay 1 1 = x.epoch →
        (∀ c, x.ring.find? (fun c => c.seq == q) = some c → c.op ≠ 0x30 →
          (c.start.isSome = true ∨ c.need ≤ off → exec (.dataIn f) s = .next (s.fecCount f).mbxDrop) ∧
          (c.start = none → off + (f.pay.length - 16) ≤ c.need → 16 < f.pay.length → ∃ t,
            exec (.dataIn f) s = .next t ∧ { t with mbx := s.mbx } = s.fecCount f ∧
            (t.mailbox 0).dataIn = x.dataIn ++ [(q, off, f.pay.drop 16)] ∧ (t.mailbox 0).n = x.n ∧
            ∀ i, i ≠ 0 → t.mailbox i = s.mailbox i)) ∧
        (∀ h, x.ring.find? (fun c => c.seq == q) = none →
          h = heldBytes (x.dataIn.filter (fun e => !x.ring.any (fun c => c.seq == e.1)) ++ [(q, off, f.pay.drop 16)]) →
          ((q + 65536 - x.n) % 65536 < 32768 → h ≤ 65536 → exec (.dataIn f) s =
            .next ((s.fecCount f).setMailbox 0 { x with dataIn := x.dataIn ++ [(q, off, f.pay.drop 16)] })) ∧
          (32768 ≤ (q + 65536 - x.n) % 65536 ∨ 65536 < h → exec (.dataIn f) s = .next (s.fecCount f).mbxDrop)))) ∧
    (Arrives s f tControl → Fresh s f → meshBad f.mesh = false → (taken s f).cn (frameConn f) CN.HOST = 1 →
      exec (.cmd f) s = .next (framed ((taken s f).mbxMsg (.conn (frameConn f)) false 0x10 f.pay) f (some .done)) ∧
      exec (.dataIn f) s = .next (framed ((taken s f).mbxMsg (.conn (frameConn f)) false 0x12 f.pay) f (some .done))) ∧
    (∀ sub, sub = leAt f.subhdr 0 1 →
      ((1 ≤ sub ∧ sub ≤ 4) ∨ sub = 0x10 ∨ sub = 0x12 → exec (.control f) s = .next s) ∧
      (¬(1 ≤ sub ∧ sub ≤ 4) → sub ≠ 0x10 → sub ≠ 0x12 → ArrivesNc s f → s.bit (.portCfg f.port) PORT_CFG.HOSTCH = true →
        exec (.control f) s = .next (s.fecCount f).mbxDrop) ∧
      (¬(1 ≤ sub ∧ sub ≤ 4) → sub ≠ 0x10 → sub ≠ 0x12 → Arrives s f tControl → Fresh s f →
        (meshBad f.mesh = true → exec (.control f) s = .next (framed (taken s f) f (some .poisoned))) ∧
        (meshBad f.mesh = false → exec (.control f) s = .next (framed (taken s f).mbxDrop f
          (some (if (taken s f).cn (frameConn f) CN.HOST ≠ 1 ∧ 0x10 ≤ sub ∧ sub ≤ 0x1F then .denied else .badDescriptor))))))

/-- ACK, NAK and HEARTBEAT. A heartbeat is heard: the time of the last frame, the time stamp echo and, where this device
is its destination, the acknowledgement it carries are taken, and nothing is performed; an ACK or NAK for another
device is heard, and nothing more. An ACK without ECE takes exactly the sent frames its cumulative number and its SACK
blocks cover off the connection, with no operation in flight there; SNDUNA is the oldest frame left, or the next
number. A NAK of one frame completes its operation and takes the frame off; one that names no frame that was sent
changes nothing more. ACK, NAK and HEARTBEAT each complete here. [R362, R364, R366, R369, R370, R353] -/
def Obligations.Acknowledgements : Prop :=
  ∀ (f : Frame) (s : State) (c : Nat), c = frameConn f →
    (Arrives s f tHeartbeat → exec (.heartbeat f) s = .next (acked s f).shroudPass) ∧
    (mine s f = false → (Arrives s f tAck → exec (.ack f) s = .next (heard s f).shroudPass) ∧
      (Arrives s f tNak → exec (.nak f) s = .next (heard s f).shroudPass)) ∧
    (∀ blocks, Arrives s f tAck → mine s f = true → bitN f.typeCls.toNat 5 = false → s.cn c CN.STATE = cnOpen →
      (∀ o ∈ s.net.ops, o.cn ≠ c) →
      blocks = (List.range (leAt f.subhdr 4 1)).map (fun i => (leAt f.subhdr (8 + 8 * i) 4, leAt f.subhdr (12 + 8 * i) 4)) →
      ∃ t : State, exec (.ack f) s = .next t.shroudPass ∧ t.mem = s.mem ∧ (t.conn c).lastRx = s.now ∧
      (t.conn c).unacked = (s.conn c).unacked.filter (fun u =>
        !(u.sentAt.isSome && covers (leAt f.subhdr 0 4) blocks u.frame.seq)) ∧
      ((t.conn c).unacked ≠ (s.conn c).unacked → t.cn c CN.SNDUNA =
        (((t.conn c).unacked.head?.map (fun u => u.frame.seq)).getD (s.cn c CN.SNDNXT)) % 2 ^ 32) ∧
      (∀ d, d ≠ c → t.conn d = s.conn d)) ∧
    (Arrives s f tAck → mine s f = true → bitN f.typeCls.toNat 5 = true → s.cn c CN.ECN = 1 → (s.conn c).unacked = [] →
      s.cn c CN.STATE = cnOpen → (s.conn c).lastCut = none → ∃ t : State, exec (.ack f) s = .next t.shroudPass ∧
      t.cn c CN.CWND = max 1 (s.cn c CN.CWND / 2) ∧ (t.conn c).lastCut = some s.now ∧ t.mem = s.mem) ∧
    (∀ q, Arrives s f tNak → mine s f = true → leAt f.subhdr 0 1 = 1 → q = leAt f.subhdr 8 4 → s.cn c CN.STATE = cnOpen →
      ((∀ u ∈ (s.conn c).unacked, u.frame.seq ≠ q ∨ u.sentAt = none) → exec (.nak f) s = .next (heard s f).shroudPass) ∧
      (∀ o, (∃ u ∈ (s.conn c).unacked, u.frame.seq = q ∧ u.sentAt.isSome = true) → s.net.ops = [o] → o.cn = c →
        q ∈ o.seqs → o.cont = .none → ∃ t : State, exec (.nak f) s = .next t.shroudPass ∧ t.net.ops = [] ∧
        t.mem = s.mem ∧ (t.conn c).unacked = (s.conn c).unacked.filter (fun u => !(u.sentAt.isSome && u.frame.seq == q))))

/-- OPEN, OPEN_ACK, CLOSE and CLOSE_ACK. An OPEN for which no entry is OPENING, an OPEN_ACK or CLOSE_ACK for an entry of
another port or peer, and a CLOSE_ACK for a connection that is not CLOSING are counted UNKNOWN; one that names another
epoch is counted STALE. An unprotected OPENING entry of a peer becomes OPEN with what the frame carries (peer's index
and epoch, receive number), and answers an OPEN with OPEN_ACK; an OPEN that comes again is answered again where its
tag verifies, or its session is known and free. Which entry an OPEN may name, and that it is answered again, is the
model's reading (log entry 28). A CLOSE naming the epoch just left is answered with CLOSE_ACK and the entry stays
IDLE; a CLOSE for an OPEN connection with frames unacknowledged makes it CLOSING; a CLOSE_ACK brings a CLOSING one to
IDLE with its next epoch modulo 16. The FEC codewords of every frame are counted besides. OPEN, OPEN_ACK, CLOSE and
CLOSE_ACK each complete here. [R359, R360, R366, R456, R459] -/
def Obligations.ConnectionFrames : Prop :=
  ∀ (f : Frame) (s : State) (k e : Nat) (l : List Nat), ArrivesNc s f → k = leAt f.pay 2 2 % 4096 → e = leAt f.pay 2 2 / 4096 →
    l = (s.cnList.filter (fun c => s.ctlEntry f c)).filter (fun c => leAt f.pay 2 2 == 0 || c == k) →
    (leAt f.pay 2 2 ≠ 0 → s.ctlEntry f k = true → e ≠ s.cn k CN.EPOCH →
      exec (.openConn f) s = .next ((s.fecCount f).tpDrop TP_DROP.STALE)) ∧
    (leAt f.pay 2 2 = 0 ∨ s.ctlEntry f k = false ∨ e = s.cn k CN.EPOCH →
      ((∀ c ∈ l, s.cn c CN.STATE ≠ cnOpening ∧ (s.cn c CN.STATE = cnOpen → s.cn c CN.PEERCONN ≠ leAt f.pay 0 2)) →
        exec (.openConn f) s = .next ((s.fecCount f).tpDrop TP_DROP.UNKNOWN)) ∧
      (∀ c, l = [c] → s.cn c CN.STATE = cnOpening → s.cn c CN.PROT = 0 → s.cn c CN.HOST = 0 → ∃ t,
        exec (.openConn f) s = .next t ∧ t.cn c CN.STATE = cnOpen ∧
        t.cn c CN.PEERCONN = leAt f.pay 0 2 ∧ t.cn c CN.RCVNXT = leAt f.pay 4 4 ∧ t.mem = s.mem ∧
        (t.conn c).isn = (s.conn c).isn ∧ (t.conn c).lastRx = s.now ∧ (t.conn c).unacked = [] ∧
        s.cn c CN.PEER ∉ t.net.lost ∧
        (∀ d, d ≠ c → t.conn d = s.conn d) ∧ ∃ fr, t.net.txq = s.net.txq ++ [fr] ∧ fr.subhdr = ctlSub 2 ∧ fr.dst = s.cn c CN.PEER) ∧
      (∀ c, l = [c] → s.cn c CN.STATE = cnOpen → s.cn c CN.PEERCONN = leAt f.pay 0 2 →
        (s.cn c CN.PROT = 0 → s.cn c CN.HOST = 0 → exec (.openConn f) s = .next ((s.fecCount f).sendCtl c 2)) ∧
        (s.cn c CN.PROT = 1 → s.cn c CN.HOST = 0 → (∀ ls, s.sls = some ls → frameTagOk f (ghenkoOpenKey ls) = false) →
          exec (.openConn f) s = .next ((s.fecCount f).authDrop f.port)) ∧
        (s.cn c CN.HOST = 1 → (∀ x ∈ s.sec.sessions, x.id ≠ leAt f.pay 8 4 ∨ x.conn ≠ none) →
          exec (.openConn f) s = .next ((s.fecCount f).tpDrop TP_DROP.UNKNOWN)))) ∧
    (s.ctlEntry f k = false → exec (.openAck f) s = .next ((s.fecCount f).tpDrop TP_DROP.UNKNOWN) ∧
      exec (.closeConn f) s = .next ((s.fecCount f).tpDrop TP_DROP.UNKNOWN) ∧ exec (.closeAck f) s = .next ((s.fecCount f).tpDrop TP_DROP.UNKNOWN)) ∧
    (s.ctlEntry f k = true → e ≠ s.cn k CN.EPOCH → exec (.openAck f) s = .next ((s.fecCount f).tpDrop TP_DROP.STALE) ∧
      exec (.closeAck f) s = .next ((s.fecCount f).tpDrop TP_DROP.STALE) ∧
      (s.cn k CN.STATE ≠ cnIdle → exec (.closeConn f) s = .next ((s.fecCount f).tpDrop TP_DROP.STALE))) ∧
    (s.ctlEntry f k = true → e = s.cn k CN.EPOCH →
      (s.cn k CN.STATE = cnOpening → s.cn k CN.PROT = 0 → s.cn k CN.HOST = 0 → ∃ t, exec (.openAck f) s = .next t ∧
        t.cn k CN.STATE = cnOpen ∧ t.cn k CN.PEERCONN = leAt f.pay 0 2 ∧ t.cn k CN.RCVNXT = leAt f.pay 4 4 ∧
        t.net.txq = s.net.txq ∧ t.mem = s.mem) ∧
      (s.cn k CN.STATE = cnOpen → exec (.openAck f) s = .next (s.fecCount f)) ∧
      (s.cn k CN.STATE ≠ cnClosing → exec (.closeAck f) s = .next ((s.fecCount f).tpDrop TP_DROP.UNKNOWN)) ∧
      (s.cn k CN.STATE = cnOpen → s.cn k CN.PROT = 0 → s.net.ops = [] → (∃ u ∈ (s.conn k).unacked, u.sentAt.isSome = true) →
        ∃ t, exec (.closeConn f) s = .next t ∧ t.cn k CN.STATE = cnClosing ∧ (t.conn k).peerClose = true ∧ t.mem = s.mem) ∧
      (s.cn k CN.STATE = cnClosing → s.cn k CN.PROT = 0 →
        exec (.closeConn f) s = .next (((s.fecCount f).sendCtl k 4).connIdle k)) ∧
      (s.cn k CN.STATE = cnClosing → s.cn k CN.PROT = 0 → (∀ o ∈ s.net.ops, o.cn ≠ k) → ∃ t,
        exec (.closeAck f) s = .next t ∧ t.cn k CN.STATE = cnIdle ∧ t.cn k CN.EPOCH = (s.cn k CN.EPOCH + 1) % 16 ∧
        t.cn k CN.PEERCONN = 0 ∧ t.conn k = {} ∧ t.mem = s.mem ∧ ∀ d, d ≠ k → t.conn d = s.conn d)) ∧
    (s.ctlEntry f k = true → s.cn k CN.STATE = cnIdle →
      (e = (s.cn k CN.EPOCH + 15) % 16 → exec (.closeConn f) s = .next ((s.fecCount f).sendCtl k 4)) ∧
      (e ≠ (s.cn k CN.EPOCH + 15) % 16 → exec (.closeConn f) s = .next ((s.fecCount f).tpDrop TP_DROP.STALE)))

/-- Retransmission, retries, delayed acknowledgements and heartbeats. A timer acts in a reference period after the one it
expires in (R365), and before changes nothing. An expired retransmit timer counts a retry, doubles the timeout up to
its limit and queues each sent frame that is not in the queue again, before the frames not yet sent; a connection that
owes CLOSE_ACK sends it at its sixteenth expiry and is IDLE; after 16 retries the connection is LOST with cause 1,
OPEN_FAILED after 16 OPENs with cause 4, heartbeat loss with cause 2; a CLOSING connection whose CLOSE goes unanswered
returns to IDLE. An OPEN or a CLOSE that is due is sent again and counted; a delayed ACK leaves; an OPEN connection
that has sent nothing for HBINT sends a heartbeat. The doubling for OPEN and CLOSE is the model's reading (log entry
28). RETRANSMIT_TIMEOUT, OPEN_RETRY, CLOSE_RETRY, ACK_DELAY, HEARTBEAT_SEND and HEARTBEAT_LOSS each complete here.
[R359, R363, R364, R365, R370, R371] -/
def Obligations.ConnectionTimers : Prop :=
  ∀ (c : Fin 4096) (s : State) (x : Conn), x = s.conn c →
    ((∀ t, x.timer = some t → s.now ≤ t + s.cn c CN.RTO) → exec (.retransmitTimeout c) s = .next s) ∧
    (∀ t, x.timer = some t → t + s.cn c CN.RTO < s.now → s.cn c CN.STATE = cnClosing → x.peerClose = true →
      (∃ u ∈ x.unacked, u.sentAt.isSome = true) → 15 ≤ s.cn c CN.RETRIES →
      exec (.retransmitTimeout c) s = .next ((s.sendCtl c 4).connIdle c)) ∧
    (∀ t, x.timer = some t → t + s.cn c CN.RTO < s.now →
      s.cn c CN.STATE = cnOpen ∨ (s.cn c CN.STATE = cnClosing ∧ (x.peerClose = false ∨ s.cn c CN.RETRIES < 15)) →
      (∃ u ∈ x.unacked, u.sentAt.isSome = true) →
      (16 ≤ s.cn c CN.RETRIES → LosesNothing s c → ∃ y, exec (.retransmitTimeout c) s = .next y ∧ LostWith s y c 1) ∧
      (s.cn c CN.RETRIES < 16 → ∃ (y : State) (fs : List TxFrame), exec (.retransmitTimeout c) s = .next y ∧
        y.cn c CN.RETRIES = s.cn c CN.RETRIES + 1 ∧ y.cn c CN.RTO = min (2 * s.cn c CN.RTO) s.rtoMax ∧
        (y.conn c).timer = some s.now ∧ y.mem = s.mem ∧ y.net.txq = fs ++ s.net.txq ∧
        (∀ g ∈ fs, bitN g.flags 3 = true ∧ ∃ u ∈ x.unacked, u.sentAt.isSome = true ∧ g.seq = u.frame.seq) ∧
        (∀ u ∈ x.unacked, u.sentAt.isSome = true → (∃ g ∈ fs, g.seq = u.frame.seq) ∨
          ∃ g ∈ s.net.txq, g.cn = c.val ∧ g.seq = u.frame.seq))) ∧
    (s.cn c CN.STATE ≠ cnOpening ∨ s.now ≤ x.triedAt + s.cn c CN.RTO → exec (.openRetry c) s = .next s) ∧
    (s.cn c CN.STATE ≠ cnClosing ∨ x.closeSent = false ∨ s.now ≤ x.triedAt + s.cn c CN.RTO →
      exec (.closeRetry c) s = .next s) ∧
    (x.triedAt + s.cn c CN.RTO < s.now →
      (s.cn c CN.STATE = cnOpening → 16 ≤ x.tries → LosesNothing s c → ∃ y, exec (.openRetry c) s = .next y ∧
        LostWith s y c 4 ∧ y.bit .tpErr TP_ERR.OPEN_FAILED = true) ∧
      (s.cn c CN.STATE = cnOpening → x.tries < 16 → s.devAssigned = true → ∃ y fr, exec (.openRetry c) s = .next y ∧
        (y.conn c).tries = x.tries + 1 ∧ (y.conn c).triedAt = s.now ∧ y.cn c CN.RTO = min (2 * s.cn c CN.RTO) s.rtoMax ∧
        y.net.txq = s.net.txq ++ [fr] ∧ fr.subhdr = ctlSub 1 ∧ y.mem = s.mem) ∧
      (s.cn c CN.STATE = cnClosing → x.closeSent = true → 16 ≤ x.tries → (∀ o ∈ s.net.ops, o.cn ≠ c.val) → ∃ y,
        exec (.closeRetry c) s = .next y ∧ y.cn c CN.STATE = cnIdle ∧ y.cn c CN.EPOCH = (s.cn c CN.EPOCH + 1) % 16 ∧
        y.mem = s.mem) ∧
      (s.cn c CN.STATE = cnClosing → x.closeSent = true → x.tries < 16 → s.devAssigned = true → ∃ y fr,
        exec (.closeRetry c) s = .next y ∧ (y.conn c).tries = x.tries + 1 ∧ (y.conn c).triedAt = s.now ∧
        y.net.txq = s.net.txq ++ [fr] ∧ fr.subhdr = ctlSub 3 ∧ y.mem = s.mem)) ∧
    ((∀ t, x.ackSince = some t → s.now ≤ t + 10 * s.f .tpTimer TP_TIMER.ACKDLY) → exec (.ackDelay c) s = .next s) ∧
    (∀ t, x.ackSince = some t → t + 10 * s.f .tpTimer TP_TIMER.ACKDLY < s.now → ∃ y fr, exec (.ackDelay c) s = .next y ∧
      y.net.txq = s.net.txq ++ [fr] ∧ fr.typ = tAck ∧ fr.cn = c.val ∧ y.conn c = { x with ackPend := 0, ackSince := none, ece := false } ∧
      { y with net := s.net } = s) ∧
    (s.cn c CN.STATE ≠ cnOpen ∨ s.now ≤ x.lastTx + s.hbInt → exec (.heartbeatSend c) s = .next s) ∧
    (s.cn c CN.STATE = cnOpen → x.lastTx + s.hbInt < s.now → s.devAssigned = true → ∃ y fr,
      exec (.heartbeatSend c) s = .next y ∧ y.net.txq = s.net.txq ++ [fr] ∧ fr.typ = tHeartbeat ∧ fr.cn = c.val ∧
      y.conn c = { x with lastTx := s.now } ∧ { y with net := s.net } = s) ∧
    ((s.cn c CN.STATE ≠ cnOpen ∧ s.cn c CN.STATE ≠ cnClosing) ∨ s.now ≤ x.lastRx + s.f .tpTimer TP_TIMER.HBMISS * s.hbInt →
      exec (.heartbeatLoss c) s = .next s) ∧
    (s.cn c CN.STATE = cnOpen ∨ s.cn c CN.STATE = cnClosing → x.lastRx + s.f .tpTimer TP_TIMER.HBMISS * s.hbInt < s.now → LosesNothing s c → ∃ y,
      exec (.heartbeatLoss c) s = .next y ∧ LostWith s y c 2)

/-- OP OPEN, CLOSE and RESET; links; Ethernet and PFC frames; transmit timestamps. OP OPEN acts from IDLE on a valid
entry: OPENING, the initial number drawn, an OPEN sent; a protected entry without a link secret becomes LOST with
OPEN_FAILED; OP CLOSE acts from OPEN and OP RESET from LOST, which returns to IDLE with the next epoch modulo 16. A
link that goes down clears its status and loses its connections with cause 3; one that comes up on a sub-port of the
mode in force sets its status, PREEMPT_ACTIVE where its preemption is verified and PREEMPT_OFF where it is not. A
received Ethernet frame is counted BAD, or FILT, or goes to the transport if it is a Ghenko frame, or is kept whole
for crowsnest with its time stamp, and a PTP message is answered there (which ones is the model's choice, log entry
86). The transmit timestamp of a two-step message joins a queue of at most 64. A PFC frame pauses exactly the
priorities that it names and whose PFC bit is set. Reading PORT_TXTS returns the oldest timestamp and drops it.
CONN_OPEN, CONN_CLOSE, CONN_RESET, LINK_DOWN, LINK_UP, ETHERNET_FRAME_RX, PFC_FRAME and PORT_TXTS each complete here.
[R345, R346, R347, R348, R349, R359, R368, R370, R374, R459] -/
def Obligations.ConnectionAndLinkEvents : Prop :=
  ∀ (c : Fin 4096) (p : Fin 18) (b : Fin 4) (verify good prot : Bool) (d : List Byte) (en : Byte) (qs : List (BitVec 16))
    (s : State),
    (s.cn c CN.STATE ≠ cnIdle ∨ s.cn c CN.VALID = 0 → exec (.connOpen c) s = .next s) ∧
    (s.cn c CN.STATE = cnIdle → s.cn c CN.VALID = 1 → s.cn c CN.PROT = 0 → s.cn c CN.HOST = 0 → s.devAssigned = true →
      ∃ t fr, exec (.connOpen c) s = .next t ∧ t.cn c CN.STATE = cnOpening ∧
      t.cn c CN.SNDNXT = leNat (Config.drbg s.free 4) % 2 ^ 32 ∧ (t.conn c).isn = t.cn c CN.SNDNXT ∧ t.cn c CN.RETRIES = 0 ∧
      t.net.txq = s.net.txq ++ [fr] ∧ fr.subhdr = ctlSub 1 ∧ t.mem = s.mem) ∧
    (s.cn c CN.STATE = cnIdle → s.cn c CN.VALID = 1 → s.cn c CN.PROT = 1 → s.cn c CN.HOST = 0 → s.sls = none →
      (∀ o ∈ s.net.ops, o.cn ≠ c.val) → ∃ t, exec (.connOpen c) s = .next t ∧ LostWith s t c 4) ∧
    (s.cn c CN.STATE ≠ cnOpen → exec (.connClose c) s = .next s) ∧
    (s.cn c CN.STATE = cnOpen → s.net.ops = [] → (∃ u ∈ (s.conn c).unacked, u.sentAt.isSome = true) → ∃ t,
      exec (.connClose c) s = .next t ∧ t.cn c CN.STATE = cnClosing ∧ (t.conn c).peerClose = false ∧ t.mem = s.mem ∧
      (t.conn c).unacked = (s.conn c).unacked.filter (fun u => u.sentAt.isSome)) ∧
    (s.cn c CN.STATE ≠ cnLost → exec (.connReset c) s = .next s) ∧
    (s.cn c CN.STATE = cnLost → (∀ o ∈ s.net.ops, o.cn ≠ c.val) → ∃ t, exec (.connReset c) s = .next t ∧
      t.cn c CN.STATE = cnIdle ∧ t.cn c CN.EPOCH = (s.cn c CN.EPOCH + 1) % 16 ∧ t.cn c CN.PEERCONN = 0 ∧ t.conn c = {} ∧
      t.mem = s.mem) ∧
    (s.boundTo p b = [] → ∃ t, exec (.linkDown p b) s = .next t ∧ OnlyRegs [.portStat p b] { s with
        sec := t.sec, net := { s.net with verified := s.net.verified.filter (· != (p.val, b.val)) } } t ∧
      t.bit (.portStat p b) PORT_STAT.LINK = false ∧ t.bit (.portStat p b) PORT_STAT.MACSEC_ACTIVE = false ∧
      (∀ e ∈ t.sec.sak, (e.1.1, e.1.2.1) ≠ (p.val, b.val))) ∧
    (s.boundTo p b = [c.val] → LosesNothing s c → ∃ t, exec (.linkDown p b) s = .next t ∧ LostWith s t c 3 ∧
      t.bit (.portStat p b) PORT_STAT.LINK = false) ∧
    (s.subPorts p ≤ b.val → exec (.linkUp p b verify) s = .next s) ∧
    (b.val < s.subPorts p → ∃ t, exec (.linkUp p b verify) s = .next t ∧ t.bit (.portStat p b) PORT_STAT.LINK = true ∧
      t.bit (.portStat p b) PORT_STAT.AN_DONE = true ∧
      t.bit (.portStat p b) PORT_STAT.PREEMPT_ACTIVE = (s.bit (.portCfg p) PORT_CFG.PREEMPT && verify) ∧
      t.mem = s.mem ∧ (s.bit (.portCfg p) PORT_CFG.PREEMPT = true → verify = false →
        t.bit .tpErr TP_ERR.PREEMPT_OFF = true) ∧
      (s.bit (.portCfg p) PORT_CFG.PREEMPT = false ∨ verify = true →
        OnlyRegs [.portStat p b] { s with net := { s.net with verified := t.net.verified } } t)) ∧
    (∀ body n bad filt kept, body = d.drop (etherAt d) → n = etherKind body →
      bad = (!good || (s.macsecOn p b && !prot && n != 1 && n != 2)) →
      filt = (decide (d.length < 60) || decide (4252 < d.length) ||
        !s.macOk p b (beAt d 0 6) (if etherAt d = 16 then some (beAt d 14 2 % 4096) else none) || (n == 0 && !s.isGhenko body)) →
      kept = { s with net := { s.net with cnFrames := s.net.cnFrames ++ [(p.val, b.val, (s.tbNs, s.tbFrac), d)] } } →
      (bad = true → exec (.ethernetFrameRx p b good prot d) s = .next (s.incSat (.portDrop p b) PORT_DROP.BAD)) ∧
      (bad = false → filt = true →
        exec (.ethernetFrameRx p b good prot d) s = .next (s.incSat (.portDrop p b) PORT_DROP.FILT)) ∧
      (bad = false → filt = false → s.isGhenko body = true → exec (.ethernetFrameRx p b good prot d) s = .next s) ∧
      (bad = false → filt = false → s.isGhenko body = false → n ≠ 1 →
        exec (.ethernetFrameRx p b good prot d) s = .next kept) ∧
      (bad = false → filt = false → s.isGhenko body = false → n = 1 →
        exec (.ethernetFrameRx p b good prot d) s = .next (State.ptpReply kept p b d) ∧
        (State.ptpReply kept p b d).net.cnFrames = kept.net.cnFrames)) ∧
    ((Tbl.get (0, 0, 0) s.net.ptp (p.val, b.val)).2.1 = 2 →
      Tbl.get [] (s.ptpStamp p b d).2.net.txts (p.val, b.val) = (if 64 ≤ (Tbl.get [] s.net.txts (p.val, b.val)).length
        then Tbl.get [] s.net.txts (p.val, b.val)
        else Tbl.get [] s.net.txts (p.val, b.val) ++ [(s.tbNs, s.tbFrac, beAt d (ptpAt d + 30) 2)])) ∧
    (∃ t, exec (.pfcFrame p b en qs) s = .next t ∧ { t with net := { t.net with pauses := s.net.pauses } } = s ∧
      ∀ q, q < 8 → Tbl.get 0 t.net.pauses (p.val, b.val, q) =
        if bitN en.toNat q = true ∧ bitN (s.f (.portCfg p) PORT_CFG.PFC) q = true then
          s.now + ((qs.getD q 0).toNat * 512 + (if p.val < 16 then 1600 else 800) / 2 ^ Tbl.get 0 s.net.mode p.val - 1) /
            ((if p.val < 16 then 1600 else 800) / 2 ^ Tbl.get 0 s.net.mode p.val)
        else Tbl.get 0 s.net.pauses (p.val, b.val, q)) ∧
    (∃ t, exec (.portTxts p b) s = .next t ∧ { t with net := s.net, chip := s.chip } = s ∧
      Tbl.get [] t.net.txts (p.val, b.val) = (Tbl.get [] s.net.txts (p.val, b.val)).drop 1 ∧
      Tbl.get {} t.chip.results (uCn 0) = { data := leBytes 8 (s.txtsWord p b 1) } ∧
      ∀ k, k ≠ (p.val, b.val) → Tbl.get [] t.net.txts k = Tbl.get [] s.net.txts k)

/-- The edge of a start or a resumption, the save or the timeout of a suspension, and a switch's cutoff and write. An
event whose section has no such command under way, or whose time has not come, changes nothing. At its edge a starting
section without windows and entries of its own runs: its masts are bound and enabled, its sheaves begin with slot 7 as
the last and no draw taken, and its steps count from the edge; a resumed one runs with its sources and drains
released; a suspension whose masts are drained is saved at its save address, with nothing below it written, and is
SUSPENDED; one whose drain has not ended by its limit, its sources stopped before, is HALTED with DRAIN in SL_ERR. A
cutoff with a step of Old open ends the switch and Old goes on; a switch whose Old is done unloads it and enters the
clear and write phases of New with the edge it starts at, unless its masts are taken meanwhile or its image's key is
erased: then Old goes on (the statuses BUSY and DENIED are the model's, log entry 83). Every command is completed with
its status. SECTION_START_EDGE, SECTION_RESUME_EDGE, SUSPEND_SAVE, SUSPEND_TIMEOUT, SWITCH_CUTOFF and SWITCH_WRITE
each complete here, and with them the SECTION_START, SECTION_RESUME, SECTION_SUSPEND and SECTION_SWITCH under way.
[R62, R128, R434, R436, R437, R438, R440, R441] -/
def Obligations.SectionEvents : Prop :=
  ∀ (sec : Byte) (s : State) (n : Nat), n = sec.toNat →
    ((∀ i q k sw, (s.sect n).job = .start i q k false sw → s.tick.nextK ≤ k) → exec (.sectionStartEdge sec) s = .next s) ∧
    ((∀ i q k sw, (s.sect n).job = .start i q k true sw → s.tick.nextK ≤ k) → exec (.sectionResumeEdge sec) s = .next s) ∧
    (s.saveReady n = ((s.sect n).stopped && s.drained (s.loadedMasts n) && s.coilsQuiet (s.loadedMasts n))) ∧
    ((∀ i q a b, (s.sect n).job = .suspend i q a b → s.saveReady n = false) → exec (.suspendSave sec) s = .next s) ∧
    ((∀ i q a b, (s.sect n).job = .suspend i q a b → s.now < b ∨ s.saveReady n = true) →
      exec (.suspendTimeout sec) s = .next s) ∧
    (∀ i q k sw, (s.sect n).job = .start i q k false sw → k < s.tick.nextK → (s.secState n).isSome = true →
      (s.sect n).wins = [] → (∀ e ∈ s.entList, s.entSection e ≠ n) → ∃ t : State,
      exec (.sectionStartEdge sec) s = .next (t.mbxEnd i q (if sw = some true then .timeout else .done)) ∧
      t.secState n = some secRunning ∧ (t.sect n).job = .none ∧ (t.stepOf n).nextEdge = k ∧ (t.stepOf n).opens = [] ∧
      (∀ m ∈ s.loadedMasts n, t.bit (.fabCtrl m) FAB_CTRL.ENABLE = true ∧ t.bit (.stkMast m) STK_MAST.VALID = true) ∧
      (∀ m ∈ s.loadedMasts n, ∀ x ∈ (t.fabric m).sheaves, x.2.last = 7 ∧ x.2.rs = 0) ∧
      (sw = some true → t.bit .slErr SL_ERR.SWITCH = true) ∧ (Calm s → ∀ a, byteAt t a = byteAt s a)) ∧
    (∀ i q k sw, (s.sect n).job = .start i q k true sw → k < s.tick.nextK → (s.secState n).isSome = true → ∃ t : State,
      exec (.sectionResumeEdge sec) s = .next (t.mbxEnd i q .done) ∧ t.secState n = some secRunning ∧
      t.sect n = { s.sect n with stopped := false, job := .none } ∧ t.stepOf n = { s.stepOf n with nextEdge := k } ∧
      (∀ m ∈ s.loadedMasts n, t.bit (.fabCtrl m) FAB_CTRL.STOP_SRC = false ∧ t.bit (.fabStat m) FAB_STAT.DRAIN_DONE = false ∧
        t.bit (.fabStat m) FAB_STAT.RESIDUE = false) ∧
      t.mem = s.mem) ∧
    (∀ i q a b, (s.sect n).job = .suspend i q a b → s.saveReady n = true →
      (s.secState n).isSome = true → ∃ t : State, exec (.suspendSave sec) s = .next (t.mbxEnd i q .done
        (leBytes 1 (if (s.loadedMasts n).any (fun m => s.bit (.fabStat m) FAB_STAT.RESIDUE) then 1 else 0))) ∧
      t.secState n = some secSuspended ∧ (t.sect n).job = .none ∧ (Calm s → byteAt t (imgSave (s.sect n).hdr) = sec ∧
        byteAt t (imgSave (s.sect n).hdr + 1) = BitVec.ofNat 8 (imgMask (s.sect n).hdr) ∧
        ∀ x, x < imgSave (s.sect n).hdr → byteAt t x = byteAt s x)) ∧
    (∀ i q a b, (s.sect n).job = .suspend i q a b → s.saveReady n = false → b ≤ s.now → (s.secState n).isSome = true → ∃ t : State, exec (.suspendTimeout sec) s = .next (t.mbxEnd i q .timeout) ∧
      t.secState n = some secHalted ∧ (t.sect n).job = .none ∧ t.bit .slErr SL_ERR.DRAIN = true ∧ t.mem = s.mem) ∧
    (∀ i q a b, (s.sect n).job = .suspend i q a b → s.saveReady n = false → b ≤ s.now →
      exec (.suspendTimeout sec) s = .next
        (((((s.stopSources n).setSecState n secHalted).setSecJob n .none).slErrBit SL_ERR.DRAIN n).mbxEnd i q .timeout)) ∧
    (s.switchOf n = none → exec (.switchCutoff sec) s = .next s ∧ exec (.switchWrite sec) s = .next s) ∧
    (∀ c, (s.sect n).cutoff = some c → s.tick.tb < c * tbUnit ∨ (s.stepOf n).opens = [] →
      exec (.switchCutoff sec) s = .next s) ∧
    (s.oldDone n = false → exec (.switchWrite sec) s = .next s) ∧
    (∀ j c, s.switchOf n = some j → (s.sect n).cutoff = some c → c * tbUnit ≤ s.tick.tb → (s.stepOf n).opens ≠ [] →
      ∃ t : State, exec (.switchCutoff sec) s = .next (t.mbxEnd j.mbx j.seq .tickOverrun) ∧ (t.sect n).cutoff = none ∧
      t.switchOf n = none ∧ t.secState n = s.secState n ∧ t.bit .slErr SL_ERR.SWITCH = true ∧ t.stepOf n = s.stepOf n ∧
      t.mem = s.mem) ∧
    (∀ j old, s.switchOf n = some j → s.oldDone n = true →
      old = (fun (st : Status) => State.mbxEnd ((State.setSect (s.dropSwitch n) n { s.sect n with cutoff := none }).loadErr st j.new false)
        j.mbx j.seq st) →
      (s.mastsBusy (imgMask j.hdr) (some n) = true → exec (.switchWrite sec) s = .next (old .busy)) ∧
      (s.mastsBusy (imgMask j.hdr) (some n) = false → keyGone j.hdr j.key = true →
        exec (.switchWrite sec) s = .next (old .denied)) ∧
      (s.mastsBusy (imgMask j.hdr) (some n) = false → keyGone j.hdr j.key = false →
        exec (.switchWrite sec) s =
          .next (((s.dropSwitch n).unload n).loadEnter j.new j.image j.hdr j.key j.mbx j.seq 2 (some j.k)) ∧
        ((((s.dropSwitch n).unload n).loadEnter j.new j.image j.hdr j.key j.mbx j.seq 2 (some j.k)).sect j.new).job =
          .load j.mbx j.seq 2 (some j.k)))

/-- Cold, module and warm reset. A cold reset of a powered device, a module reset of one that is powered and held by
nothing, and a warm reset that was ordered, whose completion left its port 100 us ago, leave every register at its
reset value but those that record the reset (and the counts, the debug level and the boot phase where R463 keeps
them); memory outside HBM reads as zero, no mailbox and no connection is left, fuses, boot flash, active slot,
rollback floor and overlay stay. RST_CAUSE holds the kind, the count (0 at a cold reset, else one more, saturating)
and whether a fatal error came before. Else the events change nothing, or only the pin's own state. After release of
MOD_RESET_N the boot starts at time zero. COLD_RESET, MODULE_RESET, WARM_RESET and MOD_RESET_N_RELEASE each complete
here. [R311, R462, R463, R465, R198] -/
def Obligations.DeviceResets : Prop :=
  ∀ (s : State) (d : Nat) (w : Bool),
    (s.mod.rails = false → exec .coldReset s = .next s) ∧
    (s.mod.rails = true → ∃ t, exec .coldReset s = .next t ∧ t.rd .rstCause = 0 ∧
      (∀ r, r ≠ .rstCause → t.rd r = BitVec.ofNat 64 (Reg.resetWord r + s.fuses.word r)) ∧
      (∀ a, s.fuses.hbmSize ≤ a → byteAt t a = 0) ∧ t.poison = [] ∧ t.mbx = [] ∧ t.net = {} ∧ t.secs = [] ∧ t.tick = {} ∧
      t.fuses = s.fuses ∧ t.boot.flash = s.boot.flash ∧ t.boot.active = s.boot.active ∧ t.boot.floor = s.boot.floor ∧
      t.boot.overlay = s.boot.overlay ∧ t.boot.t0 = s.now ∧ t.refs = s.refs ∧ t.pending = s.pending ∧
      t.mod.dyn = none ∧ t.mod.pgLow = false) ∧
    (s.mod.rstLow = true → exec .moduleReset s = .next s) ∧
    (s.mod.rstLow = false → (s.mod.rails = false ∨ s.mod.pgLow = true) →
      exec .moduleReset s = .next { s with mod := { s.mod with rstLow := true } }) ∧
    (s.mod.rstLow = false → s.mod.rails = true → s.mod.pgLow = false → ∃ t, exec .moduleReset s = .next t ∧
      t.mod.rstLow = true ∧ t.f .rstCause RST_CAUSE.KIND = 1 ∧
      t.f .rstCause RST_CAUSE.COUNT = min (s.f .rstCause RST_CAUSE.COUNT + 1) (2 ^ 32 - 1) ∧
      t.bit .rstCause RST_CAUSE.PREV_FATAL = (s.flt.prevFatal || s.bit .rstCause RST_CAUSE.PREV_FATAL) ∧
      (∀ r, r ∉ [.rstCause, .slStat, .cnStat] → t.rd r = BitVec.ofNat 64 (Reg.resetWord r + s.fuses.word r)) ∧
      (∀ a, s.fuses.hbmSize ≤ a → byteAt t a = 0) ∧ t.mbx = [] ∧ t.net = {} ∧ t.fuses = s.fuses ∧
      t.boot.flash = s.boot.flash ∧ t.f .slStat SL_STAT.MEASURES = s.f .slStat SL_STAT.MEASURES) ∧
    (s.mod.rstLow = false → exec .modResetNRelease s = .next s) ∧
    (s.mod.rstLow = true → s.mod.rails = true → s.mod.pgLow = false → exec .modResetNRelease s = .next { s with
      mod := { s.mod with rstLow := false }, boot := { s.boot with t0 := s.now }, cns := { wdAt := s.now }, tick := {} }) ∧
    (s.boot.warmAt = none ∨ (s.boot.warmAt = some (d, w) ∧ s.now < d) → exec .warmReset s = .next s) ∧
    (s.boot.warmAt = some (d, w) → d ≤ s.now → ∃ t, exec .warmReset s = .next t ∧ t.f .rstCause RST_CAUSE.KIND = 2 ∧
      t.bit .rstCause RST_CAUSE.RECOVERY_ACT = w ∧
      t.f .rstCause RST_CAUSE.COUNT = min (s.f .rstCause RST_CAUSE.COUNT + 1) (2 ^ 32 - 1) ∧
      t.f .bootStat BOOT_STAT.PHASE = 2 ∧ t.f .secStat SEC_STAT.DEBUG = s.f .secStat SEC_STAT.DEBUG ∧
      (∀ r, r ∉ [.rstCause, .slStat, .cnStat, .secStat, .bootStat] →
        t.rd r = BitVec.ofNat 64 (Reg.resetWord r + s.fuses.word r)) ∧
      (∀ a, s.fuses.hbmSize ≤ a → byteAt t a = 0) ∧ t.mbx = [] ∧ t.net = {} ∧ t.fuses = s.fuses ∧
      t.boot.flash = s.boot.flash ∧ t.mod = { s.mod with jtag := none } ∧ t.boot.warmAt = none ∧ t.boot.warmFor = none)

/-- Reset of a mast or a port, and the phases of the boot. A mast or port reset that was not ordered changes nothing. An
ordered mast reset clears the mast's memories and increments FAB_GEN; an ordered reset of a port with no connection
takes its links down, puts its mode in force and clears its RESET bit; the bit in RST_STAT clears and the RESET
commands that ordered it complete. While the device is unpowered or held, and outside phases 1 to 5, the boot does not
advance; else the phase that ends has had its effect: the slot is selected, and after a reset new keys are drawn and
the device secret is shut; on-chip memory is cleared, crowsnest's cores and its firmware channel are up; every stack
that did not fail is trained, from the cached values where they are valid and fit; the HBM mapping is at its reset
value, key slot 0 holds the key that was drawn, the mailboxes are ready with epochs of the DRBG. MAST_RESET,
PORT_RESET and BOOT_PHASE_ADVANCE each complete here, and with the first two the RESET that ordered it. [R141, R198,
R463, R464, R465, R466, R467, R391, R402] -/
def Obligations.UnitResetsAndBoot : Prop :=
  ∀ (m : Fin 8) (p : Fin 18) (cached : Bool) (fails : BitVec 16) (s : State) (ph : Nat), ph = s.f .bootStat BOOT_STAT.PHASE →
    (bitN (s.f .rstStat RST_STAT.MAST) m = false → exec (.mastReset m) s = .next s) ∧
    (bitN (s.f .rstStat RST_STAT.PORT) p = false → exec (.portReset p) s = .next s) ∧
    (bitN (s.f .rstStat RST_STAT.MAST) m = true → ∃ t : State, exec (.mastReset m) s = .next (t.resetDone 3 m) ∧
      (∀ a, (weightBase m ≤ a ∧ a < weightBase m + weightSize) ∨ (actBase m ≤ a ∧ a < actBase m + actSize) ∨
        (psumBase (16 * m) ≤ a ∧ a < psumBase (16 * m) + 0x01000000) → cellAt t a = 0) ∧
      t.f (.fabGen m) FAB_GEN.GEN = (s.f (.fabGen m) FAB_GEN.GEN + 1) % 2 ^ 16 ∧
      bitN (t.f .rstStat RST_STAT.MAST) m = false ∧ t.fabric m = {} ∧ t.jibs.all (fun e => e.1 / 4 != m.val) = true) ∧
    (bitN (s.f .rstStat RST_STAT.PORT) p = true → (∀ b, b < 4 → s.boundTo p b = []) → ∃ t : State,
      exec (.portReset p) s = .next (t.resetDone 4 p) ∧ t.mem = s.mem ∧
      (∀ b, b < 4 → t.bit (.portStat p b) PORT_STAT.LINK = false) ∧ t.f (.portCfg p) PORT_CFG.RESET = 0 ∧
      Tbl.get 0 t.net.mode p.val = s.f (.portCfg p) PORT_CFG.MODE ∧ bitN (t.f .rstStat RST_STAT.PORT) p = false) ∧
    (s.mod.rails = false ∨ s.mod.rstLow = true ∨ s.mod.pgLow = true ∨ ph = 0 ∨ 5 < ph →
      exec (.bootPhaseAdvance cached fails) s = .next s) ∧
    (s.mod.rails = true → s.mod.rstLow = false → s.mod.pgLow = false →
      (ph = 1 → ∃ t, exec (.bootPhaseAdvance cached fails) s = .next t ∧ OnlyRegs [.bootStat] s t ∧
        OnlyFields .bootStat [BOOT_STAT.PHASE] s t ∧ t.f .bootStat BOOT_STAT.PHASE = 2) ∧
      (ph = 2 → ∃ t, exec (.bootPhaseAdvance cached fails) s = .next t ∧ t.f .bootStat BOOT_STAT.PHASE = 3 ∧
        t.f .bootStat BOOT_STAT.SLOT = s.fwChoice % 4 ∧ t.sec.udsShut = true ∧ t.mem = s.mem ∧
        (s.sec.udsShut = false → t.sec.importKey = p521Key (Config.drbg s.free 80) ∧ t.sec.hbm = [] ∧
          t.sec.key0 = Config.drbg (s.free + 1) 32) ∧
        (s.sec.udsShut = true → t.sec.importKey = s.sec.importKey ∧ t.sec.key0 = s.sec.key0 ∧ t.sec.hbm = s.sec.hbm)) ∧
      (ph = 3 → ∃ t, exec (.bootPhaseAdvance cached fails) s = .next t ∧ t.f .bootStat BOOT_STAT.PHASE = 4 ∧
        t.f .cnStat CN_STAT.CORES_UP = 15 ∧ t.cns = { wdAt := s.now } ∧ (∀ a, s.fuses.hbmSize ≤ a → cellAt t a = 0) ∧
        t.f (.halCfg 8 0) HAL_CFG.VALID = 1 ∧ t.f (.halCfg 8 0) HAL_CFG.AUTOACK = 1 ∧
        t.f .cnStat CN_STAT.RECOVERY = (if s.f .bootStat BOOT_STAT.SLOT = 2 then 1 else 0)) ∧
      (ph = 4 → s.bit .cnStat CN_STAT.RECOVERY = false → ∃ t, exec (.bootPhaseAdvance cached fails) s = .next t ∧
        t.f .bootStat BOOT_STAT.PHASE = 5 ∧ t.f .bootStat BOOT_STAT.TRAIN = (if cached = true ∧
          (∃ x, s.boot.cache = some x ∧ s.cacheFits x = true) then 2 else 1) ∧
        (∀ h ∈ s.fuses.stacks, bitN fails.toNat h = false → t.bit (.hbmStat h) HBM_STAT.TRAINED = true) ∧
        (∀ h ∈ s.fuses.stacks, bitN fails.toNat h = true → t.bit (.hbmStat h) HBM_STAT.TRAINED = s.bit (.hbmStat h) HBM_STAT.TRAINED) ∧
        t.mem = s.mem) ∧
      (ph = 5 → ∃ t, exec (.bootPhaseAdvance cached fails) s = .next t ∧ t.f .bootStat BOOT_STAT.PHASE = 6 ∧
        t.mailboxReady = true ∧ t.free = s.free + 1 ∧
        (∀ i, i < 64 → t.mailbox i = { epoch := leAt (Config.drbg s.free 64) i 1 }) ∧
        t.f .bootStat BOOT_STAT.READY_MS = min ((s.now - s.boot.t0) / 1000000) 65535 ∧
        t.hbm.map = (2, 48) ∧ t.f .hbmMap HBM_MAP.GRAN = 2 ∧ t.f .hbmMap HBM_MAP.SPLITG = 48 ∧
        t.sec.hbm = [(64, s.sec.key0)] ∧ ∀ r, r ∉ [.bootStat, .hbmMap] → t.rd r = s.rd r))

/-- Mast power states, input power and gears. A mast that is to sleep enters SLEEP unless an abort runs or a fatal device
error's dump is not over; one that is to wake from SLEEP returns with its memories cleared; a move between ACTIVE and
IDLE keeps every state; a mast with no such move stays. A sample of the input enters the last 1,000, sets AVG_W to
their mean and INST_W to its own power, and outside 50 to 60 V sets VIN_RANGE. At a device edge, once, with the clocks
running, the gear goes one step slower above the cap, one step faster after 10 ms below 0.9 of it and 100 ms after a
trip, and CAP_MISS is set after 10 ms above the cap at 3.2 GHz. MAST_SLEEP_ENTRY, MAST_SLEEP_RETURN,
MAST_IDLE_TRANSITION, POWER_SAMPLE and GEAR_CHANGE each complete here. [R472, R473, R474, R475, R198] -/
def Obligations.PowerStates : Prop :=
  ∀ (m : Fin 8) (mv da : BitVec 16) (s : State) (g avg cap : Nat),
    (s.moveOf m ≠ some 2 ∨ s.bit .abtStat ABT_STAT.ACTIVE = true ∨
        (s.bit .fltStat FLT_STAT.DEVICE_FATAL = true ∧ s.dumpOver = false) → exec (.mastSleepEntry m) s = .next s) ∧
    (s.moveOf m = some 2 → s.bit .abtStat ABT_STAT.ACTIVE = false →
      (s.bit .fltStat FLT_STAT.DEVICE_FATAL = false ∨ s.dumpOver = true) → ∃ x : State, exec (.mastSleepEntry m) s =
        .next (if x.allAsleep = true ∧ s.allAsleep = false then x.selfRefresh else x).powerPoll ∧
      x.mastPower m = 2 ∧ x.moveOf m = none ∧ ∀ k, k < 8 → k ≠ m.val → x.moveOf k = s.moveOf k) ∧
    (s.moveOf m = none ∨ s.moveOf m = some 2 ∨ s.mastPower m ≠ 2 → exec (.mastSleepReturn m) s = .next s) ∧
    (∀ d, s.moveOf m = some d → d ≠ 2 → s.mastPower m = 2 → ∃ x : State,
      exec (.mastSleepReturn m) s = .next (if d = 0 then x.powerPoll else x) ∧ x.mastPower m = 0 ∧
      x.moveOf m = (if d = 0 then none else some d) ∧
      ∀ a, (weightBase m ≤ a ∧ a < weightBase m + weightSize) ∨ (actBase m ≤ a ∧ a < actBase m + actSize) → cellAt x a = 0) ∧
    ((∀ d, s.moveOf m = some d → 2 ≤ d ∨ 2 ≤ s.mastPower m) → exec (.mastIdleTransition m) s = .next s) ∧
    (∀ d, s.moveOf m = some d → d < 2 → s.mastPower m < 2 → ∃ x : State, exec (.mastIdleTransition m) s = .next x.powerPoll ∧
      x.mastPower m = d ∧ x.moveOf m = none ∧ OnlyRegs [.pwrStat] { s with pwr := x.pwr } x ∧
      ∀ k, k < 8 → k ≠ m.val → x.mastPower k = s.mastPower k) ∧
    ((∀ x ∈ s.pwr.samples, x ≤ 65535) → ∃ t, exec (.powerSample mv da) s = .next t ∧
      t.pwr.samples = (min (mv.toNat * da.toNat / 10000) 65535 :: s.pwr.samples).take 1000 ∧
      t.f .pwrInput PWR_INPUT.AVG_W = avgOf t.pwr.samples ∧
      t.f .pwrInput PWR_INPUT.INST_W = min (mv.toNat * da.toNat / 10000) 65535 ∧
      t.f .pwrInput PWR_INPUT.VIN_MV = mv.toNat ∧ t.f .pwrInput PWR_INPUT.IIN_DA = da.toNat ∧ t.mem = s.mem ∧
      (50000 ≤ mv.toNat → mv.toNat ≤ 60000 → OnlyRegs [.pwrInput] { s with pwr := t.pwr } t) ∧
      (mv.toNat < 50000 ∨ 60000 < mv.toNat → t.bit .pwrErr PWR_ERR.VIN_RANGE = true)) ∧
    (s.gearOpp = false ∨ s.bit .pwrStat PWR_STAT.STOPPED = true → exec .gearChange s = .next s) ∧
    (g = s.f .pwrStat PWR_STAT.GEAR → avg = s.f .pwrInput PWR_INPUT.AVG_W → cap = s.f .pwrCtrl PWR_CTRL.CAP →
      s.gearOpp = true → s.bit .pwrStat PWR_STAT.STOPPED = false → ∃ t, exec .gearChange s = .next t ∧
      t.pwr = { s.pwr with lastOpp := some s.refs } ∧ t.mem = s.mem ∧
      (cap < avg → g < 2 → t.f .pwrStat PWR_STAT.GEAR = g + 1 ∧ OnlyRegs [.pwrStat, .pwrGearcnt] { s with pwr := t.pwr } t ∧
        t.f .pwrGearcnt PWR_GEARCNT.CNT = (s.incSat .pwrGearcnt PWR_GEARCNT.CNT).f .pwrGearcnt PWR_GEARCNT.CNT) ∧
      (10 * avg < 9 * cap → s.f .pwrStat PWR_STAT.FUSED < g → s.pwr.tripAt = none →
        (∀ u, s.pwr.low = some u → u + 10000000 ≤ s.now → t.f .pwrStat PWR_STAT.GEAR = g - 1) ∧
        (s.pwr.low = none → t.f .pwrStat PWR_STAT.GEAR = g)) ∧
      (9 * cap ≤ 10 * avg → avg ≤ cap → t = { s with pwr := t.pwr }) ∧
      (∀ u, cap < avg → g = 2 → s.pwr.high = some u → u + 10000000 ≤ s.now → t.f .pwrStat PWR_STAT.GEAR = 2 ∧
        t.bit .pwrErr PWR_ERR.CAP_MISS = true))

/-- Thermal trip, resumption and shutdown, and the reading of an HBM stack. New readings of mast sensors enter, and THERM
shows the hottest; below every trip, and while the clocks are stopped, nothing more happens. At a trip the clocks stop
and THERMAL_TRIP is set; they resume at 3.2 GHz at a device edge once every sensor has cooled; 5 °C above a trip, or
after 100 ms stopped, the device shuts down with THERMAL_SHUTDOWN and an abort of all sections. A stack that is not
fitted, or was read less than 1 ms ago, is not read; else TEMP holds the reading, PEAK the larger, and THERM_TRIP or
THERM_WARN is set at and 5 °C below its trip, one or the other by the model's reading. THERMAL_TRIP, THERMAL_RESUME,
THERMAL_SHUTDOWN and HBM_TEMP_READ each complete here. [R384, R476, R487] -/
def Obligations.Temperatures : Prop :=
  ∀ (ts : List (Fin 8 × Byte)) (h : Fin 16) (temp : Byte) (s x : State), x = s.readTemps ts →
    ((x.bit .pwrStat PWR_STAT.STOPPED = true ∨ x.tripped 0 = false) → exec (.thermalTrip ts) s = .next x ∧
      OnlyRegs [.therm] { s with pwr := x.pwr } x ∧ x.f .therm THERM.HOTTEST = x.hottest.2 % 256) ∧
    (x.bit .pwrStat PWR_STAT.STOPPED = false → x.tripped 0 = true → ∃ t, exec (.thermalTrip ts) s = .next t ∧
      t.bit .pwrStat PWR_STAT.STOPPED = true ∧ t.bit .pwrErr PWR_ERR.THERMAL_TRIP = true ∧ t.pwr.tripAt = some s.now ∧
      t.pwr.stopAt = s.now ∧ t.mem = s.mem ∧
      ((∀ sec ∈ x.liveSections, x.secState sec ≠ some secRunning) → t.tick = s.tick) ∧
      ((∃ sec ∈ x.liveSections, x.secState sec = some secRunning) → t.bit .stkErr STK_ERR.THERMAL = true)) ∧
    (x.bit .pwrStat PWR_STAT.STOPPED = false ∨ x.cooled = false ∨ x.gearOpp = false →
      exec (.thermalResume ts) s = .next x) ∧
    (x.bit .pwrStat PWR_STAT.STOPPED = true → x.cooled = true → x.gearOpp = true → ∃ t,
      exec (.thermalResume ts) s = .next t ∧ OnlyRegs [.pwrStat, .pwrGearcnt] { x with pwr := t.pwr } t ∧
      t.bit .pwrStat PWR_STAT.STOPPED = false ∧ t.f .pwrStat PWR_STAT.GEAR = 2) ∧
    (x.pwr.shut = true ∨ (x.tripped 5 = false ∧ (x.bit .pwrStat PWR_STAT.STOPPED = false ∨ x.now < x.pwr.stopAt + 100000000)) →
      exec (.thermalShutdown ts) s = .next x) ∧
    (x.pwr.shut = false → x.tripped 5 = true ∨ (x.bit .pwrStat PWR_STAT.STOPPED = true ∧ x.pwr.stopAt + 100000000 ≤ x.now) →
      ∃ y : State, exec (.thermalShutdown ts) s = .next ((y.fatal 5 8 0xFFFF).abortBegin (y.abortScope 0 0) false none) ∧
      y.pwr.shut = true ∧ y.bit .pwrErr PWR_ERR.THERMAL_SHUTDOWN = true ∧ y.mem = s.mem) ∧
    (s.bit (.hbmStat h) HBM_STAT.FITTED = false → exec (.hbmTempRead h temp) s = .next s) ∧
    (∀ e, s.hbm.tempAt.find? (fun e => e.1 == h.val) = some e → s.now < e.2 + 1000000 →
      exec (.hbmTempRead h temp) s = .next s) ∧
    (s.bit (.hbmStat h) HBM_STAT.FITTED = true → s.hbm.tempAt.find? (fun e => e.1 == h.val) = none → ∃ t,
      exec (.hbmTempRead h temp) s = .next t ∧ t.f (.hbmTemp h) HBM_TEMP.TEMP = temp.toNat ∧
      t.f (.hbmTemp h) HBM_TEMP.PEAK = max temp.toNat (s.f (.hbmTemp h) HBM_TEMP.PEAK) ∧ t.mem = s.mem ∧
      (t.f .therm THERM.HOTTEST = t.hottest.2 % 256) ∧
      (s.hbmTrip h ≤ temp.toNat → t.bit (.hbmErr h) HBM_ERR.THERM_TRIP = true) ∧
      (temp.toNat < s.hbmTrip h → s.hbmTrip h ≤ temp.toNat + 5 → t.bit (.hbmErr h) HBM_ERR.THERM_WARN = true) ∧
      (temp.toNat + 5 < s.hbmTrip h → OnlyRegs [.hbmTemp h, .therm] { s with hbm := t.hbm } t))

/-- Mating, input voltage, PWR_GOOD and power-up. ENABLE mating starts the power-up at or above 48 V and waits below it; a
module that is mated stays. The power-up's end is a cold reset with the rails in regulation, held while the board
holds PWR_GOOD low. ENABLE breaking, VIN above 62 V and VIN below 46 V turn a powered device off, which loses what a
cold reset loses; within its limits, and unmated, VIN changes nothing. VIN rising through 48 V after a power-down, or
falling below 60 V after an overvoltage, starts the power-up again. PWR_GOOD pulled low holds a powered device in cold
reset. ENABLE_MATE, POWER_UP_DONE, ENABLE_BREAK, VIN_OVERVOLTAGE, VIN_UNDERVOLTAGE, VIN_RISING, VIN_OVERVOLTAGE_END
and PWR_GOOD_FALL each complete here. [R505, R506, R507, R516, R462] -/
def Obligations.ModulePins : Prop :=
  ∀ (mv : BitVec 16) (s : State),
    (s.mod.enable = true → exec (.enableMate mv) s = .next s) ∧
    (s.mod.enable = false → (mv.toNat < 48000 → exec (.enableMate mv) s = .next { s with mod := { s.mod with
        enable := true, vin := mv.toNat, ovr := false, down := true } }) ∧
      (48000 ≤ mv.toNat → exec (.enableMate mv) s = .next { s with mod := { s.mod with
        enable := true, vin := mv.toNat, ovr := false, down := false, upAt := some s.now } })) ∧
    (s.mod.upAt = none → exec .powerUpDone s = .next s) ∧
    (∀ u, s.mod.upAt = some u → ∃ t, exec .powerUpDone s = .next t ∧ ColdFrom s t ∧ t.rd .rstCause = 0 ∧
      t.mod.rails = true ∧ t.mod.upAt = none ∧ t.mod.pgLow = s.mod.pgLow ∧ t.boot.t0 = s.now) ∧
    (s.mod.rails = true → ∃ t, exec .enableBreak s = .next t ∧ ColdFrom s t ∧ t.mod.rails = false ∧ t.mod.enable = false ∧
      t.mod.upAt = none ∧ t.mod.pgLow = s.mod.pgLow) ∧
    (s.mod.rails = false → exec .enableBreak s = .next { s with mod := { s.mod with
      enable := false, ovr := false, down := false, upAt := none } }) ∧
    ((mv.toNat ≤ 62000 ∨ s.mod.enable = false → exec (.vinOvervoltage mv) s = .next s) ∧
      (62000 < mv.toNat → s.mod.enable = true → s.mod.rails = true → ∃ t, exec (.vinOvervoltage mv) s = .next t ∧
        ColdFrom s t ∧ t.mod.rails = false ∧ t.mod.ovr = true ∧ t.mod.vin = mv.toNat)) ∧
    ((46000 ≤ mv.toNat ∨ s.mod.enable = false → exec (.vinUndervoltage mv) s = .next s) ∧
      (mv.toNat < 46000 → s.mod.enable = true → s.mod.rails = true → ∃ t, exec (.vinUndervoltage mv) s = .next t ∧
        ColdFrom s t ∧ t.mod.rails = false ∧ t.mod.down = true ∧ t.mod.vin = mv.toNat)) ∧
    ((s.mod.enable = false ∨ s.mod.down = false ∨ mv.toNat < 48000 → exec (.vinRising mv) s = .next s) ∧
      (s.mod.enable = true → s.mod.down = true → 48000 ≤ mv.toNat → exec (.vinRising mv) s = .next { s with mod := { s.mod with
        vin := mv.toNat, upAt := some s.now, ovr := false, down := false } })) ∧
    ((s.mod.enable = false ∨ s.mod.ovr = false ∨ 60000 ≤ mv.toNat → exec (.vinOvervoltageEnd mv) s = .next s) ∧
      (s.mod.enable = true → s.mod.ovr = true → mv.toNat < 60000 → exec (.vinOvervoltageEnd mv) s = .next { s with
        mod := { s.mod with vin := mv.toNat, upAt := some s.now, ovr := false, down := false } })) ∧
    (s.mod.pgLow = true → exec .pwrGoodFall s = .next s) ∧
    (s.mod.pgLow = false → s.mod.rails = false → exec .pwrGoodFall s = .next { s with mod := { s.mod with pgLow := true } }) ∧
    (s.mod.pgLow = false → s.mod.rails = true → ∃ t, exec .pwrGoodFall s = .next t ∧ ColdFrom s t ∧ t.rd .rstCause = 0 ∧
      t.mod.pgLow = true ∧ t.mod.rails = true)

/-- Address assignment, MCTP control, PLDM and JTAG. While the I3C target does not respond there is no answer, and nothing
else changes. A target without a dynamic address takes the one assigned; an endpoint ID other than 0 and FF is taken;
the requests of R520 are answered from the state (the endpoint ID, the sensors, the cap), with the parts and codes its
standards would give marked as the model's (log entry 48); a cap within 450 to 2,600 W is taken and any other refused.
JTAG: no response before boot phase 2; IDCODE and BYPASS at every debug level, boundary scan from level 1, register
space at level 2; an instruction not offered does nothing. SETDASA, ENTDAA, SET_ENDPOINT_ID, GET_ENDPOINT_ID,
GET_MCTP_VERSION_SUPPORT, GET_MESSAGE_TYPE_SUPPORT, GET_TID, GET_PLDM_VERSION, GET_PLDM_TYPES, GET_PLDM_COMMANDS,
GET_SENSOR_READING, GET_NUMERIC_EFFECTER_VALUE, SET_NUMERIC_EFFECTER_VALUE, GET_PDR and JTAG each complete here.
[R520, R460, R477] -/
def Obligations.BoardManagement : Prop :=
  ∀ (a b : Byte) (id : BitVec 16) (v w : Word) (hd : BitVec 32) (s : State),
    (s.i3cOn = false → ∀ c ∈ [Instr.setdasa a, .entdaa a, .setEndpointId a, .getEndpointId, .getMctpVersionSupport a,
        .getMessageTypeSupport, .getTid, .getPldmVersion a, .getPldmTypes, .getPldmCommands a, .getSensorReading id,
        .getNumericEffecterValue id, .setNumericEffecterValue id v, .getPdr hd],
      exec c s = .next { s with mod := { s.mod with answer := [] } }) ∧
    (s.i3cOn = true → ∀ (said : List Byte → Host.Outcome State Fault Refusal),
      (∀ d, said d = .next { s with mod := { s.mod with answer := d } }) →
      (s.mod.dyn = none → ∀ c ∈ [Instr.setdasa a, .entdaa a],
        exec c s = .next { s with mod := { s.mod with dyn := some (a.toNat % 128), answer := [] } }) ∧
      (s.mod.dyn ≠ none → exec (.setdasa a) s = said [] ∧ exec (.entdaa a) s = said []) ∧
      (a = 0 ∨ a = 0xFF → exec (.setEndpointId a) s = said [2]) ∧
      (a ≠ 0 → a ≠ 0xFF → exec (.setEndpointId a) s =
        .next { s with mod := { s.mod with eid := a.toNat, answer := 0 :: Config.busBytes 1 0 } }) ∧
      exec .getEndpointId s = said (0 :: leBytes 1 s.mod.eid ++ Config.busBytes 2 0) ∧
      exec (.getMctpVersionSupport b) s = said (0 :: Config.busBytes 3 b.toNat) ∧
      exec .getMessageTypeSupport s = said [0, 1, 1] ∧ exec .getTid s = said (0 :: Config.busBytes 5 0) ∧
      exec (.getPldmVersion a) s = said (if a = 0 ∨ a = 2 then 0 :: Config.busBytes 6 a.toNat else [0x83]) ∧
      exec .getPldmTypes s = said (0 :: leBytes 8 5) ∧
      (a ≠ 0 → a ≠ 2 → exec (.getPldmCommands a) s = said [0x83]) ∧
      exec (.getPldmCommands 0) s = said (0 :: leBytes 32 60) ∧
      (id = 4 → exec (.getSensorReading id) s =
        said (0 :: 0 :: leBytes 4 (s.f .therm THERM.HOTTEST) ++ Config.busBytes 9 4)) ∧
      (id = 0 ∨ 28 < id.toNat → exec (.getSensorReading id) s = said [0x80]) ∧
      exec (.getNumericEffecterValue 1) s = said (0 :: leBytes 4 (s.f .pwrCtrl PWR_CTRL.CAP) ++ Config.busBytes 10 1) ∧
      (id ≠ 1 → exec (.getNumericEffecterValue id) s = said [0x80] ∧ exec (.setNumericEffecterValue id v) s = said [0x80]) ∧
      (v.toNat < 450 ∨ 2600 < v.toNat → exec (.setNumericEffecterValue 1 v) s = said [2]) ∧
      (450 ≤ v.toNat → v.toNat ≤ 2600 → ∃ t, exec (.setNumericEffecterValue 1 v) s = .next t ∧
        OnlyRegs [.pwrCtrl] { s with mod := { s.mod with answer := [0] } } t ∧ t.f .pwrCtrl PWR_CTRL.CAP = v.toNat) ∧
      exec (.getPdr hd) s = said (0 :: Config.busBytes 12 hd.toNat)) ∧
    (∀ op, s.jtagOn = false → exec (.jtag op) s = .next s) ∧
    (s.jtagOn = true → exec (.jtag .idcode) s = .next { s with mod := { s.mod with jtag := some .idcode, tdo := Config.idcode } } ∧
      exec (.jtag .bypass) s = .next { s with mod := { s.mod with jtag := some .bypass, tdo := 0 } } ∧
      (∀ op ∈ [JtagOp.extest, .sample, .ac1149],
        (s.f .secStat SEC_STAT.DEBUG < 1 → exec (.jtag op) s = .next s) ∧
        (1 ≤ s.f .secStat SEC_STAT.DEBUG →
          exec (.jtag op) s = .next { s with mod := { s.mod with jtag := some op, tdo := 0 } })) ∧
      (s.f .secStat SEC_STAT.DEBUG < 2 → ∀ op ∈ [JtagOp.core, .regRead v, .regWrite v w], exec (.jtag op) s = .next s) ∧
      (2 ≤ s.f .secStat SEC_STAT.DEBUG →
        exec (.jtag .core) s = .next { s with mod := { s.mod with jtag := some .core, tdo := 0 } } ∧
        (∀ r, v.toNat % 8 = 0 → zeroWord v.toNat = false → Reg.ofAddr v.toNat = some r → s.regAbsent r = false →
          (s.readEffect r).mod = s.mod → exec (.jtag (.regRead v)) s = .next { s.readEffect r with
            mod := { s.mod with jtag := some (.regRead v), tdo := BitVec.ofNat 64 (s.regView r) } })))

/-- The crash dump, the reset of a failed mast, and the summary of corrected errors. While no dump is owed, an abort runs,
or no core of crowsnest is up, nothing is written. Else the first section of a new dump, or the next one, is written
behind the header at the dump's place, with nothing below it changed; the last one completes the dump: DUMP is 2 and
none is owed. A fatal condition that has just been found is handled first. A failed mast is reset once the dump is
over, or 1 s after the error: its memories are cleared and FAB_GEN moves on. A summary is written at most once a
second of the time base, and only when a corrected error was counted. CRASH_DUMP_WRITE, FATAL_MAST_RESET and
CE_SUMMARY each complete here. [R482, R487, R495, R496, R498] -/
def Obligations.FaultEvents : Prop :=
  ∀ (m : Fin 8) (x : Fin 5 × Fin 8 × BitVec 16) (s : State),
    (s.flt.dumpDue = none ∨ s.bit .abtStat ABT_STAT.ACTIVE = true ∨ s.f .cnStat CN_STAT.CORES_UP = 0 →
      exec (.crashDumpWrite none) s = .next s) ∧
    (exec (.crashDumpWrite (some x)) s = exec (.crashDumpWrite none) (s.fatalFound x)) ∧
    (∀ u, s.flt.dumpDue = some u → s.bit .abtStat ABT_STAT.ACTIVE = false → s.f .cnStat CN_STAT.CORES_UP ≠ 0 →
      (s.f .fltStat FLT_STAT.DUMP ≠ 1 → ∃ t, exec (.crashDumpWrite none) s = .next t ∧ t.f .fltStat FLT_STAT.DUMP = 1 ∧
        t.flt.dumpTodo = (dumpPlan (s.hbmStatus != .done)).tail ∧ (t.flt.dumpDir.map (fun e => (e.1, e.2.1))) = [(2, 0)] ∧
        t.flt.dumpDue = some u ∧ (Calm s → byteAt t t.dumpAt = 0x44 ∧ ∀ a, a < t.dumpAt → byteAt t a = byteAt s a)) ∧
      (∀ k i e rest, s.f .fltStat FLT_STAT.DUMP = 1 → s.flt.dumpTodo = (k, i) :: e :: rest → ∃ t,
        exec (.crashDumpWrite none) s = .next t ∧ t.f .fltStat FLT_STAT.DUMP = 1 ∧ t.flt.dumpTodo = e :: rest ∧
        (t.flt.dumpDir.map (fun e => (e.1, e.2.1))) = s.flt.dumpDir.map (fun e => (e.1, e.2.1)) ++ [(k, i)] ∧
        (Calm s → ∀ a, a < s.dumpAt → byteAt t a = byteAt s a)) ∧
      (∀ k i, s.f .fltStat FLT_STAT.DUMP = 1 → s.flt.dumpTodo = [(k, i)] → ∃ t, exec (.crashDumpWrite none) s = .next t ∧
        t.f .fltStat FLT_STAT.DUMP = 2 ∧ t.flt.dumpDue = none ∧ t.flt.dumpTodo = [] ∧
        (Calm s → ∀ a, a < s.dumpAt → byteAt t a = byteAt s a))) ∧
    ((∀ e ∈ s.flt.fatals, e.2.1 ≠ m.val) → exec (.fatalMastReset m) s = .next s) ∧
    (∀ e, s.flt.fatals.find? (fun e => e.2.1 == m.val) = some e →
      (s.dumpOver = false → s.now < e.2.2 + 1000000000 → exec (.fatalMastReset m) s = .next s) ∧
      (s.dumpOver = true ∨ e.2.2 + 1000000000 ≤ s.now → ∃ t, exec (.fatalMastReset m) s = .next t ∧
        (∀ e ∈ t.flt.fatals, e.2.1 ≠ m.val) ∧ t.f (.fabGen m) FAB_GEN.GEN = (s.f (.fabGen m) FAB_GEN.GEN + 1) % 2 ^ 16 ∧
        t.fabric m = {} ∧ ∀ a, (weightBase m ≤ a ∧ a < weightBase m + weightSize) ∨ (actBase m ≤ a ∧ a < actBase m + actSize) →
          cellAt t a = 0)) ∧
    (s.flt.ceCount = 0 ∨ s.tbNs / 1000000000 + 1 = s.flt.ceSecond → exec .ceSummary s = .next s) ∧
    (s.flt.ceCount ≠ 0 → s.tbNs / 1000000000 + 1 ≠ s.flt.ceSecond → ∃ t r l, exec .ceSummary s = .next t ∧
      t.flt.ceCount = 0 ∧ t.flt.ceSecond = s.tbNs / 1000000000 + 1 ∧ t.mem = s.mem ∧ t.flt.log = r :: l ∧ r.code = 8 ∧
      r.detail = s.flt.ceCount % 2 ^ 32 ∧ (s.flt.log.length < 4096 → l = s.flt.log))

/-- NOP, MMA, MMA_LIST and the B tap. A sequencer whose mast does not run, that drains, has no step open, has ended it,
has an operation pending or its program over, or whose next words are others, issues nothing; one whose mast the
macro-instruction does not name passes over it. Otherwise a macro-instruction that waits for no cleat and whose A is
in memory runs its walks chunk by chunk, its tap reading each chunk once, and completes: with POISONED where its words
carried poison, with the status of its failed checks, with what its walks came to, and with DONE where nothing went
wrong, in LAST_STATUS and in the record; PC moves on; outside the record memory is as the walks left it, and where
there was no walk as it was. One whose A comes from a stream waits for it, goes on as far as its data reaches and
completes when its sails have computed on every chunk. The B tap gives the chunk of a slot to a target sail that has a
free buffer and no earlier chunk to take, and reads the next chunk into a free slot. MMA_NOP, MMA, MMA_LIST and
B_TAP_DELIVER each complete here. [R76, R80, R83, R87, R88, R89, R93, R95, R96, R97, R98] -/
def Obligations.TileSequencer : Prop :=
  ∀ (m : Fin 8) (w : List Word) (p : Bool) (slot : Fin 4) (sail : Fin 16) (s x : State) (o : Nat),
    x = (s.seqTake m).setF (.seqStat m) SEQ_STAT.WAITING 0 → o = wf w 0 7 0 →
    (s.mmaRun m = none → (s.mastRuns m = false ∨ s.bit (.fabCtrl m) FAB_CTRL.DRAIN = true ∨ s.stepping (uSeq m) = false ∨
        s.bit (.seqStat m) SEQ_STAT.STEP_DONE = true ∨ s.engPending (.seq m) = true ∨
        s.f (.seqProg m) SEQ_PROG.LENGTH ≤ s.f (.seqStat m) SEQ_STAT.PC ∨ s.seqFetch m ≠ (w, p)) →
      exec (.mmaNop m w p) s = .next s ∧ exec (.mma m w p) s = .next s ∧ exec (.mmaList m w p) s = .next s) ∧
    (∀ e ∈ [((.mmaNop m w p : Instr), 0), (.mma m w p, 0x10), (.mmaList m w p, 0x11)],
      o = e.2 ∨ (o ≠ 0 ∧ o ≠ 0x10 ∧ o ≠ 0x11) →
      (p = false → s.mmaRun m = none → s.mastRuns m = true → s.bit (.fabCtrl m) FAB_CTRL.DRAIN = false →
        s.stepping (uSeq m) = true → s.bit (.seqStat m) SEQ_STAT.STEP_DONE = false → s.engPending (.seq m) = false →
        s.f (.seqStat m) SEQ_STAT.PC < s.f (.seqProg m) SEQ_PROG.LENGTH → s.seqFetch m = (w, p) →
        wf w 0 31 24 ≠ 0 → bitN (wf w 0 31 24) m = false → ∃ t, exec e.1 s = .next t ∧
        t = (s.seqTake m).setF (.seqStat m) SEQ_STAT.PC (s.f (.seqStat m) SEQ_STAT.PC + 1) ∧
        t.f (.seqStat m) SEQ_STAT.PC = (s.f (.seqStat m) SEQ_STAT.PC + 1) % 65536 ∧
        (Calm s → ∀ a, byteAt t a = byteAt s a)) ∧
      (∀ st1 plan b, TileIssues s m w p → (st1, plan) = (if p then (.poisoned, []) else x.mmaPlan m o w) →
        b = (x.mmaBegin m o w plan).mmaOpen m o w st1 plan →
        (aStream w = true → b.2.uses ≠ [] → exec e.1 s = .next { (b.1.tapRead b.2 4).1 with
          sail := { (b.1.tapRead b.2 4).1.sail with runs := (b.1.tapRead b.2 4).1.sail.runs ++ [(b.1.tapRead b.2 4).2] } }) ∧
        (∀ u, aStream w = false ∨ b.2.uses = [] → u = b.1.memDrain b.2 b.2.uses →
          exec e.1 s = .next (u.1.mmaEnd u.2) ∧
          ((∀ y ∈ plan, ∀ c sh, y.walk = some (c, sh) → x.cLocal w c = true) → ∃ t, exec e.1 s = .next t ∧
            TileEnds s t m w o (mmaWorse (plan.foldl (fun st y => mmaWorse st y.st) st1) u.2.status) ∧
            TileStored u.1 t m w ∧ (plan = [] → TileStored s t m w)))) ∧
      (∀ q y, s.mmaRun m = some q →
        (q.w ≠ w ∨ q.op ≠ o → exec e.1 s = .next s) ∧
        (q.w = w → q.op = o → s.mastClocked m = false → exec e.1 s = .next s) ∧
        (q.w = w → q.op = o → s.mastClocked m = true → y = s.streamDrain q (q.uses.length + 1) →
          exec e.1 s = .next (if y.2.uses = [] then y.1.mmaEnd y.2 else y.1.putRun y.2)))) ∧
    (TileIssues s m w false → o = 0 → x.mmaCheck1 m 0 w = .done → ∃ t, exec (.mmaNop m w false) s = .next t ∧
      TileEnds s t m w 0 .done ∧ TileStored s t m w) ∧
    (∀ sh b u, TileIssues s m w false → o = 0x10 → x.mmaCheck1 m 0x10 w = .done → aStream w = false →
      x.mmaEntry m w (mmaBases w) = { st := .done, walk := some (mmaBases w, sh) } → x.cLocal w (mmaBases w) = true →
      b = (x.mmaBegin m 0x10 w [x.mmaEntry m w (mmaBases w)]).mmaOpen m 0x10 w .done [x.mmaEntry m w (mmaBases w)] →
      u = b.1.memDrain b.2 b.2.uses →
      u.2.poison = false → wb w 0 11 = false ∨ u.2.flags &&& (fOvf ||| fUnf) = 0 → ∃ t, exec (.mma m w false) s = .next t ∧
      TileEnds s t m w 0x10 .done ∧ TileStored u.1 t m w) ∧
    (∀ plan b u, TileIssues s m w false → o = 0x11 → aStream w = false → x.mmaPlan m 0x11 w = (.done, plan) →
      (∀ e ∈ plan, e.st = .done ∧ ∀ c sh, e.walk = some (c, sh) → x.cLocal w c = true) →
      b = (x.mmaBegin m 0x11 w plan).mmaOpen m 0x11 w .done plan → u = b.1.memDrain b.2 b.2.uses →
      u.2.poison = false → wb w 0 11 = false ∨ u.2.flags &&& (fOvf ||| fUnf) = 0 → ∃ t, exec (.mmaList m w false) s = .next t ∧
      TileEnds s t m w 0x11 .done ∧ TileStored u.1 t m w) ∧
    (s.sail.tap.find? (fun t => t.mast == m.val && t.slot == slot.val && t.targets.contains sail.val) = none ∨
        2 ≤ (s.bBufs m sail).length → exec (.bTapDeliver m slot sail) s = .next s) ∧
    (∀ c y, s.sail.tap.find? (fun t => t.mast == m.val && t.slot == slot.val && t.targets.contains sail.val) = some c →
      (s.bBufs m sail).length < 2 →
      (∀ b ∈ s.sail.tap, b.mast = m.val → b.no < c.no → b.targets.contains sail.val = false) → y = s.tapGive m c sail →
      (s.mmaRun m = none → exec (.bTapDeliver m slot sail) s = .next y) ∧
      (∀ r, s.mmaRun m = some r →
        exec (.bTapDeliver m slot sail) s = .next (((y.tapRead r 1).1.putRun (y.tapRead r 1).2).drain m)) ∧
      { y with sail := s.sail } = s ∧
      y.bBufs m sail = s.bBufs m sail ++ [{ no := c.no, chunk := c.chunk, data := c.data }] ∧
      (∀ k, k ≠ sail.val → y.bBufs m k = s.bBufs m k) ∧ y.sail.runs = s.sail.runs ∧
      ((∃ k ∈ c.targets, k ≠ sail.val) → { c with targets := c.targets.filter (fun k => k != sail.val) } ∈ y.sail.tap))

/-- A jib instruction: issue, the checks in their order, what it writes, its completion. A jib whose mast does not run,
that has no step open or has ended it, whose program is over or has other words at PC, issues nothing. Otherwise an
instruction without a cleat wait completes: poisoned words, a failed check of the words, a count that fails, a
footprint that fails, and an empty operation each end it with their status and write nothing but the record; an
instruction that passes writes exactly what its operation computes, the last write of a byte stands, in its store, its
predicate and in memory, and the draws it used advance RSCTR: DONE where no poison was met, POISONED where some was.
PC moves on, or the step ends and is reported; LAST_STATUS, JIB_LAST and Result hold the outcome. With no DoneCleat
nothing else changes but the state of the banks and scoreboards; a DoneCleat gets ADD 1 with the status. The rows of
jibRows are JIB_NOP, JIB_MOV, JIB_ADD, JIB_SUB, JIB_MUL, JIB_FMA, JIB_MAX, JIB_MIN, JIB_ABS, JIB_NEG, JIB_AND, JIB_OR,
JIB_XOR, JIB_SHL, JIB_SHR, JIB_ASR, JIB_CMPEQ, JIB_CMPLT, JIB_CMPLE, JIB_SEL, JIB_CVT, JIB_RCP, JIB_DIV, JIB_SQRT,
JIB_RSQRT, JIB_EXP, JIB_EXP2, JIB_LOG, JIB_LOG2, JIB_TANH, JIB_SIGMOID, JIB_SILU, JIB_GELU, JIB_SIN, JIB_COS, SILUMUL,
JIB_RSUM, JIB_RMAX, RMIN, ARGMAX, RMAXREC, COMPRESS, EXPAND, TOPK, SAMPLE, TREEMASK, SMXUPD, QUANT, RMSNORM, TMMA and
TTRANS: each of these 51 completes here, JIB_NOP by its own clauses, each other with the state that jibApply gives,
which the clauses over the rows describe. [R144, R146, R147, R148, R152, R154, R156, R161, R167, R168, R169, R484] -/
def Obligations.JibInstructions : Prop :=
  ∀ (j : Fin 32) (w : List Word) (s : State) (v : Jx), v = jibView s j w →
  (∀ e ∈ jibRows, ∀ o ws, o = v.run e.2 → ws = jibWrites v e.2 →
    (∀ p, s.mastRuns (j / 4) = false ∨ s.stepping (uJib j) = false ∨
        s.bit (.jibStat (j / 4) (j % 4)) JIB_STAT.STEP_DONE = true ∨
        s.f (.jibProg (j / 4) (j % 4)) JIB_PROG.LENGTH ≤ s.f (.jibStat (j / 4) (j % 4)) JIB_STAT.PC ∨ s.jibFetch j ≠ (w, p) ∨
        (jibOps.contains (jw w 0 7 0) = true ∧ jw w 0 7 0 ≠ e.2) → exec (e.1 j w p) s = .next s) ∧
    (JibIssues s j w true e.2 → ∃ t, exec (e.1 j w true) s = .next t ∧
      JibEnds s t j w (jibOp e.2 w) .poisoned 0 0 ∧ JibStoresNone s t j w) ∧
    (JibIssues s j w false e.2 → jStep1 w v.tile (jibOp e.2 w) = false → ∃ t, exec (e.1 j w false) s = .next t ∧
      JibEnds s t j w (jibOp e.2 w) .badDescriptor 0 0 ∧ JibStoresNone s t j w) ∧
    (JibIssues s j w false e.2 → jibOps.contains (jw w 0 7 0) = true → jStep1 w v.tile e.2 = true →
      (∀ st, (v.s.jibCount j w).2 = st → st ≠ .done → ∃ t, exec (e.1 j w false) s = .next t ∧
        JibEnds s t j w e.2 st 0 0 ∧ JibStoresNone s t j w) ∧
      ((v.s.jibCount j w).2 = .done → v.n = 0 → e.2 ≠ 0x54 → ∃ t, exec (e.1 j w false) s = .next t ∧
        JibEnds s t j w e.2 .done 0 0 ∧ JibStoresNone s t j w ∧ (jw w 0 57 42 = 0xFFFF → JibFrame s t j)) ∧
      (∀ st, (v.s.jibCount j w).2 = .done → e.2 ≠ 0 → v.n ≠ 0 ∨ e.2 = 0x54 → v.check e.2 = st → st ≠ .done → ∃ t,
        exec (e.1 j w false) s = .next t ∧ JibEnds s t j w e.2 st 0 0 ∧ JibStoresNone s t j w)) ∧
    (JibIssues s j w false e.2 → JibPasses s j w e.2 → o.bad = false → jibPoisons v e.2 = false → ∃ t,
      exec (e.1 j w false) s = .next t ∧ JibEnds s t j w e.2 .done o.flags o.result ∧
      (jw w 0 57 42 = 0xFFFF → JibFrame s t j)) ∧
    (JibIssues s j w false e.2 → JibPasses s j w e.2 → ∃ t, exec (e.1 j w false) s = .next t ∧
      JibEnds s t j w e.2 (if o.bad then .badDescriptor else if jibPoisons v e.2 then .poisoned else .done)
        o.flags o.result ∧
      (∀ a, memGet (t.jib j).store a = match ((jibOwn ws).filter (fun y => y.1 == a)).getLast? with
        | some y => y.2 | none => memGet (s.jib j).store a) ∧
      (∀ k, Tbl.get 0 (t.jib j).preds k = match o.pred with
        | some y => if k = y.1 then y.2.1 else Tbl.get 0 (s.jib j).preds k | none => Tbl.get 0 (s.jib j).preds k) ∧
      t.f (.jibRsctr (j / 4) (j % 4)) JIB_RSCTR.CTR = (s.f (.jibRsctr (j / 4) (j % 4)) JIB_RSCTR.CTR +
        (if e.2 = 0x53 ∨ (jw w 0 15 14 = 2 ∧ (jInt v.aty && jInt v.dty) = false) then o.draws else 0)) % 2 ^ 48 ∧
      (jw w 0 57 42 = 0xFFFF → ∀ a, a < jibRecord s j ∨ jibRecord s j + 16 ≤ a →
          byteAt t a = match ((jibCells ws).filter (fun y => y.1 == a)).getLast? with
            | some y => y.2 | none => byteAt s a))) ∧
    (∀ d c, JibIssues s j w false 0 → jibOps.contains (jw w 0 7 0) = true → jStep1 w v.tile 0 = true →
      (v.s.jibCount j w).2 = .done → v.n % v.r = 0 → jw w 0 57 42 = d →
      c = s.cleat d → d ≤ cleatMax → s.isProxy d = false → c.value + 1 < 2 ^ 31 → s.waitsOn d = [] → Released s (uJib j) →
      s.cltCheck { op := 2, index := d, operand := 1 } (s.gid (uJib j)) = .done → ∃ t : State,
      exec (.jibNop j w false) s = .next t ∧ JibEnds s t j w 0 .done 0 0 ∧ (t.cleat d).value = c.value + 1 ∧
      ∀ i, i ≠ d → t.cleat i = s.cleat i) ∧
    (JibIssues s j w false 0 → jibOps.contains (jw w 0 7 0) = true → jStep1 w v.tile 0 = true →
      (v.s.jibCount j w).2 = .done → v.n % v.r = 0 → jw w 0 57 42 = 0xFFFF →
      ∃ t, exec (.jibNop j w false) s = .next t ∧ JibEnds s t j w 0 .done 0 0 ∧ JibFrame s t j ∧ JibStoresNone s t j w) ∧
    (JibIssues s j w false 0x01 → JibPasses s j w 0x01 → exec (.jibMov j w false) s = .next (v.s.jibApply j w 0x01 v)) ∧
    (JibIssues s j w false 0x02 → JibPasses s j w 0x02 → exec (.jibAdd j w false) s = .next (v.s.jibApply j w 0x02 v)) ∧
    (JibIssues s j w false 0x03 → JibPasses s j w 0x03 → exec (.jibSub j w false) s = .next (v.s.jibApply j w 0x03 v)) ∧
    (JibIssues s j w false 0x04 → JibPasses s j w 0x04 → exec (.jibMul j w false) s = .next (v.s.jibApply j w 0x04 v)) ∧
    (JibIssues s j w false 0x05 → JibPasses s j w 0x05 → exec (.jibFma j w false) s = .next (v.s.jibApply j w 0x05 v)) ∧
    (JibIssues s j w false 0x06 → JibPasses s j w 0x06 → exec (.jibMax j w false) s = .next (v.s.jibApply j w 0x06 v)) ∧
    (JibIssues s j w false 0x07 → JibPasses s j w 0x07 → exec (.jibMin j w false) s = .next (v.s.jibApply j w 0x07 v)) ∧
    (JibIssues s j w false 0x08 → JibPasses s j w 0x08 → exec (.jibAbs j w false) s = .next (v.s.jibApply j w 0x08 v)) ∧
    (JibIssues s j w false 0x09 → JibPasses s j w 0x09 → exec (.jibNeg j w false) s = .next (v.s.jibApply j w 0x09 v)) ∧
    (JibIssues s j w false 0x0A → JibPasses s j w 0x0A → exec (.jibAnd j w false) s = .next (v.s.jibApply j w 0x0A v)) ∧
    (JibIssues s j w false 0x0B → JibPasses s j w 0x0B → exec (.jibOr j w false) s = .next (v.s.jibApply j w 0x0B v)) ∧
    (JibIssues s j w false 0x0C → JibPasses s j w 0x0C → exec (.jibXor j w false) s = .next (v.s.jibApply j w 0x0C v)) ∧
    (JibIssues s j w false 0x0D → JibPasses s j w 0x0D → exec (.jibShl j w false) s = .next (v.s.jibApply j w 0x0D v)) ∧
    (JibIssues s j w false 0x0E → JibPasses s j w 0x0E → exec (.jibShr j w false) s = .next (v.s.jibApply j w 0x0E v)) ∧
    (JibIssues s j w false 0x0F → JibPasses s j w 0x0F → exec (.jibAsr j w false) s = .next (v.s.jibApply j w 0x0F v)) ∧
    (JibIssues s j w false 0x10 → JibPasses s j w 0x10 → exec (.jibCmpeq j w false) s = .next (v.s.jibApply j w 0x10 v)) ∧
    (JibIssues s j w false 0x11 → JibPasses s j w 0x11 → exec (.jibCmplt j w false) s = .next (v.s.jibApply j w 0x11 v)) ∧
    (JibIssues s j w false 0x12 → JibPasses s j w 0x12 → exec (.jibCmple j w false) s = .next (v.s.jibApply j w 0x12 v)) ∧
    (JibIssues s j w false 0x13 → JibPasses s j w 0x13 → exec (.jibSel j w false) s = .next (v.s.jibApply j w 0x13 v)) ∧
    (JibIssues s j w false 0x14 → JibPasses s j w 0x14 → exec (.jibCvt j w false) s = .next (v.s.jibApply j w 0x14 v)) ∧
    (JibIssues s j w false 0x20 → JibPasses s j w 0x20 → exec (.jibRcp j w false) s = .next (v.s.jibApply j w 0x20 v)) ∧
    (JibIssues s j w false 0x21 → JibPasses s j w 0x21 → exec (.jibDiv j w false) s = .next (v.s.jibApply j w 0x21 v)) ∧
    (JibIssues s j w false 0x22 → JibPasses s j w 0x22 → exec (.jibSqrt j w false) s = .next (v.s.jibApply j w 0x22 v)) ∧
    (JibIssues s j w false 0x23 → JibPasses s j w 0x23 → exec (.jibRsqrt j w false) s = .next (v.s.jibApply j w 0x23 v)) ∧
    (JibIssues s j w false 0x24 → JibPasses s j w 0x24 → exec (.jibExp j w false) s = .next (v.s.jibApply j w 0x24 v)) ∧
    (JibIssues s j w false 0x25 → JibPasses s j w 0x25 → exec (.jibExp2 j w false) s = .next (v.s.jibApply j w 0x25 v)) ∧
    (JibIssues s j w false 0x26 → JibPasses s j w 0x26 → exec (.jibLog j w false) s = .next (v.s.jibApply j w 0x26 v)) ∧
    (JibIssues s j w false 0x27 → JibPasses s j w 0x27 → exec (.jibLog2 j w false) s = .next (v.s.jibApply j w 0x27 v)) ∧
    (JibIssues s j w false 0x28 → JibPasses s j w 0x28 → exec (.jibTanh j w false) s = .next (v.s.jibApply j w 0x28 v)) ∧
    (JibIssues s j w false 0x29 → JibPasses s j w 0x29 → exec (.jibSigmoid j w false) s = .next (v.s.jibApply j w 0x29 v)) ∧
    (JibIssues s j w false 0x2A → JibPasses s j w 0x2A → exec (.jibSilu j w false) s = .next (v.s.jibApply j w 0x2A v)) ∧
    (JibIssues s j w false 0x2B → JibPasses s j w 0x2B → exec (.jibGelu j w false) s = .next (v.s.jibApply j w 0x2B v)) ∧
    (JibIssues s j w false 0x2C → JibPasses s j w 0x2C → exec (.jibSin j w false) s = .next (v.s.jibApply j w 0x2C v)) ∧
    (JibIssues s j w false 0x2D → JibPasses s j w 0x2D → exec (.jibCos j w false) s = .next (v.s.jibApply j w 0x2D v)) ∧
    (JibIssues s j w false 0x2E → JibPasses s j w 0x2E → exec (.silumul j w false) s = .next (v.s.jibApply j w 0x2E v)) ∧
    (JibIssues s j w false 0x40 → JibPasses s j w 0x40 → exec (.jibRsum j w false) s = .next (v.s.jibApply j w 0x40 v)) ∧
    (JibIssues s j w false 0x41 → JibPasses s j w 0x41 → exec (.jibRmax j w false) s = .next (v.s.jibApply j w 0x41 v)) ∧
    (JibIssues s j w false 0x42 → JibPasses s j w 0x42 → exec (.rmin j w false) s = .next (v.s.jibApply j w 0x42 v)) ∧
    (JibIssues s j w false 0x43 → JibPasses s j w 0x43 → exec (.argmax j w false) s = .next (v.s.jibApply j w 0x43 v)) ∧
    (JibIssues s j w false 0x44 → JibPasses s j w 0x44 → exec (.rmaxrec j w false) s = .next (v.s.jibApply j w 0x44 v)) ∧
    (JibIssues s j w false 0x50 → JibPasses s j w 0x50 → exec (.compress j w false) s = .next (v.s.jibApply j w 0x50 v)) ∧
    (JibIssues s j w false 0x51 → JibPasses s j w 0x51 → exec (.expand j w false) s = .next (v.s.jibApply j w 0x51 v)) ∧
    (JibIssues s j w false 0x52 → JibPasses s j w 0x52 → exec (.topk j w false) s = .next (v.s.jibApply j w 0x52 v)) ∧
    (JibIssues s j w false 0x53 → JibPasses s j w 0x53 → exec (.sample j w false) s = .next (v.s.jibApply j w 0x53 v)) ∧
    (JibIssues s j w false 0x54 → JibPasses s j w 0x54 → exec (.treemask j w false) s = .next (v.s.jibApply j w 0x54 v)) ∧
    (JibIssues s j w false 0x55 → JibPasses s j w 0x55 → exec (.smxupd j w false) s = .next (v.s.jibApply j w 0x55 v)) ∧
    (JibIssues s j w false 0x56 → JibPasses s j w 0x56 → exec (.quant j w false) s = .next (v.s.jibApply j w 0x56 v)) ∧
    (JibIssues s j w false 0x57 → JibPasses s j w 0x57 → exec (.rmsnorm j w false) s = .next (v.s.jibApply j w 0x57 v)) ∧
    (JibIssues s j w false 0x60 → JibPasses s j w 0x60 → exec (.tmma j w false) s = .next (v.s.jibApply j w 0x60 v)) ∧
    (JibIssues s j w false 0x61 → JibPasses s j w 0x61 → exec (.ttrans j w false) s = .next (v.s.jibApply j w 0x61 v))

/-- What the jib's element-wise operations, compares and HRECV compute. For active elements: MOV gives A; ADD, SUB, MUL,
FMA, MAX, MIN, ABS and NEG the exact result rounded once into DType; integer logic and shifts work on 32 bits with the
shift B mod 32; SEL chooses by the predicate; an operand without a value makes the result invalid. A compare sets
exactly the bits of the active elements for which its relation holds, and counts them. HRECV waits on an empty queue,
and else pops the head notification, whose 16 bytes stand at D and whose length is the Result, and completes with
DONE, or with POISONED where its predicate is poisoned. [R51, R149, R151, R152, R154, R165] -/
def Obligations.JibElements : Prop :=
  (∀ (x : Jx) (op i : Nat), op ∈ [1, 2, 3, 4, 5, 6, 7, 8, 9, 0x0A, 0x0B, 0x0C, 0x0D, 0x0E, 0x0F] →
    ∃ y, x.ew op i = ((x.conv (jInt x.aty) i y).1, (x.conv (jInt x.aty) i y).2, (x.ew op i).2.2) ∧
    ((x.src 3 i).p = true → (x.ew op i).2.2 = true) ∧
    (2 ≤ jArity op → (x.src 4 i).p = true → (x.ew op i).2.2 = true) ∧
    (op ∈ [1, 2, 3, 4, 5, 6, 7, 8, 9] → (x.src 3 i).v = none → y = none) ∧
    ∀ a, (x.src 3 i).v = some a → (op = 1 → y = some a) ∧ (op = 8 → y = some a.abs) ∧ (op = 9 → y = some a.neg) ∧
      ∀ b, (x.src 4 i).v = some b → (op = 2 → y = some (a.add b)) ∧ (op = 3 → y = some (a.sub b)) ∧
      (op = 4 → y = some (a.mul b)) ∧ (op = 6 → y = some (qMax a b)) ∧ (op = 7 → y = some (qMin a b)) ∧
      (op = 0x0A → y = some (Q.ofInt (sext 32 (wrapI 32 a.num &&& wrapI 32 b.num)))) ∧
      (op = 0x0B → y = some (Q.ofInt (sext 32 (wrapI 32 a.num ||| wrapI 32 b.num)))) ∧
      (op = 0x0C → y = some (Q.ofInt (sext 32 (wrapI 32 a.num ^^^ wrapI 32 b.num)))) ∧
      (op = 0x0D → y = some (Q.ofInt (sext 32 (wrapI 32 a.num * 2 ^ (wrapI 32 b.num % 32) % 2 ^ 32)))) ∧
      (op = 0x0E → y = some (Q.ofInt (sext 32 (wrapI 32 a.num / 2 ^ (wrapI 32 b.num % 32))))) ∧
      (op = 0x0F → y = some (Q.ofInt (a.num / 2 ^ (wrapI 32 b.num % 32)))) ∧
      ∀ c, op = 5 → (x.src 5 i).v = some c → y = some ((a.mul b).add c)) ∧
  (∀ (x : Jx) (i : Nat), ∃ e, x.ew 0x13 i = ((x.conv (jInt x.aty) i e.v).1, (x.conv (jInt x.aty) i e.v).2, e.p) ∧
    e = if x.active i then x.src 3 i else x.src 4 i) ∧
  (∀ (x : Jx), ∀ op ∈ [0x10, 0x11, 0x12], ∃ k bits p, x.run op = { x.run op with pred := some (k, bits, p) } ∧
    k = (jop x.w 2).reg - 64 ∧ (x.run op).writes = [] ∧ bits < 2 ^ x.n ∧
    (x.run op).result = ((List.range x.n).filter (fun i => bits.testBit i)).length ∧
    ∀ i < x.n, (x.active i = false → bits.testBit i = false) ∧
      ((x.src 3 i).p = true ∨ (x.src 4 i).p = true → bits.testBit i = false ∧ (x.active i = true → p = true)) ∧
      ∀ a b, x.active i = true → x.src 3 i = { v := some a, p := false } → x.src 4 i = { v := some b, p := false } →
        bits.testBit i = (if op = 0x10 then a.eq b else if op = 0x11 then a.lt b else a.le b)) ∧
  (∀ (x : Jx) (op : Nat), op ≤ 0x0F ∨ (0x14 ≤ op ∧ op ≤ 0x2E) → ∀ y ∈ (x.runEw op).writes, ∃ i < x.n,
    x.active i = true ∧ y = x.put (jop x.w 2) x.dty i (x.ew op i).1 (x.ew op i).2.2) ∧
  ∀ (j : Fin 32) (w : List Word) (s : State) (v : Jx), v = jibView s j w →
    (∀ p, s.mastRuns (j / 4) = false ∨ s.stepping (uJib j) = false ∨
        s.bit (.jibStat (j / 4) (j % 4)) JIB_STAT.STEP_DONE = true ∨
        s.f (.jibProg (j / 4) (j % 4)) JIB_PROG.LENGTH ≤ s.f (.jibStat (j / 4) (j % 4)) JIB_STAT.PC ∨ s.jibFetch j ≠ (w, p) →
      exec (.hrecv j w p) s = .next s) ∧
    (JibIssues s j w true 0x70 → ∃ t, exec (.hrecv j w true) s = .next t ∧
      JibEnds s t j w (jibOp 0x70 w) .poisoned 0 0 ∧ JibStoresNone s t j w) ∧
    (JibIssues s j w false 0x70 → JibPasses s j w 0x70 →
      ((s.chan (128 * (j / 4) + v.aux 5 0)).queue = [] → ∃ t, exec (.hrecv j w false) s = .next t ∧
        OnlyRegs [.jibStat (j / 4) (j % 4)] v.s t ∧
        OnlyFields (.jibStat (j / 4) (j % 4)) [JIB_STAT.WAITING, JIB_STAT.BUSY] v.s t ∧ (∀ a, byteAt t a = byteAt s a) ∧
        t.bit (.jibStat (j / 4) (j % 4)) JIB_STAT.WAITING = true ∧ t.bit (.jibStat (j / 4) (j % 4)) JIB_STAT.BUSY = true) ∧
      (∀ n l, (s.chan (128 * (j / 4) + v.aux 5 0)).queue = n :: l → jw w 0 57 42 = 0xFFFF → jw w 0 24 24 = 0 →
        v.predBad = false → ∃ t,
        exec (.hrecv j w false) s = .next t ∧ JibEnds s t j w 0x70 .done 0 n.len ∧
        (t.chan (128 * (j / 4) + v.aux 5 0)).queue = l ∧
        (∀ i < 16, (if (jop w 2).kind = 2 then byteAt t (v.base (jop w 2) + i)
          else memGet (t.jib j).store (v.base (jop w 2) + i)) = n.bytes.getD i 0) ∧
        ∀ a, (jop w 2).kind = 1 ∨ a < v.base (jop w 2) ∨ v.base (jop w 2) + 16 ≤ a → byteAt t a = byteAt s a) ∧
      (∀ n l, (s.chan (128 * (j / 4) + v.aux 5 0)).queue = n :: l → v.predBad = true → ∃ t,
        exec (.hrecv j w false) s = .next t ∧ JibEnds s t j w 0x70 .poisoned 0 n.len))

/-- Which slot a sheave fires, and what a firing moves. The sheave picks the first ready slot after the one that fired
last. While its clock is stopped, a firing still issues, no slot is ready, or the picked slot is of another kind,
nothing changes. A COMPUTE firing latches and pops every bound input and begins its program, or ends at once when it
is empty. SWITCH writes the data entry to the output its token names, SELECT takes the data queue its token names,
MERGE takes the entry that entered first and reports its index; a poisoned token acts as 0 and poisons the entry. No
other queue, sheave, register or byte of memory changes. FIRE_COMPUTE, SWITCH, SELECT and MERGE each complete here.
[R103, R123, R127, R128, R130, R131] -/
def Obligations.SheaveFirings : Prop :=
  ∀ (m : Fin 8) (n : Fin 256) (s : State) (x : Sheave) (k : Nat) (r : Roles) (rows : List ((Fin 8 → Fin 256 → Instr) × Nat)),
    x = s.sheave m n → r = s.roles m n k → rows = [(.fireCompute, 0), (.switch, 1), (.select, 2), (.merge, 3)] →
    (∀ e ∈ rows, s.fabClocked m = false ∨ x.cur ≠ none ∨ (∀ i < 8, s.slotReady m n i = false) →
      exec (e.1 m n) s = .next s) ∧
    (s.slotPick m n = some k → k < 8 ∧ s.slotReady m n k = true ∧
      ∀ i < 8, s.slotReady m n ((x.last + 1 + i) % 8) = true → ∃ j ≤ i, k = (x.last + 1 + j) % 8) ∧
    (∀ e ∈ rows, s.slotPick m n = some k → s.hdr m n k SLOT.KIND ≠ e.2 → exec (e.1 m n) s = .next s) ∧
    (s.fabClocked m = true → x.cur = none → s.slotPick m n = some k →
      (s.hdr m n k SLOT.KIND = 0 → ∃ t, exec (.fireCompute m n) s = .next t ∧ OnlySheave [.fabStat m, .shvFlags m n] s t m n ∧
        SheaveKeeps x (t.sheave m n) ∧ SlotFired x (t.sheave m n) k ∧ (t.sheave m n).oq = x.oq ∧
        (∀ q ∈ s.inBound m n k, (t.sheave m n).inq q = (x.inq q).tail ∧
          ∀ e, (x.inq q).head? = some e → Tbl.get { v := 0 } (t.sheave m n).latch q = e) ∧
        (∀ q, q ∉ s.inBound m n k → (t.sheave m n).inq q = x.inq q) ∧
        (t.sheave m n).cur = if s.hdr m n k SLOT.LENGTH = 0 then none else some {
          slot := k, next := 0, bad := (s.inBound m n k).any (fun q => ((x.inq q).head?).elim false (·.p)) }) ∧
      (∀ e d q y h, (e, s.hdr m n k SLOT.KIND) ∈ [((.switch m n : Instr), 1), (.select m n, 2)] →
        r.t = some q → (x.inq q).head? = some y → d ∈ r.d →
        (s.hdr m n k SLOT.KIND = 1 → r.d.head? = some d) →
        (s.hdr m n k SLOT.KIND = 2 → r.d[tokenOf y]? = some d) → (x.inq d).head? = some h → ∃ (t : State) (o : Nat),
        exec e s = .next t ∧ OnlySheave [.fabStat m, .shvFlags m n] s t m n ∧ SheaveKeeps x (t.sheave m n) ∧
        SlotFired x (t.sheave m n) k ∧ (t.sheave m n).cur = none ∧
        (s.hdr m n k SLOT.KIND = 1 → r.o[tokenOf y]? = some o) ∧ (s.hdr m n k SLOT.KIND = 2 → r.o.head? = some o) ∧
        (t.sheave m n).inq q = (x.inq q).tail ∧ (t.sheave m n).inq d = (x.inq d).tail ∧
        (∀ j, j ≠ q → j ≠ d → (t.sheave m n).inq j = x.inq j) ∧
        (t.sheave m n).outq o = x.outq o ++ [{ h with p := h.p || y.p }] ∧
        ∀ j, j ≠ o → (t.sheave m n).outq j = x.outq j) ∧
      (∀ a b o l, s.hdr m n k SLOT.KIND = 3 → r.d = a :: b :: l → r.o.head? = some o →
        ∃ (t : State) (i d : Nat) (h : FabEntry), exec (.merge m n) s = .next t ∧
        OnlySheave [.fabStat m, .shvFlags m n] s t m n ∧ SheaveKeeps x (t.sheave m n) ∧ SlotFired x (t.sheave m n) k ∧
        (d = if i = 0 then a else b) ∧ i ≤ 1 ∧ (x.inq d).head? = some h ∧
        (∀ u v, (x.inq a).head? = some u → (x.inq b).head? = some v → (i = 1 ↔ v.at_ < u.at_)) ∧
        (t.sheave m n).inq d = (x.inq d).tail ∧ (∀ j, j ≠ d → (t.sheave m n).inq j = x.inq j) ∧
        (r.c = none → (t.sheave m n).outq o = x.outq o ++ [h]) ∧
        (∀ c, r.c = some c → c ≠ o → (t.sheave m n).outq o = x.outq o ++ [h] ∧
          (t.sheave m n).outq c = x.outq c ++ [{ v := i, p := h.p }]) ∧
        ∀ j, j ≠ o → r.c ≠ some j → (t.sheave m n).outq j = x.outq j))

/-- What one sheave instruction does. A sheave with no firing, with a stopped clock, or whose next instruction is another
one issues nothing. Otherwise the instruction issues: the firing goes on or, after its last one, ends with its flag
byte in SHV_FLAGS; no input queue, latch, other sheave or byte of memory changes. NOP does nothing else. Vector
operations write the active lanes of V, with the exact result rounded once; SEL every lane; compares the active bits
of P; RSUM, RMAX, LANE, TAG and INS and the scalar forms write their register; a result for an output queue is
appended to it. Poison of a source or of the predicate passes to the result; a compare of 32 active lanes without
poison leaves its predicate without. The rows of sheaveRows are SHV_NOP, SHV_MOV, SHV_ADD, SHV_SUB, SHV_MUL, SHV_FMA,
SHV_MAX, SHV_MIN, SHV_ABS, SHV_NEG, SHV_AND, SHV_OR, SHV_XOR, SHV_SHL, SHV_SHR, SHV_ASR, SHV_CMPEQ, SHV_CMPLT,
SHV_CMPLE, SHV_SEL, SHV_CVT, SHV_RSUM, SHV_RMAX, LANE, INS and TAG: each of these 26 completes here. [R103, R104,
R122, R123, R124, R126, R127, R129, R483] -/
def Obligations.SheaveInstructions : Prop :=
  ∀ (m : Fin 8) (n : Fin 256) (s : State) (x : Sheave),
    x = s.sheave m n →
    (∀ e ∈ sheaveRows, s.fabClocked m = false ∨ x.cur = none ∨
      (∃ c, x.cur = some c ∧ fld (s.shvWord m n c.slot c.next) 30 26 ≠ e.2) → exec (e.1 m n) s = .next s) ∧
    ∀ (c : Firing) (w ty dst rnd : Nat) (a b : ShvSrc) (act : Nat → Bool), x.cur = some c → c.slot < 8 →
      s.fabClocked m = true → w = s.shvWord m n c.slot c.next → ty = fld w 25 24 → dst = fld w 23 18 →
      rnd = s.hdr m n c.slot SLOT.RND → act = (fun i => bitN (x.pred (fld w 5 2)).1 i != bitN w 1) →
      a = x.src false c.slot ty (fld w 17 12) → b = x.src false c.slot ty (fld w 11 6) →
      (∀ e ∈ sheaveRows, fld w 30 26 = e.2 → ∃ (t : State) (y : Sheave), exec (e.1 m n) s = .next t ∧
        y = t.sheave m n ∧ SheaveIssued s t m n c ∧
        (rnd ≠ 2 → y.rs = x.rs % 2 ^ 48) ∧
        (e.2 = 0 → y.v = x.v ∧ y.sc = x.sc ∧ y.pr = x.pr ∧ y.oq = x.oq) ∧
        (bitN w 31 = false → dst < 0x20 → (1 ≤ e.2 ∧ e.2 ≤ 0x0F) ∨ e.2 = 0x13 → y.sc = x.sc ∧ y.pr = x.pr ∧ y.oq = x.oq ∧
          (∀ d, d ≠ dst → Tbl.get (0, false) y.v d = Tbl.get (0, false) x.v d) ∧
          (a.p = true ∨ (e.2 ∉ [1, 8, 9] ∧ b.p = true) ∨ (x.pred (fld w 5 2)).2 = true →
            (Tbl.get (0, false) y.v dst).2 = true) ∧
          ∀ i < tyLanes ty, ∀ old v, old = laneAt ty (Tbl.get (0, false) x.v dst).1 i →
            v = shvVal e.2 (laneDec ty (a.lane i)) (laneDec ty (b.lane i)) (laneDec ty old) →
            laneAt ty (Tbl.get (0, false) y.v dst).1 i =
              if e.2 = 0x13 then (let z := laneDec ty (if act i then a.lane i else b.lane i)
                (shvEnc ty 0 0 z.isNone z).1 % 2 ^ tyBits ty)
              else if act i = false then old
              else if e.2 ≤ 9 then (shvEnc ty rnd (drawRS (s.seedOf (uSheave (256 * m + n))) (uSheave (256 * m + n)) (x.rs + i))
                v.isNone v).1 % 2 ^ tyBits ty
              else shvBits e.2 (a.lane i) (b.lane i) % 2 ^ tyBits ty) ∧
        (bitN w 31 = false → e.2 ∈ [0x10, 0x11, 0x12] → dst % 16 ≠ 0 → y.v = x.v ∧ y.sc = x.sc ∧ y.oq = x.oq ∧
          (∀ d, d ≠ dst % 16 → y.pred d = x.pred d) ∧
          ∀ i < 32, bitN (y.pred (dst % 16)).1 i = if i < tyLanes ty ∧ act i = true
            then shvRel e.2 (laneDec ty (a.lane i)) (laneDec ty (b.lane i)) else bitN (x.pred (dst % 16)).1 i) ∧
        (bitN w 31 = false → e.2 ∈ [0x10, 0x11, 0x12] → dst % 16 ≠ 0 → ty = 1 → (∀ i < 32, act i = true) →
          (y.pred (dst % 16)).2 = ((x.pred (fld w 5 2)).2 || a.p || b.p)) ∧
        (bitN w 31 = false → dst < 0x20 → e.2 = 0x18 → y.sc = x.sc ∧ y.pr = x.pr ∧ y.oq = x.oq ∧
          ∀ i < tyLanes ty, laneAt ty (Tbl.get (0, false) y.v dst).1 i =
            if i = fld w 11 6 % 32 % tyLanes ty ∧ act i = true then (let z := laneDec ty ((x.src true c.slot ty (fld w 17 12)).lane 0); (shvEnc ty 0 0 z.isNone z).1 % 2 ^ tyBits ty)
            else laneAt ty (Tbl.get (0, false) x.v dst).1 i) ∧
        (bitN w 31 = false → dst < 0x20 → e.2 ∈ [0x15, 0x16, 0x17] → y.v = x.v ∧ y.pr = x.pr ∧ y.oq = x.oq ∧
          (∀ d, d ≠ dst → Tbl.get (0, false) y.sc d = Tbl.get (0, false) x.sc d) ∧
          (act 0 = false → y.sc = x.sc) ∧
          (act 0 = true → e.2 = 0x17 → (Tbl.get (0, false) y.sc dst).1 =
            (let z := laneDec ty (a.lane (fld w 11 6 % 32)); (shvEnc ty 0 0 z.isNone z).1)) ∧
          (act 0 = true → e.2 = 0x15 → ty = 2 → (Tbl.get (0, false) y.sc dst).1 =
            wrapI 32 (((List.range 16).map (fun i => sext 32 (a.lane i))).foldl (· + ·) 0))) ∧
        (bitN w 31 = true → dst < 0x20 → e.2 = 0x19 → act 0 = true → y.v = x.v ∧ y.pr = x.pr ∧ y.oq = x.oq ∧
          (Tbl.get (0, false) y.sc dst).1 = (Tbl.get { v := 0 } x.latch (fld w 17 12 - 0x20)).tag) ∧
        (bitN w 31 = false → dst = 0x30 ∨ dst = 0x31 → (1 ≤ e.2 ∧ e.2 ≤ 0x0F) ∨ e.2 = 0x13 ∨ e.2 = 0x14 →
          y.v = x.v ∧ y.sc = x.sc ∧ y.pr = x.pr ∧ (∀ q, q ≠ dst - 0x30 → y.outq q = x.outq q) ∧
          (act 0 = true ∨ e.2 = 0x13 → ∃ g, y.outq (dst - 0x30) = x.outq (dst - 0x30) ++ [g] ∧
            (c.bad = true ∨ a.p = true → g.p = true)))) ∧
      (fld w 30 26 = 0x00 → ∃ t, exec (.shvNop m n) s = .next t ∧ SheaveIssued s t m n c) ∧
      (fld w 30 26 = 0x01 → ∃ t, exec (.shvMov m n) s = .next t ∧ SheaveIssued s t m n c) ∧
      (fld w 30 26 = 0x02 → ∃ t, exec (.shvAdd m n) s = .next t ∧ SheaveIssued s t m n c) ∧
      (fld w 30 26 = 0x03 → ∃ t, exec (.shvSub m n) s = .next t ∧ SheaveIssued s t m n c) ∧
      (fld w 30 26 = 0x04 → ∃ t, exec (.shvMul m n) s = .next t ∧ SheaveIssued s t m n c) ∧
      (fld w 30 26 = 0x05 → ∃ t, exec (.shvFma m n) s = .next t ∧ SheaveIssued s t m n c) ∧
      (fld w 30 26 = 0x06 → ∃ t, exec (.shvMax m n) s = .next t ∧ SheaveIssued s t m n c) ∧
      (fld w 30 26 = 0x07 → ∃ t, exec (.shvMin m n) s = .next t ∧ SheaveIssued s t m n c) ∧
      (fld w 30 26 = 0x08 → ∃ t, exec (.shvAbs m n) s = .next t ∧ SheaveIssued s t m n c) ∧
      (fld w 30 26 = 0x09 → ∃ t, exec (.shvNeg m n) s = .next t ∧ SheaveIssued s t m n c) ∧
      (fld w 30 26 = 0x0A → ∃ t, exec (.shvAnd m n) s = .next t ∧ SheaveIssued s t m n c) ∧
      (fld w 30 26 = 0x0B → ∃ t, exec (.shvOr m n) s = .next t ∧ SheaveIssued s t m n c) ∧
      (fld w 30 26 = 0x0C → ∃ t, exec (.shvXor m n) s = .next t ∧ SheaveIssued s t m n c) ∧
      (fld w 30 26 = 0x0D → ∃ t, exec (.shvShl m n) s = .next t ∧ SheaveIssued s t m n c) ∧
      (fld w 30 26 = 0x0E → ∃ t, exec (.shvShr m n) s = .next t ∧ SheaveIssued s t m n c) ∧
      (fld w 30 26 = 0x0F → ∃ t, exec (.shvAsr m n) s = .next t ∧ SheaveIssued s t m n c) ∧
      (fld w 30 26 = 0x10 → ∃ t, exec (.shvCmpeq m n) s = .next t ∧ SheaveIssued s t m n c) ∧
      (fld w 30 26 = 0x11 → ∃ t, exec (.shvCmplt m n) s = .next t ∧ SheaveIssued s t m n c) ∧
      (fld w 30 26 = 0x12 → ∃ t, exec (.shvCmple m n) s = .next t ∧ SheaveIssued s t m n c) ∧
      (fld w 30 26 = 0x13 → ∃ t, exec (.shvSel m n) s = .next t ∧ SheaveIssued s t m n c) ∧
      (fld w 30 26 = 0x14 → ∃ t, exec (.shvCvt m n) s = .next t ∧ SheaveIssued s t m n c) ∧
      (fld w 30 26 = 0x15 → ∃ t, exec (.shvRsum m n) s = .next t ∧ SheaveIssued s t m n c) ∧
      (fld w 30 26 = 0x16 → ∃ t, exec (.shvRmax m n) s = .next t ∧ SheaveIssued s t m n c) ∧
      (fld w 30 26 = 0x17 → ∃ t, exec (.lane m n) s = .next t ∧ SheaveIssued s t m n c) ∧
      (fld w 30 26 = 0x18 → ∃ t, exec (.ins m n) s = .next t ∧ SheaveIssued s t m n c) ∧
      (fld w 30 26 = 0x19 → ∃ t, exec (.tag m n) s = .next t ∧ SheaveIssued s t m n c)

/-- Edge ports, spill, stop, drain and the stall watchdog. A port of another kind, a stopped source, a lane without room,
an empty source, an empty sink lane, a coil without a record or a place for this port beside those that wait with
lower IDs (log 90): nothing changes. SRC_COIL injects the next committed record of its coil, SRC_TICK the token of its
oldest edge, SRC_HALYARD the three entries of a notification as the lane has room. SNK_COIL writes the entry as the
coil's next record, SNK_CLEAT signals its cleat, SNK_STEP counts, and reports end-of-step once every such port has its
count. A record in tile slots that are held is claimed or reserved and no entry moves through it. Spill arrival moves
the flit, refill brings a record back. STOP_SRC and DRAIN set their bits; the drain ends after 256 quiet cycles with
RESIDUE as the fabric stands. The watchdog sets STALL, writes its snapshot and one event a tick. SRC_COIL, SRC_TICK,
SRC_HALYARD, SNK_COIL, SNK_CLEAT, SNK_STEP, SPILL_ARRIVAL, SPILL_REFILL, STOP_SRC, DRAIN, DRAIN_DONE and
STALL_WATCHDOG each complete here. [R114, R115, R116, R117, R132, R136, R137, R138, R186] -/
def Obligations.FabricPorts : Prop :=
  ∀ (m : Fin 8) (p : Fin 64) (s : State) (x : EdgePort) (key snk : LaneKey) (k net : Nat),
    x = s.eport m p → key = s.injectKey m p → k = s.edge m p FAB_EDGE.COIL → net = s.edge m p FAB_EDGE.NET →
    snk = { node := 256 + p.val, net := net, side := 0, lane := s.edge m p FAB_EDGE.LANE } →
    (s.srcRuns m = false ∨ s.injectRoom m p = false →
      exec (.srcCoil m p) s = .next s ∧ exec (.srcTick m p) s = .next s) ∧
    (∀ e ∈ [((.srcCoil m p : Instr), 0), (.srcTick m p, 1), (.srcHalyard m p, 2), (.snkCoil m p, 4), (.snkCleat m p, 5),
      (.snkStep m p, 6)], s.edgeIs m p e.2 = false → exec e.1 s = .next s) ∧
    (s.coilEmpty m k = true ∨ s.coilTurn m k (uEdge m p) true = false ∨ (s.edge m p FAB_EDGE.STEP_COUNT ≠ 0 ∧
      s.edge m p FAB_EDGE.STEP_COUNT ≤ x.inj) → exec (.srcCoil m p) s = .next s) ∧
    (s.edgeIs m p 0 = true → s.srcRuns m = true → s.injectRoom m p = true → s.coilTurn m k (uEdge m p) true = true →
      s.coilEmpty m k = false → s.claimBusy m k = true → s.edge m p FAB_EDGE.STEP_COUNT = 0 ∨ x.inj < s.edge m p FAB_EDGE.STEP_COUNT →
      exec (.srcCoil m p) s = .next (s.setCo m k COIL.CLAIM ((s.co m k COIL.CLAIM + 1) % 2 ^ 32))) ∧
    (s.edgeIs m p 0 = true → s.srcRuns m = true → s.injectRoom m p = true → s.coilTurn m k (uEdge m p) true = true →
      s.coilEmpty m k = false → s.claimBusy m k = false → s.edge m p FAB_EDGE.STEP_COUNT = 0 ∨ x.inj < s.edge m p FAB_EDGE.STEP_COUNT → ∃ t,
      exec (.srcCoil m p) s = .next t ∧ (t.eport m p).inj = x.inj + 1 ∧ (Calm s → ∀ a, byteAt t a = byteAt s a) ∧
      t.laneBuf m key = s.laneBuf m key ++ [s.fabEntry net (s.recAddr m k (s.co m k COIL.CLAIM))] ∧
      t.co m k COIL.CLAIM = (s.co m k COIL.CLAIM + 1) % 2 ^ 32) ∧
    (x.ticks = [] → exec (.srcTick m p) s = .next s) ∧
    (∀ g l, s.edgeIs m p 1 = true → s.srcRuns m = true → s.injectRoom m p = true → x.ticks = g :: l → ∃ t,
      exec (.srcTick m p) s = .next t ∧ OnlyFabric [] s t m ∧ t.eport m p = { x with ticks := l } ∧
      t.laneBuf m key = s.laneBuf m key ++ [{ v := 1, tag := g }] ∧
      ∀ y, y ≠ key → t.laneBuf m y = s.laneBuf m y) ∧
    (s.edgeIs m p 2 = true → s.srcRuns m = true → ∀ e j, e = 128 * m.val + s.edge m p FAB_EDGE.CHAN →
      (x.hal = [] → (s.chan e).queue = [] → exec (.srcHalyard m p) s = .next s) ∧
      (x.hal ≠ [] → j = min (2 - (s.laneBuf m key).length) x.hal.length → ∃ t, exec (.srcHalyard m p) s = .next t ∧
        OnlyFabric [] s t m ∧ t.laneBuf m key = s.laneBuf m key ++ x.hal.take j ∧ (t.eport m p).hal = x.hal.drop j) ∧
      (∀ n l, x.hal = [] → (s.chan e).queue = n :: l → j = min (2 - (s.laneBuf m key).length) 3 → ∃ t,
        exec (.srcHalyard m p) s = .next t ∧ (t.chan e).queue = l ∧ t.mem = s.mem ∧
        t.laneBuf m key = s.laneBuf m key ++ n.entries.take j ∧ (t.eport m p).hal = n.entries.drop j)) ∧
    (s.laneBuf m snk = [] → ∀ c ∈ [Instr.snkCoil m p, .snkCleat m p, .snkStep m p], exec c s = .next s) ∧
    (s.coilTurn m k (uEdge m p) false = false → exec (.snkCoil m p) s = .next s) ∧
    (∀ e l, s.edgeIs m p 4 = true → s.coilTurn m k (uEdge m p) false = true → s.coilFull m k = false →
      s.resvBusy m k = true → s.laneBuf m snk = e :: l → ∃ u,
      OnlyFabric [] s u m ∧ u.laneBuf m snk = l ∧ (u.fabric m).ports = (s.fabric m).ports ∧ exec (.snkCoil m p) s =
      .next (u.setCo m k COIL.RESV ((s.co m k COIL.RESV + 1) % 2 ^ 32))) ∧
    (∀ e l a, Calm s → s.edgeIs m p 4 = true → s.coilTurn m k (uEdge m p) false = true → s.coilFull m k = false →
      s.resvBusy m k = false → s.laneBuf m snk = e :: l →
      a = s.recAddr m k (s.co m k COIL.RESV) → ∃ t, exec (.snkCoil m p) s = .next t ∧ t.laneBuf m snk = l ∧
      (t.eport m p).recs = x.recs + 1 ∧
      (∀ i < (fabRec net e).length, byteAt t (a + i) = (fabRec net e).getD i 0) ∧
      ∀ b, b < a ∨ a + (fabRec net e).length ≤ b → byteAt t b = byteAt s b) ∧
    (∀ e l, s.edgeIs m p 5 = true → s.laneBuf m snk = e :: l → ∃ u, OnlyFabric [] s u m ∧ u.laneBuf m snk = l ∧
      (∀ y, y ≠ snk → u.laneBuf m y = s.laneBuf m y) ∧ exec (.snkCleat m p) s =
      .next (u.signal (uEdge m p) (s.edge m p FAB_EDGE.CLEAT) .done)) ∧
    (∀ e l, s.edgeIs m p 6 = true → s.laneBuf m snk = e :: l → ∃ u, OnlyFabric [] s u m ∧ u.laneBuf m snk = l ∧
      u.eport m p = { x with cnt := x.cnt + 1 } ∧ (∀ q, q ≠ p.val → u.eport m q = s.eport m q) ∧
      ((∃ q ∈ s.stepPorts m, (u.eport m q).cnt < s.edge m q FAB_EDGE.STEP_COUNT) → exec (.snkStep m p) s = .next u) ∧
      ((∀ q ∈ s.stepPorts m, s.edge m q FAB_EDGE.STEP_COUNT ≤ (u.eport m q).cnt) →
        s.bit (.fabStat m) FAB_STAT.STEP_DONE = false → ∃ t, exec (.snkStep m p) s = .next t ∧ t.mem = s.mem ∧
        t.bit (.fabStat m) FAB_STAT.STEP_DONE = true ∧ t.tick.reports = s.tick.reports ++ [(uSheave (256 * m), s.tbNs)] ∧
        ∀ q ∈ s.stepPorts m, (t.eport m q).cnt = (u.eport m q).cnt - s.edge m q FAB_EDGE.STEP_COUNT)) ∧
    (∀ (n q c : Nat), n = s.f (.fabSpill m p) FAB_SPILL.SHEAVE → q = s.f (.fabSpill m p) FAB_SPILL.QUEUE →
      c = s.f (.fabSpill m p) FAB_SPILL.COIL →
      (s.fabClocked m = false ∨ s.bit (.fabSpill m p) FAB_SPILL.VALID = false →
        exec (.spillArrival m p) s = .next s ∧ exec (.spillRefill m p) s = .next s) ∧
      (∀ r, r = (s.ready m).find? (fun y => y.node == n && y.queues.contains q &&
          y.links.all (fun l => s.linkPick m (s.ready m) l == some y)) →
        (r = none → exec (.spillArrival m p) s = .next s) ∧
        (∀ y, s.fabClocked m = true → s.bit (.fabSpill m p) FAB_SPILL.VALID = true → r = some y →
          exec (.spillArrival m p) s = .next ((s.newStamp m).flitMove m y))) ∧
      ((s.sheave m n).inFree q = false ∨ s.coilTurn m c (uSheave (256 * m + n)) true = false ∨ s.coilEmpty m c = true → exec (.spillRefill m p) s = .next s) ∧
      (s.fabClocked m = true → s.bit (.fabSpill m p) FAB_SPILL.VALID = true → (s.sheave m n).inFree q = true →
        s.coilTurn m c (uSheave (256 * m + n)) true = true → s.claimBusy m c = true → s.coilEmpty m c = false → exec (.spillRefill m p) s =
        .next (s.setCo m c COIL.CLAIM ((s.co m c COIL.CLAIM + 1) % 2 ^ 32))) ∧
      (s.fabClocked m = true → s.bit (.fabSpill m p) FAB_SPILL.VALID = true → (s.sheave m n).inFree q = true →
        s.coilTurn m c (uSheave (256 * m + n)) true = true → s.claimBusy m c = false → s.coilEmpty m c = false → ∃ t, exec (.spillRefill m p) s = .next t ∧
        (Calm s → ∀ a, byteAt t a = byteAt s a) ∧
        (t.sheave m n).inq q = (s.sheave m n).inq q ++
          [{ s.fabEntry (iqNet q) (s.recAddr m c (s.co m c COIL.CLAIM)) with at_ := (s.fabric m).stamp + 1 }] ∧
        (∀ j, j ≠ q → (t.sheave m n).inq j = (s.sheave m n).inq j) ∧
        t.co m c COIL.CLAIM = (s.co m c COIL.CLAIM + 1) % 2 ^ 32)) ∧
    (∃ t, exec (.stopSrc m) s = .next t ∧ OnlyRegs [.fabCtrl m, .fabStat m] s t ∧
      OnlyFields (.fabCtrl m) [FAB_CTRL.STOP_SRC] s t ∧ OnlyFields (.fabStat m) [FAB_STAT.SRC_STOPPED] s t ∧
      t.bit (.fabCtrl m) FAB_CTRL.STOP_SRC = true ∧ t.bit (.fabStat m) FAB_STAT.SRC_STOPPED = true) ∧
    (∃ t, exec (.drain m) s = .next t ∧ OnlyFabric [.fabCtrl m, .fabStat m] s t m ∧
      t.fabric m = { s.fabric m with quiet := 0 } ∧ t.bit (.fabCtrl m) FAB_CTRL.STOP_SRC = true ∧
      t.bit (.fabCtrl m) FAB_CTRL.DRAIN = true ∧ t.bit (.fabStat m) FAB_STAT.DRAIN_DONE = false ∧
      t.bit (.fabStat m) FAB_STAT.RESIDUE = false) ∧
    (s.bit (.fabCtrl m) FAB_CTRL.DRAIN = false ∨ (s.fabric m).quiet < 256 ∨ (s.fabric m).moved = true →
      exec (.drainDone m) s = .next s) ∧
    (s.bit (.fabCtrl m) FAB_CTRL.DRAIN = true → s.bit (.fabStat m) FAB_STAT.DRAIN_DONE = false → 256 ≤ (s.fabric m).quiet →
      (s.fabric m).moved = false → ∃ t, exec (.drainDone m) s = .next t ∧ OnlyRegs [.fabStat m] s t ∧
      OnlyFields (.fabStat m) [FAB_STAT.DRAIN_DONE, FAB_STAT.RESIDUE] s t ∧ t.bit (.fabStat m) FAB_STAT.DRAIN_DONE = true ∧
      t.bit (.fabStat m) FAB_STAT.RESIDUE = s.fabHolds m) ∧
    ((s.fabric m).snapped = true ∨ s.bit (.fabWd m) FAB_WD.DISABLE = true ∨
      (s.fabric m).stall < 2 ^ s.f (.fabWd m) FAB_WD.EXP → exec (.stallWatchdog m) s = .next s) ∧
    (∀ a, Calm s → (s.fabric m).snapped = false → s.bit (.fabWd m) FAB_WD.DISABLE = false →
      2 ^ s.f (.fabWd m) FAB_WD.EXP ≤ (s.fabric m).stall → a = actBase m + s.f (.fabSnap m) FAB_SNAP.OFFSET → ∃ t,
      exec (.stallWatchdog m) s = .next t ∧ t.bit (.fabStat m) FAB_STAT.STALL = true ∧
      t.fabric m = { s.fabric m with snapped := true } ∧ (t.flt.log.head?).map (·.code) = some 0x0022 ∧
      (s.access (.unit (uSheave (256 * m))) true a 4160 = .done →
        byteAt t (a + 4) = BitVec.ofNat 8 m.val ∧ byteAt t (a + 5) = BitVec.ofNat 8 Status.fabricStall.code) ∧
      ∀ b, b < a ∨ a + 4160 ≤ b → byteAt t b = byteAt s b)

/-- Coils, reads and writes at the on-chip memories, scrubbing. A coil that is not defined takes nothing. Reserving a coil
with room, where no requester waits before it, gives the address of record RESV and moves RESV on; otherwise the
requester waits in its place by unit ID, and those at the front are served while there is room for them. The same
holds of claiming a committed record. A commit in record order moves TAIL on and signals every EVERY records; out of
order it is kept; a record not in flight changes nothing, and one in tile slots that are held ends with BUSY and moves
no pointer; a release moves HEAD on. A read that breaks its mode's limits or its region's rules returns that status
and no data; a good one returns its bytes in order and the poison of each line, or stalls behind a tracked write; one
of HBM passes its slices; a register or a cleat is read and written by the units that may; another device's memory is
reached by a frame. A check-bit or mesh error is counted, or poisons what is returned. An untracked write is in memory
at once and reports; a tracked one holds a scoreboard entry, or waits for one, and reports when it is accepted. A read
of the same unit that waits and covers a byte of a write returns before it. A poisoned write of a register ends with
POISONED. The scrubber goes on to its next line and changes no data. COIL_RESERVE, COIL_COMMIT, COIL_CLAIM,
COIL_RELEASE, MEM_READ, STRIDED_READ, TRANSPOSED_READ, MEM_WRITE, SCOREBOARD_RELEASE and SCRUB_LINE each complete
here. [R39, R180, R181, R182, R183, R184, R186, R189, R190, R192, R197, R198] -/
def Obligations.CoilsAndMemory : Prop :=
  (∀ (m : Fin 8) (kk : Byte) (unit : BitVec 16) (n : BitVec 32) (s : State) (k : Nat), k = kk.toNat →
    (s.co m k COIL.VALID = 0 → exec (.coilReserve m kk unit) s = .next s ∧ exec (.coilClaim m kk unit) s = .next s ∧
      exec (.coilCommit m kk n) s = .next s ∧ exec (.coilRelease m kk n) s = .next s) ∧
    (s.co m k COIL.VALID ≠ 0 →
      (s.coilFull m k = false → (s.coilSt m k).resWait = [] → s.coilTurn m k unit.toNat false = true → ∃ t,
        exec (.coilReserve m kk unit) s = .next t ∧ t.mem = s.mem ∧
        t.co m k COIL.RESV = (s.co m k COIL.RESV + 1) % 2 ^ 32 ∧
        Tbl.get 0 t.chip.coilAddr unit.toNat = s.recAddr m k (s.co m k COIL.RESV) ∧
        (t.coilSt m k).resBy = (s.coilSt m k).resBy ++ [(s.co m k COIL.RESV, unit.toNat)] ∧
        (∀ r, r ≠ .coil m k COIL.RESV.w → t.rd r = s.rd r)) ∧
      (s.coilFull m k = true → ∃ t, exec (.coilReserve m kk unit) s = .next t ∧ { t with chip := s.chip } = s ∧
        t.coilSt m k = { s.coilSt m k with resWait := byRequester (s.coilSt m k).resWait unit.toNat } ∧
        t.chip.coilAddr = s.chip.coilAddr) ∧
      (∀ l, l = byRequester (s.coilSt m k).resWait unit.toNat →
        (s.coilSt m k).resWait ≠ [] ∨ s.coilTurn m k unit.toNat false = false → exec (.coilReserve m kk unit) s =
        .next ((s.setCoilSt m k { s.coilSt m k with resWait := l }).serveRes m k l)) ∧
      (∀ l, l = byRequester (s.coilSt m k).clmWait unit.toNat →
        (s.coilSt m k).clmWait ≠ [] ∨ s.coilTurn m k unit.toNat true = false → exec (.coilClaim m kk unit) s =
        .next ((s.setCoilSt m k { s.coilSt m k with clmWait := l }).serveClm m k l)) ∧
      (s.coilEmpty m k = false → (s.coilSt m k).clmWait = [] → s.coilTurn m k unit.toNat true = true → ∃ t,
        exec (.coilClaim m kk unit) s = .next t ∧ t.mem = s.mem ∧
        t.co m k COIL.CLAIM = (s.co m k COIL.CLAIM + 1) % 2 ^ 32 ∧
        Tbl.get 0 t.chip.coilAddr unit.toNat = s.recAddr m k (s.co m k COIL.CLAIM) ∧
        (∀ r, r ≠ .coil m k COIL.CLAIM.w → t.rd r = s.rd r)) ∧
      (s.coilEmpty m k = true → ∃ t, exec (.coilClaim m kk unit) s = .next t ∧ { t with chip := s.chip } = s ∧
        t.coilSt m k = { s.coilSt m k with clmWait := byRequester (s.coilSt m k).clmWait unit.toNat } ∧
        t.chip.coilAddr = s.chip.coilAddr) ∧
      (recDiff (s.co m k COIL.RESV) (s.co m k COIL.TAIL) ≤ recDiff n.toNat (s.co m k COIL.TAIL) ∨
        n.toNat ∈ (s.coilSt m k).written → exec (.coilCommit m kk n) s = .next s) ∧
      (recDiff (s.co m k COIL.CLAIM) (s.co m k COIL.HEAD) ≤ recDiff n.toNat (s.co m k COIL.HEAD) ∨
        n.toNat ∈ (s.coilSt m k).read → exec (.coilRelease m kk n) s = .next s) ∧
      (recDiff n.toNat (s.co m k COIL.TAIL) < recDiff (s.co m k COIL.RESV) (s.co m k COIL.TAIL) →
        n.toNat ∉ (s.coilSt m k).written →
        (s.coilBusy m k n.toNat = true → exec (.coilCommit m kk n) s = .next (s.coilDenied m k n.toNat false)) ∧
        (s.coilBusy m k n.toNat = false → exec (.coilCommit m kk n) s = .next (s.coilCommit m k n.toNat) ∧
          ((s.coilSt m k).clmWait = [] →
          (n.toNat = s.co m k COIL.TAIL → (s.coilSt m k).written = [] → s.unsettled s.dev (uCoil m) = false → ∃ t,
            exec (.coilCommit m kk n) s = .next t ∧ t.co m k COIL.TAIL = (n.toNat + 1) % 2 ^ 32 ∧ t.mem = s.mem ∧
            (t.coilSt m k).written = []) ∧
          (s.co m k COIL.TAIL ∉ (s.coilSt m k).written → n.toNat ≠ s.co m k COIL.TAIL →
            ∃ t, exec (.coilCommit m kk n) s = .next t ∧ { t with chip := s.chip } = s ∧
            ∀ j, j ∈ (t.coilSt m k).written ↔ j = n.toNat ∨ j ∈ (s.coilSt m k).written)))) ∧
      (recDiff n.toNat (s.co m k COIL.HEAD) < recDiff (s.co m k COIL.CLAIM) (s.co m k COIL.HEAD) →
        n.toNat ∉ (s.coilSt m k).read →
        (s.coilBusy m k n.toNat = true → exec (.coilRelease m kk n) s = .next (s.coilDenied m k n.toNat true)) ∧
        (s.coilBusy m k n.toNat = false → exec (.coilRelease m kk n) s = .next (s.coilRelease m k n.toNat) ∧
          (n.toNat = s.co m k COIL.HEAD → (s.coilSt m k).read = [] → (s.coilSt m k).resWait = [] → ∃ t,
          exec (.coilRelease m kk n) s = .next t ∧ t.co m k COIL.HEAD = (n.toNat + 1) % 2 ^ 32 ∧ t.mem = s.mem))))) ∧
  (∀ (rd : Bool) (m k n u : Nat) (s : State), (if rd then (s.coilSt m k).clmBy else (s.coilSt m k).resBy).find?
      (fun e => e.1 == n) = some (n, u) → { s.coilDenied m k n rd with chip := s.chip } = s ∧
    Tbl.get {} (s.coilDenied m k n rd).chip.results u = { st := .busy }) ∧
  (∀ (unit : BitVec 16) (glob : Option (BitVec 17)) (a : BitVec 47) (len : BitVec 13) (e : BitVec 7) (cnt : BitVec 9)
      (stride : BitVec 32) (s : State) (reg : Option Region), s.abroad glob = none → reg = s.fuses.region a.toNat 1 →
    ∀ y ∈ [((.memRead unit ⟨glob, a⟩ len ⟨[], []⟩ : Instr),
        ({ unit := unit.toNat, mode := 0, addr := a.toNat, e := len.toNat } : MemRead)),
        (.stridedRead unit a e cnt ⟨stride, [], []⟩,
          { unit := unit.toNat, mode := 1, addr := a.toNat, e := e.toNat, n := cnt.toNat, stride := stride.toInt }),
        (.transposedRead unit a ⟨stride, [], []⟩, { unit := unit.toNat, mode := 2, addr := a.toNat, e := 128, stride := stride.toInt })],
      (y.2.legal = false → ∃ t, exec y.1 s = .next t ∧ { t with chip := s.chip } = s ∧
        Tbl.get {} t.chip.results unit.toNat = { st := .badDescriptor }) ∧
      (y.2.legal = true → 0 ≤ y.2.hull.1 → y.2.mode = 0 → reg ≠ some .regs → ∀ st,
        s.access (.unit unit.toNat) false y.2.hull.1.toNat y.2.hull.2 = st → st ≠ .done → ∃ t, exec y.1 s = .next t ∧
        { t with chip := s.chip } = s ∧ Tbl.get {} t.chip.results unit.toNat = { st := st }) ∧
      (y.2.legal = true → 0 ≤ y.2.hull.1 → reg ≠ some .cleat → reg ≠ some .hbm →
        y.2.mode = 0 ∨ (∃ r, reg = some (.act r)) ∨ (∃ r, reg = some (.psum r)) →
        s.access (.unit unit.toNat) false y.2.hull.1.toNat y.2.hull.2 = .done →
        (s.stalls y.2 = true → ∃ t, exec y.1 s = .next t ∧ { t with chip := s.chip } = s ∧
          t.chip.stalled = s.chip.stalled ++ [y.2] ∧ t.chip.results = s.chip.results) ∧
        (s.stalls y.2 = false → y.2.mode ≠ 2 ∨ s.chip.transpose = [] → ∃ t, exec y.1 s = .next t ∧
          { t with chip := s.chip, regs := s.regs, free := s.free } = s ∧
          (∀ r, (∀ i, r ≠ .memMerged i) → t.rd r = s.rd r) ∧
          Tbl.get {} t.chip.results unit.toNat = {
            st := .done, data := s.readBytes y.2, poison := y.2.runs.any (fun r => s.poisonedAt r.1.toNat r.2)
            lines := y.2.lines.map (fun l => s.poisonedAt (64 * l) 64) }))) ∧
  (∀ (unit : BitVec 16) (glob : Option (BitVec 17)) (a : BitVec 47) (n : BitVec 13) (s : State) (q : MemRead),
    q = { unit := unit.toNat, mode := 0, addr := a.toNat, e := n.toNat } → q.legal = true →
    (∀ d, s.abroad glob = some d → exec (.memRead unit ⟨glob, a⟩ n ⟨[], []⟩) s = .next (s.remoteRead unit.toNat d a.toNat n.toNat)) ∧
    (s.abroad glob = none → s.fuses.region a.toNat n.toNat = some .regs → exec (.memRead unit ⟨glob, a⟩ n ⟨[], []⟩) s =
      .next (s.regRead unit.toNat a.toNat n.toNat)) ∧
    (s.abroad glob = none → s.fuses.region a.toNat n.toNat = some .cleat → unit.toNat / 4096 = 11 → ∃ t,
      exec (.memRead unit ⟨glob, a⟩ n ⟨[], []⟩) s = .next t ∧ { t with chip := s.chip } = s ∧
      Tbl.get {} t.chip.results unit.toNat = { data := (List.range n.toNat).map (fun i => s.cleatByte (a.toNat + i)) }) ∧
    (s.abroad glob = none → s.fuses.region a.toNat n.toNat = some .hbm →
      s.access (.unit unit.toNat) false a.toNat n.toNat = .done → ∃ t, exec (.memRead unit ⟨glob, a⟩ n ⟨[], []⟩) s = .next t ∧
      { t with chip := s.chip, regs := s.regs, hbm := s.hbm } = s ∧ (∀ r, ¬ ReadRegs r → t.rd r = s.rd r) ∧
      (Tbl.get {} t.chip.results unit.toNat).data = s.readBytes q ∧ (Tbl.get {} t.chip.results unit.toNat).st = .done) ∧
    (s.abroad glob = none → s.access (.unit unit.toNat) false a.toNat n.toNat = .done → s.stalls q = false →
      ∀ r k, s.fuses.region a.toNat n.toNat = some r → r.mast = some k →
      (∀ ecc : Fin 3, (a.toNat + n.toNat - 1) / 64 = a.toNat / 64 → ∃ t, exec (.memRead unit ⟨glob, a⟩ n ⟨[ecc], []⟩) s = .next t ∧
        t.mem = s.mem ∧ (Tbl.get {} t.chip.results unit.toNat).data = s.readBytes q ∧
        (ecc = 1 → t.flt.ceCount = s.flt.ceCount + 1) ∧
        (ecc = 2 → 64 * (a.toNat / 64) ∈ t.poison ∧ (Tbl.get {} t.chip.results unit.toNat).poison = true)) ∧
      (∀ x : MeshErr, ∃ t, exec (.memRead unit ⟨glob, a⟩ n ⟨[], [x]⟩) s = .next t ∧ t.mem = s.mem ∧
        (Tbl.get {} t.chip.results unit.toNat).data = s.readBytes q ∧
        (x.ue = false → t.flt.ceCount = s.flt.ceCount + 1) ∧
        (x.ue = true → (t.flt.log.head?).map (·.code) = some 0x0004 ∧
          (Tbl.get {} t.chip.results unit.toNat).poison = true)))) ∧
  (∀ (dev : BitVec 17) (unit : BitVec 16) (glob : Option (BitVec 17)) (a : BitVec 47) (d : List Byte) (p : Bool) (s : State)
      (q : Requester) (reg : Option Region) (bad : Bool), bad = (p || (dev.toNat == s.dev && s.marked unit.toNat)) → q = (if dev.toNat = s.dev then .unit unit.toNat else .remote) →
    reg = s.fuses.region a.toNat d.length →
    (d = [] ∨ 4096 < d.length → ∃ t, exec (.memWrite dev unit ⟨glob, a⟩ d ⟨p, []⟩) s = .next t ∧ { t with chip := s.chip } = s ∧
      Tbl.get {} t.chip.results unit.toNat = { st := .badDescriptor }) ∧
    (∀ e, d ≠ [] → d.length ≤ 4096 → dev.toNat = s.dev → s.abroad glob = some e → exec (.memWrite dev unit ⟨glob, a⟩ d ⟨p, []⟩) s =
      .next (s.remoteStore unit.toNat e a.toNat d (p || s.marked unit.toNat))) ∧
    (d ≠ [] → d.length ≤ 4096 → (dev.toNat = s.dev → s.abroad glob = none) →
      (reg = some .regs → dev.toNat = s.dev → exec (.memWrite dev unit ⟨glob, a⟩ d ⟨p, []⟩) s =
        .next (if bad then s.readFail unit.toNat .poisoned else s.regWrite unit.toNat a.toNat d)) ∧
      (∀ st, reg ≠ some .regs ∨ dev.toNat ≠ s.dev → s.access q true a.toNat d.length = st → st ≠ .done → ∃ t,
        exec (.memWrite dev unit ⟨glob, a⟩ d ⟨p, []⟩) s = .next t ∧
        { t with chip := s.chip } = s ∧ Tbl.get {} t.chip.results unit.toNat = { st := st }) ∧
      (∀ u, reg ≠ some .regs → dev.toNat = s.dev → s.access q true a.toNat d.length = .done → u = s.ownReads unit.toNat a.toNat d.length →
        exec (.memWrite dev unit ⟨glob, a⟩ d ⟨p, []⟩) s = exec (.memWrite dev unit ⟨glob, a⟩ d ⟨p, []⟩) u ∧
        u.ownReads unit.toNat a.toNat d.length = u ∧ (Calm s → ∀ b, byteAt u b = byteAt s b) ∧
        ((∀ y ∈ s.chip.stalled ++ s.chip.transWait, y.unit = unit.toNat →
          ∀ r ∈ y.runs, r.1.toNat + r.2 ≤ a.toNat ∨ a.toNat + d.length ≤ r.1.toNat) → u = s)) ∧
      (s.access q true a.toNat d.length = .done → (dev.toNat = s.dev → s.ownReads unit.toNat a.toNat d.length = s) →
        (reg = some .cleat → exec (.memWrite dev unit ⟨glob, a⟩ d ⟨p, []⟩) s =
          .next ((s.cleatPut a.toNat d bad).readFail unit.toNat .done) ∧
          (bad = false → s.cleatPut a.toNat d bad = s.cleatWrite a.toNat d)) ∧
        (reg ≠ some .cleat → reg.bind Region.mast = none ∨ trackedUnit (dev.toNat == s.dev) unit.toNat = false → Calm s →
          ∃ t, exec (.memWrite dev unit ⟨glob, a⟩ d ⟨p, []⟩) s = .next t ∧
          { t with chip := s.chip, mem := s.mem, poison := s.poison, regs := s.regs, hbm := s.hbm } = s ∧
          (∀ r, ¬ ReadRegs r → t.rd r = s.rd r) ∧ Tbl.get {} t.chip.results unit.toNat = {} ∧
          (∀ i < d.length, byteAt t (a.toNat + i) = d.getD i 0) ∧
          ∀ b, b < a.toNat ∨ a.toNat + d.length ≤ b → byteAt t b = byteAt s b) ∧
        (∀ m, reg.bind Region.mast = some m →
          trackedUnit (dev.toNat == s.dev) unit.toNat = true → ∃ (t : State) (w : TrackedWrite),
          exec (.memWrite dev unit ⟨glob, a⟩ d ⟨p, []⟩) s = .next t ∧ { t with chip := s.chip } = s ∧
          t.chip.writes = s.chip.writes ++ [w] ∧ w.mast = m ∧ w.addr = a.toNat ∧ w.data = d ∧ w.report = true ∧
          w.waiting = (decide (64 ≤ (s.sbUsed m).length) || s.chip.writes.any (fun x => x.waiting && x.unit == unit.toNat &&
            x.dev == dev.toNat && x.meets a.toNat d.length)))))) ∧
  (∀ (unit : BitVec 16) (s : State),
    ((∀ q ∈ s.chip.stalled, q.unit ≠ unit.toNat) → exec (.scoreboardRelease unit) s = .next s) ∧
    (∀ q, s.chip.stalled.find? (fun q => q.unit == unit.toNat) = some q →
      (s.stalls q = true → exec (.scoreboardRelease unit) s = .next s) ∧
      (s.stalls q = false → q.mode ≠ 2 ∨ s.chip.transpose = [] → ∃ t, exec (.scoreboardRelease unit) s = .next t ∧
        t.mem = s.mem ∧ t.chip.stalled = s.chip.stalled.erase q ∧ (Tbl.get {} t.chip.results unit.toNat).st = .done ∧
        (Tbl.get {} t.chip.results unit.toNat).data = s.readBytes q ∧
        (q.bad = true → (Tbl.get {} t.chip.results unit.toNat).poison = true)) ∧
      (s.stalls q = false → q.errs = [] → q.mode ≠ 2 ∨ s.chip.transpose = [] → ∃ t, exec (.scoreboardRelease unit) s = .next t ∧
        { t with chip := s.chip, regs := s.regs, free := s.free } = s ∧ (∀ r, (∀ i, r ≠ .memMerged i) → t.rd r = s.rd r) ∧
        t.chip.stalled = s.chip.stalled.erase q ∧ Tbl.get {} t.chip.results unit.toNat = {
          st := .done, data := s.readBytes q, poison := q.bad || q.runs.any (fun r => s.poisonedAt r.1.toNat r.2)
          lines := q.lines.map (fun l => q.bad || s.poisonedAt (64 * l) 64) }))) ∧
  ∀ (m : Fin 8) (ecc : Fin 3) (s : State) (i : Nat), i = Tbl.get 0 s.chip.scrub m.val →
    (s.bit (.memScrub m) MEM_SCRUB.ENABLE = false ∨ s.mastPower m = 2 → exec (.scrubLine m ecc) s = .next s) ∧
    (s.bit (.memScrub m) MEM_SCRUB.ENABLE = true → s.mastPower m ≠ 2 → ∃ t, exec (.scrubLine m ecc) s = .next t ∧
      t.mem = s.mem ∧ Tbl.get 0 t.chip.scrub m.val = (i + 1) % 5046272 ∧ (ecc = 0 → { t with chip := s.chip, regs := s.regs, free := s.free } = s ∧
        ∀ r, (∀ j, r ≠ .memMerged j) → t.rd r = s.rd r) ∧
      (∀ r a, ecc = 2 → a = 64 * (scrubAddr m i / 64) → s.fuses.region a 64 = some r → r.mast = some m.val →
        t.rd (.memUeAddr m) = BitVec.ofNat 64 (a + 2 ^ 63) ∧ a ∈ t.poison))

/-- Step lists, installation, waits, prefetch, delivery and completion of fairlead descriptors. The fairlead fetches the
entry of its step list only while its section runs, the batch before is installed and its step goes on; a good entry
gives its batch, a poisoned one is skipped, a malformed one stops the list, each with its FL_ERR bit. The first
fetched descriptor takes its free slot with the outcome of its checks. A wait of no cleat ends at once; a wait that is
over ends also while its section suspends. The next slot with demand or prefetch room has its turn: the prefetcher
pins the next line of its window where it brings it in; a line request serves demand before prefetch; a piece that
lies on chip is copied byte for byte to its destination. A descriptor with nothing left completes: its record, its
FL_ERR bit, its slot free, and end-of-step when it was the last of the ending batch. FL_STEP_ENTRY, FL_DESC_INSTALL,
FL_DESC_DELIVER, FL_PREFETCH, FL_LINE_REQUEST and FL_DESC_COMPLETE each complete here. [R201, R205, R206, R207, R208,
R209, R213, R216, R221, R222, R223, R484] -/
def Obligations.Fairleads : Prop :=
  ∀ (f : Fin 16) (k : Fin 64) (s : State) (x : Fairlead), x = s.fl f →
    (s.flRuns f = false ∨ x.stopped = true ∨ x.ending = true ∨ x.batch ≠ [] ∨ s.f (.flStep f) FL_STEP.LENGTH ≤ x.entry ∨
      (s.stepping (uFairlead f) = false ∧ x.entry ≠ 0) → exec (.flStepEntry f) s = .next s) ∧
    (∀ a e u, s.flRuns f = true → x.stopped = false → x.ending = false → x.batch = [] →
      x.entry < s.f (.flStep f) FL_STEP.LENGTH → s.stepping (uFairlead f) = true ∨ x.entry = 0 →
      a = actBase (s.flMast f) + s.f (.flStep f) FL_STEP.OFFSET + 16 * x.entry →
      u = s.readPass (uFairlead f) [(a, 16)] → e = u.bytes a 16 →
      (Calm s → e = s.bytes a 16 ∧ ∀ b, byteAt u b = byteAt s b) ∧
      (s.access (.unit (uFairlead f)) false a 16 ≠ .done → ∃ t, exec (.flStepEntry f) s = .next t ∧ t.mem = s.mem ∧
        t.fl f = { x with stopped := true } ∧ t.bit (.flErr f) FL_ERR.OOB = true) ∧
      (s.access (.unit (uFairlead f)) false a 16 = .done →
        (u.poisonedAt a 16 = true → ∃ t, exec (.flStepEntry f) s = .next t ∧ t.mem = u.mem ∧
          t.bit (.flErr f) FL_ERR.POISON = true ∧ (leAt e 9 1 % 2 = 0 → t.fl f = { x with entry := x.entry + 1 })) ∧
        (u.poisonedAt a 16 = false → leAt e 8 1 = 0 ∨ 64 < leAt e 8 1 ∨ 2 ≤ leAt e 9 1 ∨ 2 ^ 47 ≤ leAt e 0 8 ∨ leAt e 10 6 ≠ 0 →
          ∃ t, exec (.flStepEntry f) s = .next t ∧
          t.mem = u.mem ∧ t.fl f = { x with stopped := true } ∧ t.bit (.flErr f) FL_ERR.BAD_DESC = true) ∧
        (u.poisonedAt a 16 = false → 0 < leAt e 8 1 → leAt e 8 1 ≤ 64 → leAt e 9 1 < 2 → leAt e 10 6 = 0 → leAt e 0 8 < 2 ^ 47 →
          leAt e 0 8 % 64 ≠ 0 ∨ s.actRange (leAt e 0 8) (64 * leAt e 8 1) = false → ∃ t, exec (.flStepEntry f) s = .next t ∧
          t.mem = u.mem ∧ t.fl f = { x with stopped := true } ∧ t.bit (.flErr f) FL_ERR.OOB = true) ∧
        (∀ w, w = u.readPass (uFairlead f) [(leAt e 0 8, 64 * leAt e 8 1)] →
          u.poisonedAt a 16 = false → 0 < leAt e 8 1 → leAt e 8 1 ≤ 64 → leAt e 9 1 < 2 → leAt e 10 6 = 0 →
          leAt e 0 8 < 2 ^ 47 → leAt e 0 8 % 64 = 0 → s.actRange (leAt e 0 8) (64 * leAt e 8 1) = true → ∃ t,
          exec (.flStepEntry f) s = .next t ∧ { t with fair := s.fair } = w ∧ (∀ g, g ≠ f.val → t.fl g = s.fl g) ∧
          t.fl f = { x with entry := x.entry + 1, ending := leAt e 9 1 % 2 == 1, batch := (List.range (leAt e 8 1)).map (fun i =>
            (w.bytes (leAt e 0 8 + 64 * i) 64, w.poisonedAt (leAt e 0 8 + 64 * i) 64, 64 * x.entry + i)) }))) ∧
    (x.batch = [] ∨ x.stopped = true ∨ s.flRuns f = false ∨ s.stepping (uFairlead f) = false →
      exec (.flDescInstall f) s = .next s) ∧
    (∀ b p n l d u, x.batch = (b, p, n) :: l → d = { w := toWords b, fl := f, entry := n } →
      u = (if p then s else s.readPass (uFairlead f) (s.flListReads f d)) →
      (s.flSlot f (d.g 0 15 10) ≠ none → exec (.flDescInstall f) s = .next s) ∧
      (s.flRuns f = true → x.stopped = false → s.stepping (uFairlead f) = true →
        s.flSlot f (d.g 0 15 10) = none → ∃ t, exec (.flDescInstall f) s = .next t ∧ { t with fair := s.fair } = u ∧
        (t.fl f).batch = l ∧ (∀ g, g ≠ f.val → t.fl g = s.fl g) ∧ (∀ j, j ≠ d.g 0 15 10 → t.flSlot f j = s.flSlot f j) ∧
        ∃ y, t.flSlot f (d.g 0 15 10) = some y ∧ y.w = d.w ∧ (p = true → y.fail = some .poisoned) ∧
          (p = false → (s.fuses.a12 = true ∧ f.val % 4 = 3 → y.fail = some .unsupported) ∧
            (¬ (s.fuses.a12 = true ∧ f.val % 4 = 3) → (u.flBad d = true → y.fail = some .badDescriptor) ∧
              (u.flBad d = false → u.flDenied d = true → y.fail = some .denied) ∧
              (u.flBad d = false → u.flDenied d = false → d.srcKind = 0 → d.len = 0 ∨ d.rows = 0 → y.fail = some .done) ∧
              (u.flBad d = false → u.flDenied d = false → d.srcKind = 0 → d.len ≠ 0 → d.rows ≠ 0 →
                y.total = d.rows * d.len ∧ y.deliver = false ∧ y.pos = 0 ∧
                (y.fail = none → u.rangesCheck (uFairlead f) false [rowsHull d.src d.sStride d.rows d.rowHull] = .done)))))) ∧
    (s.flSlot f k = none → exec (.flDescDeliver f k) s = .next s ∧ exec (.flDescComplete f k) s = .next s) ∧
    (∀ d (run : Prop), s.flSlot f k = some d → (run ↔ s.flRuns f = true ∨ (s.flFinishes f = true ∧ s.flWaits f k d = false)) →
      (d.deliver = true ∨ d.fail ≠ none ∨ ¬ run → exec (.flDescDeliver f k) s = .next s) ∧
      (d.deliver = false → d.fail = none → run → d.g 0 63 48 = 0 ∨ d.g 0 47 32 = 0xFFFF → ∃ t, exec (.flDescDeliver f k) s = .next t ∧
        { t with fair := s.fair } = s ∧ t.flSlot f k = some { d with deliver := true } ∧
        ∀ j, j ≠ k.val → t.flSlot f j = s.flSlot f j) ∧
      (∀ g, d.deliver = false → d.fail = none → run → d.g 0 63 48 ≠ 0 → d.g 0 47 32 ≠ 0xFFFF →
        s.clt.grants.find? (fun g => g.key == .desc f k) = some g → ∃ t, exec (.flDescDeliver f k) s = .next t ∧
        t.clt.grants = s.clt.grants.erase g ∧ { t with fair := s.fair, clt := s.clt } = s ∧
        t.flSlot f k = some (if g.st = .done then { d with deliver := true } else { d with fail := some g.st })) ∧
      (∀ l, s.flNext f = some k.val → s.flDemand f k = false → l = s.hbmLine (d.srcAt (s.ahead d)) → ∃ t,
        exec (.flPrefetch f k) s = .next t ∧ t.mem = s.mem ∧
        (∀ r, r ≠ .scHits l.1 → r ≠ .scMisses l.1 → t.rd r = s.rd r) ∧ (t.fl f).last = k.val ∧
        t.flSlot f k = some { d with pre := s.ahead d + s.lineLen d (s.ahead d) } ∧
        (∀ j, j ≠ k.val → t.flSlot f j = s.flSlot f j) ∧
        (d.pol ≠ 2 → ∃ w, (t.slice l.1).find l.2 = some w ∧ ((s.slice l.1).find l.2 = none → w.pin = some (f.val, k.val)))) ∧
      (d.fail = none → d.deliver = false ∨ d.settled ≠ d.total → exec (.flDescComplete f k) s = .next s) ∧
      (∀ a, Calm s → d.isOver = true → a = actBase (s.f (.flRec f) FL_REC.MAST) + s.f (.flRec f) FL_REC.OFFSET + 16 * k →
        49152 ≤ d.g 0 31 16 → ∃ t, exec (.flDescComplete f k) s = .next t ∧ t.flSlot f k = none ∧
        (∀ j, j ≠ k.val → t.flSlot f j = s.flSlot f j) ∧ (∀ F, flErrField d.status = some F → t.bit (.flErr f) F = true) ∧
        (d.g 0 9 9 = 1 → s.access (.unit (uFairlead f)) true a 16 = .done →
          byteAt t a = BitVec.ofNat 8 (s.recStatus (uFairlead f) d.status).code ∧ byteAt t (a + 1) = BitVec.ofNat 8 k.val) ∧
        (∀ b, b < a ∨ a + 16 ≤ b → byteAt t b = byteAt s b) ∧
        (x.ending = true → x.batch = [] → (∀ e ∈ x.slots, e.1 = k.val) → s.stepping (uFairlead f) = true →
          t.bit (.flStat f) FL_STAT.STEP_DONE = true ∧ (uFairlead f, s.tbNs) ∈ t.tick.reports ∧ (t.fl f).entry = 0))) ∧
    (s.flNext f ≠ some k.val ∨ s.flDemand f k = true → exec (.flPrefetch f k) s = .next s) ∧
    ((∀ j < 64, s.flDemand f j = false ∧ s.flRoom f j = false) → exec (.flLineRequest f) s = .next s) ∧
    (∀ j, s.flNext f = some j → exec (.flLineRequest f) s = .next (s.flTurn f j)) ∧
    (∀ (j n a : Nat) (d : FlDesc), s.flNext f = some j → s.flDemand f j = true → Calm s →
      s.flSlot f j = some d → d.srcKind = 0 → d.mode = 0 → d.dstKind = 0 → s.fuses.hbmSize ≤ d.srcAt d.pos →
      s.fuses.hbmSize ≤ a → n = s.pieceLen d d.pos → a = d.dstAt d.pos → d.waits = [] → d.g 1 37 22 = 0 →
      s.access (.unit (uFairlead f)) false (d.srcAt d.pos) n = .done → s.access (.unit (uFairlead f)) true a n = .done → ∃ t,
      exec (.flLineRequest f) s = .next t ∧ (∀ r, ¬ ReadRegs r → t.rd r = s.rd r) ∧ (t.fl f).last = j ∧
      (∃ y, t.flSlot f j = some y ∧ y.pos = d.pos + n ∧ y.settled = d.settled + n ∧ y.acc = d.acc + n ∧ y.waits = []) ∧
      (∀ i < n, byteAt t (a + i) = s.byte (d.srcAt (d.pos + i))) ∧ ∀ b, b < a ∨ a + n ≤ b → byteAt t b = byteAt s b)

/-- Slices and HBM controllers: lookups, fills, maintenance, requests, refresh, scrubbing. A line request at a stack that
is not fitted, past its last line or of a line whose key region has no key changes nothing; a hit counts, keeps its
line and marks it dirty for a write; a miss under BYPASS only queues its request, else takes a way, queues its fill
and writes a dirty victim back. A returned line fills its way and wakes who waits. CLEAN writes back the dirty lines
in range and keeps them, CLEAN_INV drops them, BUSY until they have left. The controller takes a request of the miss
queue unless an earlier one names its line or its bank is blocked, activates its row, and counts errors as their kind
says: an uncorrectable one sets the poison bit of its sector. A request to a row that is not open counts as an
activation of its bank; at the threshold of the stack the bank has its refresh management and the count begins again
(log 89). Refresh blocks its bank and sets REFRATE by the last reading. The patrol scrub goes on to its next sector.
None of these changes a byte of memory. A new mapping, or a key region, is in force once every slice has performed its
CLEAN_INV; a byte on chip keeps its value, and so does a byte whose key slot stays the same under a key region.
SC_LINE_REQUEST, SC_FILL, CLEAN, CLEAN_INV, HBM_REQUEST, HBM_CE_REWRITE, HBM_REFRESH, HBM_PATROL_SCRUB, HBM_MAP_APPLY
and HBM_KR_APPLY each complete here. [R212, R213, R214, R215, R225, R382, R384, R386, R387, R380, R389] -/
def Obligations.HbmAndStreamCache : Prop :=
  ∀ (h : Fin 16) (line : BitVec 29) (kind pol : Fin 3) (u : Fin 4) (ecc : Fin 3) (s : State) (x : Slice),
    x = s.slice h →
    (s.fuses.stacks.contains h.val = false ∨ s.hbmStatus ≠ .done ∨ 96 * 4194304 ≤ line.toNat ∨
      s.krDenied (s.lineAddr h line.toNat) 256 = true →
      exec (.scLineRequest h line kind pol u ecc) s = .next s) ∧
    (s.fuses.stacks.contains h.val = true → s.hbmStatus = .done → line.toNat < 96 * 4194304 →
      s.krDenied (s.lineAddr h line.toNat) 256 = false →
      (∀ w, x.find line.toNat = some w → ecc = 0 → ∃ t v, exec (.scLineRequest h line kind pol u ecc) s = .next t ∧
        { t with hbm := s.hbm, regs := s.regs } = s ∧ (∀ r, r ≠ .scHits h → t.rd r = s.rd r) ∧
        (t.slice h).find line.toNat = some v ∧ v.dirty = (w.dirty || kind != 0) ∧ v.pin = w.pin ∧ v.way = w.way ∧
        (t.slice h).miss = x.miss ∧ (∀ g, g ≠ h.val → t.slice g = s.slice g)) ∧
      (x.find line.toNat = none → pol = 2 → ∃ t, exec (.scLineRequest h line kind pol u ecc) s = .next t ∧
        { t with hbm := s.hbm, regs := s.regs } = s ∧ (∀ r, r ≠ .scMisses h → t.rd r = s.rd r) ∧
        t.slice h = { x with miss := x.miss ++ [{ kind := if kind = 0 then .bypassRead else .bypassWrite
                                                  line := line.toNat
                                                  slot := slotOf s.hbm.kr (s.lineAddr h line.toNat) }] }) ∧
      (x.find line.toNat = none → pol ≠ 2 → ∃ t v, exec (.scLineRequest h line kind pol u ecc) s = .next t ∧
        { t with hbm := s.hbm, regs := s.regs } = s ∧ (∀ r, r ≠ .scMisses h → t.rd r = s.rd r) ∧
        (t.slice h).find line.toNat = some v ∧ v.dirty = (kind != 0) ∧ v.filled = (kind == 2) ∧ v.pin = none ∧
        (kind ≠ 2 → (t.slice h).miss.getLast? = some
          { kind := .fill, line := line.toNat, slot := slotOf s.hbm.kr (s.lineAddr h line.toNat) }) ∧
        (∀ o ∈ (x.set (setOf line.toNat)).ways, o.way = v.way → o.dirty = true →
          (∀ o' ∈ (x.set (setOf line.toNat)).ways, o'.way = o.way → o' = o) →
          { kind := .writeBack, line := o.line, slot := o.slot } ∈ (t.slice h).miss))) ∧
    (x.fills = [] → exec (.scFill h) s = .next s) ∧
    (∀ r l, x.fills = r :: l → ∃ t : State, exec (.scFill h) s = .next (t.lineArrived h r.line) ∧
      ((∀ f < 16, (s.fl f).slots = []) → t.lineArrived h r.line = t) ∧ { t with hbm := s.hbm, poison := s.poison } = s ∧
      (r.kind ≠ .fill ∨ (∀ e ∈ s.hbm.sick, e.1 ≠ h.val ∨ e.2 / 8 ≠ r.line) → t.poison = s.poison) ∧
      (r.kind = .fill → ∀ e ∈ s.hbm.sick, e.1 = h.val → e.2 / 8 = r.line →
        s.fuses.hbmAddr s.hbm.map h (e.2 * 32) / 64 * 64 ∈ t.poison) ∧ (t.slice h).fills = l ∧ (t.slice h).miss = x.miss ∧
      ∀ w, r.kind = .fill → (t.slice h).find r.line = some w → w.filled = true) ∧
    (∀ all p, s.bit (.scOp h) SC_OP.BUSY = true → exec (.clean h all) s = .next s ∧ exec (.cleanInv h p) s = .next s) ∧
    (∀ (all : Bool) (c : Nat → Bool), s.bit (.scOp h) SC_OP.BUSY = false → (c = fun n => all || (decide
        (s.f (.scRange h) SC_RANGE.BASE ≤ s.lineAddr h n) && decide
        (s.lineAddr h n < s.f (.scRange h) SC_RANGE.BASE + s.f (.scLen h) SC_LEN.LEN))) →
      ∀ e ∈ [((.clean h all : Instr), false), (.cleanInv h all, true)], ∃ t, exec e.1 s = .next t ∧
      { t with hbm := s.hbm, regs := s.regs } = s ∧ (∀ r, r ≠ .scOp h → t.rd r = s.rd r) ∧
      (∀ g, g ≠ h.val → t.slice g = s.slice g) ∧ (t.slice h).fills = x.fills ∧
      (∀ i, ∀ w ∈ (x.set i).ways, c w.line = false → w ∈ ((t.slice h).set i).ways) ∧
      (∀ y ∈ (t.slice h).sets, ∀ w ∈ y.2.ways, c w.line = true → e.2 = false ∧ w.dirty = false) ∧
      (∀ y ∈ x.sets, ∀ w ∈ y.2.ways, w.dirty = true → c w.line = true →
        { kind := .writeBack, line := w.line, tag := 1, slot := w.slot } ∈ (t.slice h).miss ∧ t.bit (.scOp h) SC_OP.BUSY = true)) ∧
    (∀ (i : Fin 256) (sec : Fin 8) (ondie : Bool),
      (x.miss[i.val]? = none → exec (.hbmRequest h i sec ecc ondie) s = .next s) ∧
      ∀ r, x.miss[i.val]? = some r →
      ((∃ q ∈ x.miss.take i.val, q.line = r.line) ∨ s.bankFree h r.line = false ∨ s.hbmStatus ≠ .done →
        exec (.hbmRequest h i sec ecc ondie) s = .next s) ∧
      ((∀ q ∈ x.miss.take i.val, q.line ≠ r.line) → s.bankFree h r.line = true → s.hbmStatus = .done → ∃ t,
        exec (.hbmRequest h i sec ecc ondie) s = .next t ∧ t.mem = s.mem ∧ (t.slice h).miss = x.miss.eraseIdx i.val ∧
        (t.slice h).sets = x.sets ∧
        (t.slice h).fills = (if r.kind = .fill ∨ r.kind = .bypassRead then x.fills ++ [r] else x.fills) ∧
        t.poison = s.poison ∧
        (∀ b row n, b = (h.val, bankOfLine r.line) → row = (placeOfLine r.line).row → n = Tbl.get 0 s.hbm.acts b + 1 →
          ((b, row) ∈ s.hbm.rows → t.hbm.acts = s.hbm.acts ∧ t.hbm.rows = s.hbm.rows ∧ t.hbm.blocked = s.hbm.blocked) ∧
          ((b, row) ∉ s.hbm.rows → n < Config.rfmThreshold h → t.hbm.acts = Tbl.set s.hbm.acts b n ∧
            t.hbm.rows = Tbl.set s.hbm.rows b row ∧ t.hbm.blocked = s.hbm.blocked) ∧
          ((b, row) ∉ s.hbm.rows → Config.rfmThreshold h ≤ n → (∀ e ∈ t.hbm.acts, e.1 ≠ b) ∧ (∀ e ∈ t.hbm.rows, e.1 ≠ b) ∧
            ∃ d ≤ 160, (b, s.now + d) ∈ t.hbm.blocked)) ∧
        (ecc = 0 ∨ (r.kind ≠ .fill ∧ r.kind ≠ .bypassRead ∧ r.part = false) → t.hbm.sick = s.hbm.sick ∧
          t.flt.ceCount = s.flt.ceCount + (if ondie then 1 else 0)) ∧
        (ecc = 1 → r.kind = .fill ∨ r.kind = .bypassRead ∨ r.part = true → t.hbm.sick = s.hbm.sick ∧
          t.flt.ceCount = s.flt.ceCount + (if ondie then 2 else 1) ∧
          t.hbm.rewrite = s.hbm.rewrite ++ [(h.val, 8 * r.line + sec.val)]) ∧
        (ecc = 2 → r.kind = .fill ∨ r.kind = .bypassRead ∨ r.part = true → t.bit (.hbmErr h) HBM_ERR.UE = true ∧
          t.rd (.hbmUeAddr h) = BitVec.ofNat 64 ((8 * r.line + sec.val) * 32 + 2 ^ 63) ∧
          (h.val, 8 * r.line + sec.val) ∈ t.hbm.sick))) ∧
    (∃ t, exec (.hbmCeRewrite h) s = .next t ∧ { t with hbm := s.hbm, free := s.free } = s ∧ t.hbm.slices = s.hbm.slices ∧
      ∀ l1 y l2, s.hbm.rewrite = l1 ++ (h.val, y) :: l2 → (∀ e ∈ l1, e.1 ≠ h.val) → t.hbm.rewrite = l1 ++ l2) ∧
    (∀ (bank : Fin 2048) (ns : Fin 161),
      (s.bit (.hbmStat h) HBM_STAT.FITTED = false ∨ s.bit (.hbmStat h) HBM_STAT.SELFREF = true →
        exec (.hbmRefresh h bank ns) s = .next s) ∧
      (s.bit (.hbmStat h) HBM_STAT.FITTED = true → s.bit (.hbmStat h) HBM_STAT.SELFREF = false → ∃ t,
        exec (.hbmRefresh h bank ns) s = .next t ∧ { t with hbm := s.hbm, regs := s.regs } = s ∧
        (∀ r, r ≠ .hbmStat h → t.rd r = s.rd r) ∧ OnlyFields (.hbmStat h) [HBM_STAT.REFRATE] s t ∧
        ((h.val, bank.val), s.now + ns.val) ∈ t.hbm.blocked ∧ (∀ e ∈ t.hbm.acts, e.1 ≠ (h.val, bank.val)) ∧
        (∀ e ∈ t.hbm.rows, e.1 ≠ (h.val, bank.val)) ∧
        (∀ e ∈ s.hbm.blocked, s.now < e.2 → e.1 ≠ (h.val, bank.val) → e ∈ t.hbm.blocked) ∧
        (s.f (.hbmTemp h) HBM_TEMP.TEMP < 85 → t.f (.hbmStat h) HBM_STAT.REFRATE = 0) ∧
        (85 ≤ s.f (.hbmTemp h) HBM_TEMP.TEMP → s.f (.hbmTemp h) HBM_TEMP.TEMP < 95 →
          t.f (.hbmStat h) HBM_STAT.REFRATE = 1) ∧
        (95 ≤ s.f (.hbmTemp h) HBM_TEMP.TEMP → t.f (.hbmStat h) HBM_STAT.REFRATE = 2))) ∧
    (s.bit (.hbmScrub h) HBM_SCRUB.ENABLE = false ∨ s.bit (.hbmStat h) HBM_STAT.TRAINED = false ∨
      s.hbmStatus ≠ .done → exec (.hbmPatrolScrub h ecc) s = .next s) ∧
    (s.bit (.hbmScrub h) HBM_SCRUB.ENABLE = true → s.bit (.hbmStat h) HBM_STAT.TRAINED = true →
      s.hbmStatus = .done → ∃ t, exec (.hbmPatrolScrub h ecc) s = .next t ∧ t.mem = s.mem ∧
      Tbl.get 0 t.hbm.patrol h.val = (Tbl.get 0 s.hbm.patrol h.val + 1) % (96 * 2 ^ 25) ∧
      (ecc = 0 → { t with hbm := s.hbm, free := s.free } = s ∧ t.hbm.slices = s.hbm.slices) ∧
      (ecc = 1 → t.flt.ceCount = s.flt.ceCount + 1 ∧
        t.hbm.rewrite = s.hbm.rewrite ++ [(h.val, Tbl.get 0 s.hbm.patrol h.val)]) ∧
      (ecc = 2 → t.bit (.hbmErr h) HBM_ERR.UE = true ∧ (h.val, Tbl.get 0 s.hbm.patrol h.val) ∈ t.hbm.sick)) ∧
    (s.bit .hbmMap HBM_MAP.MAP_BUSY = false → exec .hbmMapApply s = .next s) ∧
    (∀ c, s.bit .hbmMap HBM_MAP.MAP_BUSY = true → c = s.scCleanAll 2 (fun _ => true) → c.scOwes 2 = true →
      exec .hbmMapApply s = .next c ∧ { c with hbm := s.hbm } = s ∧ c.hbm.map = s.hbm.map ∧
      ∀ g ∈ s.fuses.stacks, ∀ y ∈ (c.slice g).sets, y.2.ways = []) ∧
    (s.bit .hbmMap HBM_MAP.MAP_BUSY = true → (s.scCleanAll 2 (fun _ => true)).scOwes 2 = false → ∃ t, exec .hbmMapApply s = .next t ∧
      t.hbm.map = (s.f .hbmMap HBM_MAP.GRAN, s.f .hbmMap HBM_MAP.SPLITG) ∧ t.bit .hbmMap HBM_MAP.MAP_BUSY = false ∧
      (∀ r, r ≠ .hbmMap → t.rd r = s.rd r) ∧ OnlyFields .hbmMap [HBM_MAP.MAP_BUSY] s t ∧ t.hbm.kr = s.hbm.kr ∧
      ((∀ c ∈ s.mem, s.fuses.hbmSize ≤ c.1) → t.mem = s.mem) ∧
      (Canonical s → (∀ c ∈ s.mem, ∀ p, p = s.fuses.hbmPlace s.hbm.map c.1 → c.1 < s.fuses.hbmSize →
        s.fuses.hbmAddr t.hbm.map p.1 p.2 < s.fuses.hbmSize) → ∀ a, s.fuses.hbmSize ≤ a → byteAt t a = byteAt s a)) ∧
    ∀ (k : Fin 64),
      (s.bit (.hbmKr k 0) HBM_KR.BUSY = false → exec (.hbmKrApply k) s = .next s) ∧
      (∀ c, s.bit (.hbmKr k 0) HBM_KR.BUSY = true → c = s.scCleanAll (2 + k.val) (s.krRange k) →
        c.scOwes (2 + k.val) = true → exec (.hbmKrApply k) s = .next c ∧ { c with hbm := s.hbm } = s ∧ c.hbm.kr = s.hbm.kr) ∧
      (s.bit (.hbmKr k 0) HBM_KR.BUSY = true → (s.scCleanAll (2 + k.val) (s.krRange k)).scOwes (2 + k.val) = false → ∃ t, exec (.hbmKrApply k) s = .next t ∧
        t.bit (.hbmKr k 0) HBM_KR.BUSY = false ∧ (∀ r, r ≠ .hbmKr k 0 → t.rd r = s.rd r) ∧ t.hbm.map = s.hbm.map ∧
        t.hbm.kr = s.hbm.kr.filter (fun r => r.1 != k.val) ++ (if s.bit (.hbmKr k 0) HBM_KR.VALID then
          [(k.val, s.f (.hbmKr k 0) HBM_KR.BASE, s.f (.hbmKr k 1) HBM_KR.LENGTH)] else []) ∧
        ∀ a b, b = 32 * (a / 32) → s.fuses.hbmSize ≤ a ∨ (slotOf s.hbm.kr b = slotOf t.hbm.kr b ∧ (s.hbm.base.isSome = true ∨
          s.sec.hbm = [] ∨ (s.hbm.seals = [] ∧ s.fuses.hbmAddr s.hbm.map (s.fuses.hbmPlace s.hbm.map b).1
            (s.fuses.hbmPlace s.hbm.map b).2 = b))) → byteAt t a = byteAt s a)

/-- TK_NOP, COPY, GATHER, SCATTER, BGATHER and BSCATTER. A tackle that may not issue (its mast does not run, no step is
open, its program is over, four descriptors are in flight), whose next words are others, or whose row is another
one's, issues nothing. With none in flight and no cleat to wait for: poisoned words, and a descriptor that fails a
check or is empty, end it with that status, and only its record is written; so does NOP, with DONE. A descriptor that
passes, to an address, performs the padding pass and then the data pass over its runs, and completes with DONE, or
with POISONED if it met poison; to a coil, its records in order, held where the coil is full. A plain COPY leaves the
bytes of its source at its destination and no other byte changes. An index outside the window makes a GATHER row
padding and drops a SCATTER row. TK_NOP, COPY, GATHER, SCATTER, BGATHER and BSCATTER each complete here. [R226, R228,
R229, R232, R235, R236, R237, R239, R240, R241, R244] -/
def Obligations.TackleDescriptors : Prop :=
  ∀ (m : Fin 8) (w : List Word) (s x v : State) (n o : Nat) (rows : List ((Fin 8 → List Word → Bool → Instr) × Nat)),
    rows = [(.tkNop, 0), (.copy, 1), (.gather, 2), (.scatter, 3), (.bgather, 4), (.bscatter, 5)] →
    o = wf w 0 3 0 → x = (s.tkTake m).setF (.tkStat m) TK_STAT.WAITING 0 →
    v = (if x.tkCounts o w then x.readPass (uTackle m) [(wf w 7 63 17, 4)] else x) →
    n = (if wb w 0 24 then v.num (wf w 7 63 17) 4 else wf w 7 16 0) →
    (∀ e ∈ rows, ∀ p, s.tkMay m = false ∨ s.tkFetch m ≠ (w, p) ∨ (o ≤ 5 ∧ o ≠ e.2) → exec (e.1 m w p) s = .next s) ∧
    (∀ e ∈ rows, TackleIssues s m w true e.2 → ∃ t, exec (e.1 m w true) s = .next t ∧
      TackleEnds s t m w o .poisoned 0 ∧ TackleStored s s t m w) ∧
    (∀ e ∈ rows, TackleIssues s m w false e.2 →
      (∀ st em, v.tkCheck m o n w = (st, em) → st ≠ .done ∨ em = true → ∃ t, exec (e.1 m w false) s = .next t ∧
        TackleEnds s t m w o st 0 ∧ TackleStored s s t m w) ∧
      (∀ y k, v.tkCheck m o n w = (.done, false) → (y, k) = x.tkEnter m o w false .done →
        (∀ b : TkAcc, tkCoil w = false → b = y.tkPasses m k →
          (∃ t, exec (e.1 m w false) s = .next t ∧ TackleEnds s t m w o (if b.bad then .poisoned else .done) b.flags ∧
            TackleStored s b.s t m w ∧ (tkRnd w ≠ 2 → t.rd (.tkRsctr m) = s.rd (.tkRsctr m))) ∧
          (b.bad = false → ∃ t, exec (e.1 m w false) s = .next t ∧ TackleEnds s t m w o .done b.flags)) ∧
        (∀ b : TkAcc, tkCoil w = true → (y.tkAcc k).coilRuns m o w 0 (tkRuns o n w) = (b, none) →
          exec (e.1 m w false) s = .next (State.tkEnd m k b)) ∧
        (∀ b j, tkCoil w = true → (y.tkAcc k).coilRuns m o w 0 (tkRuns o n w) = (b, some j) → ∃ t,
          exec (e.1 m w false) s = .next t ∧ t.bit (.tkStat m) TK_STAT.BUSY = true ∧
          t.f (.tkStat m) TK_STAT.INFLIGHT = 1 ∧ t.mem = b.s.mem ∧
          ∃ q, (t.tack m).flight = [q] ∧ q.runs = j ∧ q.pc = k.pc))) ∧
    (TackleIssues s m w false 0 → o = 0 → x.tkBad 0 w = false → ∃ t, exec (.tkNop m w false) s = .next t ∧
      TackleEnds s t m w 0 .done 0 ∧ TackleStored s s t m w) ∧
    (∀ f c src dst, TackleIssues s m w false 1 → o = 1 → v.tkCheck m 1 n w = (.done, false) → PlainCopy w f c →
      src = wf w 2 46 0 → dst = wf w 3 46 0 → 49152 ≤ wf w 0 47 32 → wb w 0 20 = false →
      s.poisonedAt src (c * tkBytes f) = false → s.hbm.sick = [] ∨ s.fuses.hbmSize ≤ src → ∃ t, exec (.copy m w false) s = .next t ∧ TackleEnds s t m w 1 .done 0 ∧
      (∀ i < c * tkBytes f, byteAt t (dst + i) = s.byte (src + i)) ∧
      ∀ a, a < dst ∨ dst + c * tkBytes f ≤ a → byteAt t a = byteAt s a) ∧
    ∀ (i r : Nat) (v : Int), v = sext 32 (s.num (wf w 6 46 0 + 4 * r) 4) →
      s.poisonedAt (wf w 6 46 0 + 4 * r) 4 = false →
      (v < 0 ∨ Int.ofNat (tkWin w 1) ≤ v → (s.tkPos 2 w (r, 0, 0) i).src = none ∧ (s.tkPos 3 w (r, 0, 0) i).drop = true) ∧
      (0 ≤ v → v < Int.ofNat (tkWin w 1) → (s.tkPos 3 w (r, 0, 0) i).drop = false ∧
        (s.tkPos 3 w (r, 0, 0) i).dst.1 = Int.ofNat (wf w 3 46 0) + v * tkDs w 1 ∧
        ∀ u, tkWindow w 0 (Int.ofNat i) = some u →
          (s.tkPos 2 w (r, 0, 0) i).src = some (Int.ofNat (wf w 2 46 0) + v * tkSs w 1,
            Int.ofNat (wf w 4 46 0) + v * tkSss w 1, u))

/-- The values of K16 and K32. For a K16 code with its sign in bit 15, its exponent in bits 14 to 8 and its mantissa in
bits 7 to 0, and a K32 code with its sign in bit 31, its exponent in bits 30 to 23 and its mantissa in bits 22 to 0,
the exponent neither 0 nor all ones, the value is (−1)^Sign × (1 + Man / 2^w) × 2^(Exp − bias), that is ±(2^w + Man) ×
2^(Exp − bias − w), with bias 63 and w 8 for K16, bias 127 and w 23 for K32. [R49] -/
def Obligations.FloatValues : Prop :=
  (∀ (c : BitVec 16), c.toNat / 2 ^ 8 % 2 ^ 7 ≠ 0 → c.toNat / 2 ^ 8 % 2 ^ 7 ≠ 127 → ∃ q, Fmt.k16.dec c.toNat = some q ∧
    q.eq { num := (-1) ^ (c.toNat / 2 ^ 15) * Int.ofNat (2 ^ 8 + c.toNat % 2 ^ 8)
           exp := Int.ofNat (c.toNat / 2 ^ 8 % 2 ^ 7) - 63 - 8 } = true) ∧
  ∀ (c : BitVec 32), c.toNat / 2 ^ 23 % 2 ^ 8 ≠ 0 → c.toNat / 2 ^ 23 % 2 ^ 8 ≠ 255 → ∃ q, Fmt.k32.dec c.toNat = some q ∧
    q.eq { num := (-1) ^ (c.toNat / 2 ^ 31) * Int.ofNat (2 ^ 23 + c.toNat % 2 ^ 23)
           exp := Int.ofNat (c.toNat / 2 ^ 23 % 2 ^ 8) - 127 - 23 } = true

/-- No signal to a cleat is lost. On a cleat that takes operations, no wait pending or held in its segment, no barrier of
this device defined, of an issuer whose writes are accepted (R194): a signal (ADD 1) adds to Value, and only
saturation at 2^31 − 1 clamps the count and sets SAT; the cleat takes the next signal likewise, so signals before any
waiter accumulate. A WAIT_GE 1 after it is satisfied at once. Two signals from Value 0 leave Value at 2, and two
consuming waits of 1 are then both satisfied. [R300] -/
def Obligations.SignalsAccumulate : Prop :=
  ∀ (h : CltHdr) (s : State) (i v : Nat), i = h.index.toNat → v = (s.cleat i).value → CleatTakes s h →
    (∀ g < 16, s.bit (.shrGrp g) SHR_GRP.VALID = false) → Unheld s h.issuer.toNat → s.segHolds (cleatSeg i) = false →
    (∃ t : State, exec (.cleatAdd h 1 0) s = .next t ∧ CleatTakes t h ∧
      (∀ g < 16, t.bit (.shrGrp g) SHR_GRP.VALID = false) ∧ Unheld t h.issuer.toNat ∧ t.segHolds (cleatSeg i) = false ∧
      (v + 1 < 2 ^ 31 → (t.cleat i).value = v + 1 ∧ (t.cleat i).sat = (s.cleat i).sat) ∧
      (2 ^ 31 ≤ v + 1 → (t.cleat i).value = 2 ^ 31 - 1 ∧ (t.cleat i).sat = true) ∧
      ∀ consume tmo, ∃ u : State, exec (.cleatWaitGe h 1 consume tmo) t = .next u ∧ u.clt.waits = t.clt.waits ∧
        (Tbl.get {} u.clt.results h.issuer.toNat).st = .done) ∧
    (v = 0 → ∃ t t' u u' : State, exec (.cleatAdd h 1 0) s = .next t ∧ exec (.cleatAdd h 1 0) t = .next t' ∧
      (t'.cleat i).value = 2 ∧ exec (.cleatWaitGe h 1 true 0) t' = .next u ∧ exec (.cleatWaitGe h 1 true 0) u = .next u' ∧
      u.clt.waits = t'.clt.waits ∧ u'.clt.waits = t'.clt.waits ∧ (u'.cleat i).value = 0 ∧
      (Tbl.get {} u.clt.results h.issuer.toNat).st = .done ∧ (Tbl.get {} u'.clt.results h.issuer.toNat).st = .done)
end

