-- ==== Sys2Proof/Laws/Memory.lean ====
section
/-! SUPPORT. Memory as a canonical list: every operation keeps the form; reading after writing. -/

namespace Sys2Proof.Machine

/-- Every listed address is above `a`. -/
def memAll (a : Nat) (m : List Host.Cell) : Prop := ∀ c ∈ m, a < c.1

theorem memAbove_of_all {a : Nat} {m : List Host.Cell} (h : memAll a m) : memAbove a m = true := by
  cases m with
  | nil => rfl
  | cons c t => simpa [memAbove] using h c (by simp)

/-- In a canonical list the first address bounds all others. -/
theorem memAll_of_wf {a : Nat} {m : List Host.Cell} (hw : Memory.wf m = true) (h : memAbove a m = true) : memAll a m := by
  induction m generalizing a with
  | nil => intro c hc; cases hc
  | cons c t ih =>
    obtain ⟨k, b⟩ := c
    simp only [Memory.wf, Bool.and_eq_true] at hw
    simp only [memAbove, decide_eq_true_eq] at h
    intro c hc
    rcases List.mem_cons.1 hc with rfl | hc
    · exact h
    · exact Nat.lt_trans h (ih hw.2 hw.1.2 c hc)

theorem Memory.wf_cons {k : Nat} {b : Byte} {t : List Host.Cell} :
    Memory.wf ((k, b) :: t) = true ↔ b ≠ 0 ∧ memAll k t ∧ Memory.wf t = true := by
  constructor
  · intro h
    simp only [Memory.wf, Bool.and_eq_true, decide_eq_true_eq] at h
    exact ⟨h.1.1, memAll_of_wf h.2 h.1.2, h.2⟩
  · intro h
    simp only [Memory.wf, Bool.and_eq_true, decide_eq_true_eq]
    exact ⟨⟨h.1, memAbove_of_all h.2.1⟩, h.2.2⟩

theorem memPut_mem {m : List Host.Cell} {a : Nat} {b : Byte} {c : Host.Cell} (h : c ∈ memPut m a b) : c ∈ m ∨ c.1 = a := by
  induction m with
  | nil => simp only [memPut] at h; split at h <;> simp_all
  | cons d t ih =>
    obtain ⟨k, x⟩ := d
    simp only [memPut] at h
    split at h
    · split at h <;> simp_all
      rcases h with rfl | h <;> simp_all
    · split at h
      · split at h <;> simp_all
        rcases h with rfl | h <;> simp_all
      · rcases List.mem_cons.1 h with rfl | h
        · simp
        · rcases ih h with h | h <;> simp_all

/-- Writing a byte keeps the canonical form. -/
theorem Memory.wf_put {m : List Host.Cell} (a : Nat) (b : Byte) (h : Memory.wf m = true) :
    Memory.wf (memPut m a b) = true := by
  induction m with
  | nil =>
    simp only [memPut]
    split
    · rfl
    · simpa [Memory.wf, memAbove] using ‹¬b = 0›
  | cons d t ih =>
    obtain ⟨k, x⟩ := d
    obtain ⟨hx, hk, ht⟩ := Memory.wf_cons.1 h
    simp only [memPut]
    split
    · rename_i hlt
      split
      · exact h
      · rename_i hb
        refine Memory.wf_cons.2 ⟨hb, ?_, h⟩
        intro c hc
        rcases List.mem_cons.1 hc with rfl | hc
        · exact hlt
        · exact Nat.lt_trans hlt (hk c hc)
    · split
      · rename_i heq
        subst heq
        split
        · exact ht
        · exact Memory.wf_cons.2 ⟨‹_›, hk, ht⟩
      · refine Memory.wf_cons.2 ⟨hx, ?_, ih ht⟩
        intro c hc
        rcases memPut_mem hc with hc | hc
        · exact hk c hc
        · omega

/-- Writing consecutive bytes keeps it. -/
theorem Memory.wf_puts {m : List Host.Cell} (a : Nat) (l : List Byte) (h : Memory.wf m = true) :
    Memory.wf (memPuts m a l) = true := by
  induction l generalizing m a with
  | nil => exact h
  | cons b l ih => exact ih (a + 1) (Memory.wf_put a b h)

/-- Taking cells away keeps it. -/
theorem Memory.wf_filter {m : List Host.Cell} (p : Host.Cell → Bool) (h : Memory.wf m = true) :
    Memory.wf (m.filter p) = true := by
  induction m with
  | nil => rfl
  | cons c t ih =>
    obtain ⟨k, b⟩ := c
    obtain ⟨hb, hk, ht⟩ := Memory.wf_cons.1 h
    by_cases hp : p (k, b) = true
    · rw [List.filter_cons_of_pos hp]
      exact Memory.wf_cons.2 ⟨hb, fun c hc => hk c ((List.mem_filter.1 hc).1), ih ht⟩
    · rw [List.filter_cons_of_neg hp]
      exact ih ht

/-- Clearing a set of addresses keeps it. -/
theorem Memory.wf_clear {m : List Host.Cell} (p : Nat → Bool) (h : Memory.wf m = true) :
    Memory.wf (memClear m p) = true := Memory.wf_filter _ h

/-- An address below every listed one reads 0. -/
theorem memGet_of_all {m : List Host.Cell} {a : Nat} (h : memAll a m) : memGet m a = 0 := by
  induction m with
  | nil => rfl
  | cons c t ih =>
    obtain ⟨k, b⟩ := c
    have hk : a < k := h (k, b) (by simp)
    simp only [memGet]
    rw [if_neg (by omega)]
    exact ih (fun c hc => h c (by simp [hc]))

/-- A byte reads back as written. -/
theorem memGet_put_same {m : List Host.Cell} (a : Nat) (b : Byte) (h : Memory.wf m = true) :
    memGet (memPut m a b) a = b := by
  induction m with
  | nil => simp only [memPut]; split <;> simp_all [memGet]
  | cons d t ih =>
    obtain ⟨k, x⟩ := d
    obtain ⟨hx, hk, ht⟩ := Memory.wf_cons.1 h
    simp only [memPut]
    split
    · rename_i hlt
      split
      · rename_i hb
        subst hb
        exact memGet_of_all (fun c hc => by
          rcases List.mem_cons.1 hc with rfl | hc
          · exact hlt
          · exact Nat.lt_trans hlt (hk c hc))
      · simp [memGet]
    · split
      · rename_i heq
        subst heq
        split
        · rename_i hb
          subst hb
          exact memGet_of_all hk
        · simp [memGet]
      · simp only [memGet]
        rw [if_neg (by omega)]
        exact ih ht

/-- A write leaves every other byte alone. -/
theorem memGet_put_ne {m : List Host.Cell} {a c : Nat} (b : Byte) (h : c ≠ a) : memGet (memPut m a b) c = memGet m c := by
  induction m with
  | nil => simp only [memPut]; split <;> simp [memGet, Ne.symm h]
  | cons d t ih =>
    obtain ⟨k, x⟩ := d
    simp only [memPut]
    split
    · split <;> simp [memGet, Ne.symm h]
    · split
      · rename_i heq
        subst heq
        split <;> simp [memGet, Ne.symm h]
      · simp only [memGet, ih]

/-- Writing consecutive bytes leaves every byte outside them alone. -/
theorem memGet_puts_out {m : List Host.Cell} {a c : Nat} (l : List Byte) (h : c < a ∨ a + l.length ≤ c) :
    memGet (memPuts m a l) c = memGet m c := by
  induction l generalizing m a with
  | nil => rfl
  | cons b l ih =>
    simp only [List.length_cons] at h
    rw [memPuts, ih (by omega), memGet_put_ne b (by omega)]

/-- Consecutive bytes read back as written. -/
theorem memGet_puts_in {m : List Host.Cell} {a : Nat} (l : List Byte) (i : Nat) (hw : Memory.wf m = true) (h : i < l.length) :
    memGet (memPuts m a l) (a + i) = l[i] := by
  induction l generalizing m a i with
  | nil => cases h
  | cons b l ih =>
    cases i with
    | zero =>
      rw [memPuts, memGet_puts_out l (by omega), Nat.add_zero, memGet_put_same a b hw]
      rfl
    | succ i =>
      rw [memPuts, show a + (i + 1) = a + 1 + i by omega, ih i (Memory.wf_put a b hw) (by simpa using h)]
      rfl

@[simp] theorem memGets_length (m : List Host.Cell) (a n : Nat) : (memGets m a n).length = n := by
  induction n generalizing a with
  | zero => rfl
  | succ n ih => simp [memGets, ih]

theorem memGets_get (m : List Host.Cell) (a n i : Nat) (h : i < n) :
    (memGets m a n)[i]'(by simpa using h) = memGet m (a + i) := by
  induction n generalizing a i with
  | zero => cases h
  | succ n ih =>
    cases i with
    | zero => simp [memGets]
    | succ i =>
      simp only [memGets, List.getElem_cons_succ]
      rw [ih (a + 1) i (by omega)]
      congr 1
      omega

end Sys2Proof.Machine
end

