-- ==== Sys2Proof/Laws/State.lean ====
section
/-! SUPPORT. What each setter of Machine/ leaves: one lemma for each field of State it does not write. -/

namespace Sys2Proof.Machine

variable (s : State)

/-! ### wr -/

@[simp] theorem State.wr_fuses (r : Reg) (v : Word) : (s.wr r v).fuses = s.fuses := rfl
@[simp] theorem State.wr_mem (r : Reg) (v : Word) : (s.wr r v).mem = s.mem := rfl
@[simp] theorem State.wr_poison (r : Reg) (v : Word) : (s.wr r v).poison = s.poison := rfl
@[simp] theorem State.wr_clt (r : Reg) (v : Word) : (s.wr r v).clt = s.clt := rfl
@[simp] theorem State.wr_shr (r : Reg) (v : Word) : (s.wr r v).shr = s.shr := rfl
@[simp] theorem State.wr_tick (r : Reg) (v : Word) : (s.wr r v).tick = s.tick := rfl
@[simp] theorem State.wr_chip (r : Reg) (v : Word) : (s.wr r v).chip = s.chip := rfl
@[simp] theorem State.wr_flt (r : Reg) (v : Word) : (s.wr r v).flt = s.flt := rfl
@[simp] theorem State.wr_net (r : Reg) (v : Word) : (s.wr r v).net = s.net := rfl
@[simp] theorem State.wr_mbx (r : Reg) (v : Word) : (s.wr r v).mbx = s.mbx := rfl
@[simp] theorem State.wr_abt (r : Reg) (v : Word) : (s.wr r v).abt = s.abt := rfl
@[simp] theorem State.wr_cns (r : Reg) (v : Word) : (s.wr r v).cns = s.cns := rfl
@[simp] theorem State.wr_boot (r : Reg) (v : Word) : (s.wr r v).boot = s.boot := rfl
@[simp] theorem State.wr_cal (r : Reg) (v : Word) : (s.wr r v).cal = s.cal := rfl
@[simp] theorem State.wr_pwr (r : Reg) (v : Word) : (s.wr r v).pwr = s.pwr := rfl
@[simp] theorem State.wr_mod (r : Reg) (v : Word) : (s.wr r v).mod = s.mod := rfl
@[simp] theorem State.wr_sail (r : Reg) (v : Word) : (s.wr r v).sail = s.sail := rfl
@[simp] theorem State.wr_red (r : Reg) (v : Word) : (s.wr r v).red = s.red := rfl
@[simp] theorem State.wr_fair (r : Reg) (v : Word) : (s.wr r v).fair = s.fair := rfl
@[simp] theorem State.wr_hbm (r : Reg) (v : Word) : (s.wr r v).hbm = s.hbm := rfl
@[simp] theorem State.wr_fab (r : Reg) (v : Word) : (s.wr r v).fab = s.fab := rfl
@[simp] theorem State.wr_tk (r : Reg) (v : Word) : (s.wr r v).tk = s.tk := rfl
@[simp] theorem State.wr_jibs (r : Reg) (v : Word) : (s.wr r v).jibs = s.jibs := rfl
@[simp] theorem State.wr_hal (r : Reg) (v : Word) : (s.wr r v).hal = s.hal := rfl
@[simp] theorem State.wr_secs (r : Reg) (v : Word) : (s.wr r v).secs = s.secs := rfl
@[simp] theorem State.wr_loader (r : Reg) (v : Word) : (s.wr r v).loader = s.loader := rfl
@[simp] theorem State.wr_sec (r : Reg) (v : Word) : (s.wr r v).sec = s.sec := rfl
@[simp] theorem State.wr_refs (r : Reg) (v : Word) : (s.wr r v).refs = s.refs := rfl
@[simp] theorem State.wr_free (r : Reg) (v : Word) : (s.wr r v).free = s.free := rfl
@[simp] theorem State.wr_pending (r : Reg) (v : Word) : (s.wr r v).pending = s.pending := rfl

/-! ### setF -/

@[simp] theorem State.setF_fuses (r : Reg) (F : Field) (v : Nat) : (s.setF r F v).fuses = s.fuses := rfl
@[simp] theorem State.setF_mem (r : Reg) (F : Field) (v : Nat) : (s.setF r F v).mem = s.mem := rfl
@[simp] theorem State.setF_poison (r : Reg) (F : Field) (v : Nat) : (s.setF r F v).poison = s.poison := rfl
@[simp] theorem State.setF_clt (r : Reg) (F : Field) (v : Nat) : (s.setF r F v).clt = s.clt := rfl
@[simp] theorem State.setF_shr (r : Reg) (F : Field) (v : Nat) : (s.setF r F v).shr = s.shr := rfl
@[simp] theorem State.setF_tick (r : Reg) (F : Field) (v : Nat) : (s.setF r F v).tick = s.tick := rfl
@[simp] theorem State.setF_chip (r : Reg) (F : Field) (v : Nat) : (s.setF r F v).chip = s.chip := rfl
@[simp] theorem State.setF_flt (r : Reg) (F : Field) (v : Nat) : (s.setF r F v).flt = s.flt := rfl
@[simp] theorem State.setF_net (r : Reg) (F : Field) (v : Nat) : (s.setF r F v).net = s.net := rfl
@[simp] theorem State.setF_mbx (r : Reg) (F : Field) (v : Nat) : (s.setF r F v).mbx = s.mbx := rfl
@[simp] theorem State.setF_abt (r : Reg) (F : Field) (v : Nat) : (s.setF r F v).abt = s.abt := rfl
@[simp] theorem State.setF_cns (r : Reg) (F : Field) (v : Nat) : (s.setF r F v).cns = s.cns := rfl
@[simp] theorem State.setF_boot (r : Reg) (F : Field) (v : Nat) : (s.setF r F v).boot = s.boot := rfl
@[simp] theorem State.setF_cal (r : Reg) (F : Field) (v : Nat) : (s.setF r F v).cal = s.cal := rfl
@[simp] theorem State.setF_pwr (r : Reg) (F : Field) (v : Nat) : (s.setF r F v).pwr = s.pwr := rfl
@[simp] theorem State.setF_mod (r : Reg) (F : Field) (v : Nat) : (s.setF r F v).mod = s.mod := rfl
@[simp] theorem State.setF_sail (r : Reg) (F : Field) (v : Nat) : (s.setF r F v).sail = s.sail := rfl
@[simp] theorem State.setF_red (r : Reg) (F : Field) (v : Nat) : (s.setF r F v).red = s.red := rfl
@[simp] theorem State.setF_fair (r : Reg) (F : Field) (v : Nat) : (s.setF r F v).fair = s.fair := rfl
@[simp] theorem State.setF_hbm (r : Reg) (F : Field) (v : Nat) : (s.setF r F v).hbm = s.hbm := rfl
@[simp] theorem State.setF_fab (r : Reg) (F : Field) (v : Nat) : (s.setF r F v).fab = s.fab := rfl
@[simp] theorem State.setF_tk (r : Reg) (F : Field) (v : Nat) : (s.setF r F v).tk = s.tk := rfl
@[simp] theorem State.setF_jibs (r : Reg) (F : Field) (v : Nat) : (s.setF r F v).jibs = s.jibs := rfl
@[simp] theorem State.setF_hal (r : Reg) (F : Field) (v : Nat) : (s.setF r F v).hal = s.hal := rfl
@[simp] theorem State.setF_secs (r : Reg) (F : Field) (v : Nat) : (s.setF r F v).secs = s.secs := rfl
@[simp] theorem State.setF_loader (r : Reg) (F : Field) (v : Nat) : (s.setF r F v).loader = s.loader := rfl
@[simp] theorem State.setF_sec (r : Reg) (F : Field) (v : Nat) : (s.setF r F v).sec = s.sec := rfl
@[simp] theorem State.setF_refs (r : Reg) (F : Field) (v : Nat) : (s.setF r F v).refs = s.refs := rfl
@[simp] theorem State.setF_free (r : Reg) (F : Field) (v : Nat) : (s.setF r F v).free = s.free := rfl
@[simp] theorem State.setF_pending (r : Reg) (F : Field) (v : Nat) : (s.setF r F v).pending = s.pending := rfl

/-! ### incSat -/

@[simp] theorem State.incSat_fuses (r : Reg) (F : Field) (d : Nat) : (s.incSat r F d).fuses = s.fuses := rfl
@[simp] theorem State.incSat_mem (r : Reg) (F : Field) (d : Nat) : (s.incSat r F d).mem = s.mem := rfl
@[simp] theorem State.incSat_poison (r : Reg) (F : Field) (d : Nat) : (s.incSat r F d).poison = s.poison := rfl
@[simp] theorem State.incSat_clt (r : Reg) (F : Field) (d : Nat) : (s.incSat r F d).clt = s.clt := rfl
@[simp] theorem State.incSat_shr (r : Reg) (F : Field) (d : Nat) : (s.incSat r F d).shr = s.shr := rfl
@[simp] theorem State.incSat_tick (r : Reg) (F : Field) (d : Nat) : (s.incSat r F d).tick = s.tick := rfl
@[simp] theorem State.incSat_chip (r : Reg) (F : Field) (d : Nat) : (s.incSat r F d).chip = s.chip := rfl
@[simp] theorem State.incSat_flt (r : Reg) (F : Field) (d : Nat) : (s.incSat r F d).flt = s.flt := rfl
@[simp] theorem State.incSat_net (r : Reg) (F : Field) (d : Nat) : (s.incSat r F d).net = s.net := rfl
@[simp] theorem State.incSat_mbx (r : Reg) (F : Field) (d : Nat) : (s.incSat r F d).mbx = s.mbx := rfl
@[simp] theorem State.incSat_abt (r : Reg) (F : Field) (d : Nat) : (s.incSat r F d).abt = s.abt := rfl
@[simp] theorem State.incSat_cns (r : Reg) (F : Field) (d : Nat) : (s.incSat r F d).cns = s.cns := rfl
@[simp] theorem State.incSat_boot (r : Reg) (F : Field) (d : Nat) : (s.incSat r F d).boot = s.boot := rfl
@[simp] theorem State.incSat_cal (r : Reg) (F : Field) (d : Nat) : (s.incSat r F d).cal = s.cal := rfl
@[simp] theorem State.incSat_pwr (r : Reg) (F : Field) (d : Nat) : (s.incSat r F d).pwr = s.pwr := rfl
@[simp] theorem State.incSat_mod (r : Reg) (F : Field) (d : Nat) : (s.incSat r F d).mod = s.mod := rfl
@[simp] theorem State.incSat_sail (r : Reg) (F : Field) (d : Nat) : (s.incSat r F d).sail = s.sail := rfl
@[simp] theorem State.incSat_red (r : Reg) (F : Field) (d : Nat) : (s.incSat r F d).red = s.red := rfl
@[simp] theorem State.incSat_fair (r : Reg) (F : Field) (d : Nat) : (s.incSat r F d).fair = s.fair := rfl
@[simp] theorem State.incSat_hbm (r : Reg) (F : Field) (d : Nat) : (s.incSat r F d).hbm = s.hbm := rfl
@[simp] theorem State.incSat_fab (r : Reg) (F : Field) (d : Nat) : (s.incSat r F d).fab = s.fab := rfl
@[simp] theorem State.incSat_tk (r : Reg) (F : Field) (d : Nat) : (s.incSat r F d).tk = s.tk := rfl
@[simp] theorem State.incSat_jibs (r : Reg) (F : Field) (d : Nat) : (s.incSat r F d).jibs = s.jibs := rfl
@[simp] theorem State.incSat_hal (r : Reg) (F : Field) (d : Nat) : (s.incSat r F d).hal = s.hal := rfl
@[simp] theorem State.incSat_secs (r : Reg) (F : Field) (d : Nat) : (s.incSat r F d).secs = s.secs := rfl
@[simp] theorem State.incSat_loader (r : Reg) (F : Field) (d : Nat) : (s.incSat r F d).loader = s.loader := rfl
@[simp] theorem State.incSat_sec (r : Reg) (F : Field) (d : Nat) : (s.incSat r F d).sec = s.sec := rfl
@[simp] theorem State.incSat_refs (r : Reg) (F : Field) (d : Nat) : (s.incSat r F d).refs = s.refs := rfl
@[simp] theorem State.incSat_free (r : Reg) (F : Field) (d : Nat) : (s.incSat r F d).free = s.free := rfl
@[simp] theorem State.incSat_pending (r : Reg) (F : Field) (d : Nat) : (s.incSat r F d).pending = s.pending := rfl

/-! ### incWrap -/

@[simp] theorem State.incWrap_fuses (r : Reg) (F : Field) (d : Nat) : (s.incWrap r F d).fuses = s.fuses := rfl
@[simp] theorem State.incWrap_mem (r : Reg) (F : Field) (d : Nat) : (s.incWrap r F d).mem = s.mem := rfl
@[simp] theorem State.incWrap_poison (r : Reg) (F : Field) (d : Nat) : (s.incWrap r F d).poison = s.poison := rfl
@[simp] theorem State.incWrap_clt (r : Reg) (F : Field) (d : Nat) : (s.incWrap r F d).clt = s.clt := rfl
@[simp] theorem State.incWrap_shr (r : Reg) (F : Field) (d : Nat) : (s.incWrap r F d).shr = s.shr := rfl
@[simp] theorem State.incWrap_tick (r : Reg) (F : Field) (d : Nat) : (s.incWrap r F d).tick = s.tick := rfl
@[simp] theorem State.incWrap_chip (r : Reg) (F : Field) (d : Nat) : (s.incWrap r F d).chip = s.chip := rfl
@[simp] theorem State.incWrap_flt (r : Reg) (F : Field) (d : Nat) : (s.incWrap r F d).flt = s.flt := rfl
@[simp] theorem State.incWrap_net (r : Reg) (F : Field) (d : Nat) : (s.incWrap r F d).net = s.net := rfl
@[simp] theorem State.incWrap_mbx (r : Reg) (F : Field) (d : Nat) : (s.incWrap r F d).mbx = s.mbx := rfl
@[simp] theorem State.incWrap_abt (r : Reg) (F : Field) (d : Nat) : (s.incWrap r F d).abt = s.abt := rfl
@[simp] theorem State.incWrap_cns (r : Reg) (F : Field) (d : Nat) : (s.incWrap r F d).cns = s.cns := rfl
@[simp] theorem State.incWrap_boot (r : Reg) (F : Field) (d : Nat) : (s.incWrap r F d).boot = s.boot := rfl
@[simp] theorem State.incWrap_cal (r : Reg) (F : Field) (d : Nat) : (s.incWrap r F d).cal = s.cal := rfl
@[simp] theorem State.incWrap_pwr (r : Reg) (F : Field) (d : Nat) : (s.incWrap r F d).pwr = s.pwr := rfl
@[simp] theorem State.incWrap_mod (r : Reg) (F : Field) (d : Nat) : (s.incWrap r F d).mod = s.mod := rfl
@[simp] theorem State.incWrap_sail (r : Reg) (F : Field) (d : Nat) : (s.incWrap r F d).sail = s.sail := rfl
@[simp] theorem State.incWrap_red (r : Reg) (F : Field) (d : Nat) : (s.incWrap r F d).red = s.red := rfl
@[simp] theorem State.incWrap_fair (r : Reg) (F : Field) (d : Nat) : (s.incWrap r F d).fair = s.fair := rfl
@[simp] theorem State.incWrap_hbm (r : Reg) (F : Field) (d : Nat) : (s.incWrap r F d).hbm = s.hbm := rfl
@[simp] theorem State.incWrap_fab (r : Reg) (F : Field) (d : Nat) : (s.incWrap r F d).fab = s.fab := rfl
@[simp] theorem State.incWrap_tk (r : Reg) (F : Field) (d : Nat) : (s.incWrap r F d).tk = s.tk := rfl
@[simp] theorem State.incWrap_jibs (r : Reg) (F : Field) (d : Nat) : (s.incWrap r F d).jibs = s.jibs := rfl
@[simp] theorem State.incWrap_hal (r : Reg) (F : Field) (d : Nat) : (s.incWrap r F d).hal = s.hal := rfl
@[simp] theorem State.incWrap_secs (r : Reg) (F : Field) (d : Nat) : (s.incWrap r F d).secs = s.secs := rfl
@[simp] theorem State.incWrap_loader (r : Reg) (F : Field) (d : Nat) : (s.incWrap r F d).loader = s.loader := rfl
@[simp] theorem State.incWrap_sec (r : Reg) (F : Field) (d : Nat) : (s.incWrap r F d).sec = s.sec := rfl
@[simp] theorem State.incWrap_refs (r : Reg) (F : Field) (d : Nat) : (s.incWrap r F d).refs = s.refs := rfl
@[simp] theorem State.incWrap_free (r : Reg) (F : Field) (d : Nat) : (s.incWrap r F d).free = s.free := rfl
@[simp] theorem State.incWrap_pending (r : Reg) (F : Field) (d : Nat) : (s.incWrap r F d).pending = s.pending := rfl

/-! ### resetRegs -/

@[simp] theorem State.resetRegs_fuses (p : Reg → Bool) : (s.resetRegs p).fuses = s.fuses := rfl
@[simp] theorem State.resetRegs_mem (p : Reg → Bool) : (s.resetRegs p).mem = s.mem := rfl
@[simp] theorem State.resetRegs_poison (p : Reg → Bool) : (s.resetRegs p).poison = s.poison := rfl
@[simp] theorem State.resetRegs_clt (p : Reg → Bool) : (s.resetRegs p).clt = s.clt := rfl
@[simp] theorem State.resetRegs_shr (p : Reg → Bool) : (s.resetRegs p).shr = s.shr := rfl
@[simp] theorem State.resetRegs_tick (p : Reg → Bool) : (s.resetRegs p).tick = s.tick := rfl
@[simp] theorem State.resetRegs_chip (p : Reg → Bool) : (s.resetRegs p).chip = s.chip := rfl
@[simp] theorem State.resetRegs_flt (p : Reg → Bool) : (s.resetRegs p).flt = s.flt := rfl
@[simp] theorem State.resetRegs_net (p : Reg → Bool) : (s.resetRegs p).net = s.net := rfl
@[simp] theorem State.resetRegs_mbx (p : Reg → Bool) : (s.resetRegs p).mbx = s.mbx := rfl
@[simp] theorem State.resetRegs_abt (p : Reg → Bool) : (s.resetRegs p).abt = s.abt := rfl
@[simp] theorem State.resetRegs_cns (p : Reg → Bool) : (s.resetRegs p).cns = s.cns := rfl
@[simp] theorem State.resetRegs_boot (p : Reg → Bool) : (s.resetRegs p).boot = s.boot := rfl
@[simp] theorem State.resetRegs_cal (p : Reg → Bool) : (s.resetRegs p).cal = s.cal := rfl
@[simp] theorem State.resetRegs_pwr (p : Reg → Bool) : (s.resetRegs p).pwr = s.pwr := rfl
@[simp] theorem State.resetRegs_mod (p : Reg → Bool) : (s.resetRegs p).mod = s.mod := rfl
@[simp] theorem State.resetRegs_sail (p : Reg → Bool) : (s.resetRegs p).sail = s.sail := rfl
@[simp] theorem State.resetRegs_red (p : Reg → Bool) : (s.resetRegs p).red = s.red := rfl
@[simp] theorem State.resetRegs_fair (p : Reg → Bool) : (s.resetRegs p).fair = s.fair := rfl
@[simp] theorem State.resetRegs_hbm (p : Reg → Bool) : (s.resetRegs p).hbm = s.hbm := rfl
@[simp] theorem State.resetRegs_fab (p : Reg → Bool) : (s.resetRegs p).fab = s.fab := rfl
@[simp] theorem State.resetRegs_tk (p : Reg → Bool) : (s.resetRegs p).tk = s.tk := rfl
@[simp] theorem State.resetRegs_jibs (p : Reg → Bool) : (s.resetRegs p).jibs = s.jibs := rfl
@[simp] theorem State.resetRegs_hal (p : Reg → Bool) : (s.resetRegs p).hal = s.hal := rfl
@[simp] theorem State.resetRegs_secs (p : Reg → Bool) : (s.resetRegs p).secs = s.secs := rfl
@[simp] theorem State.resetRegs_loader (p : Reg → Bool) : (s.resetRegs p).loader = s.loader := rfl
@[simp] theorem State.resetRegs_sec (p : Reg → Bool) : (s.resetRegs p).sec = s.sec := rfl
@[simp] theorem State.resetRegs_refs (p : Reg → Bool) : (s.resetRegs p).refs = s.refs := rfl
@[simp] theorem State.resetRegs_free (p : Reg → Bool) : (s.resetRegs p).free = s.free := rfl
@[simp] theorem State.resetRegs_pending (p : Reg → Bool) : (s.resetRegs p).pending = s.pending := rfl

/-! ### setCn -/

@[simp] theorem State.setCn_fuses (c : Nat) (F : Field) (v : Nat) : (s.setCn c F v).fuses = s.fuses := rfl
@[simp] theorem State.setCn_mem (c : Nat) (F : Field) (v : Nat) : (s.setCn c F v).mem = s.mem := rfl
@[simp] theorem State.setCn_poison (c : Nat) (F : Field) (v : Nat) : (s.setCn c F v).poison = s.poison := rfl
@[simp] theorem State.setCn_clt (c : Nat) (F : Field) (v : Nat) : (s.setCn c F v).clt = s.clt := rfl
@[simp] theorem State.setCn_shr (c : Nat) (F : Field) (v : Nat) : (s.setCn c F v).shr = s.shr := rfl
@[simp] theorem State.setCn_tick (c : Nat) (F : Field) (v : Nat) : (s.setCn c F v).tick = s.tick := rfl
@[simp] theorem State.setCn_chip (c : Nat) (F : Field) (v : Nat) : (s.setCn c F v).chip = s.chip := rfl
@[simp] theorem State.setCn_flt (c : Nat) (F : Field) (v : Nat) : (s.setCn c F v).flt = s.flt := rfl
@[simp] theorem State.setCn_net (c : Nat) (F : Field) (v : Nat) : (s.setCn c F v).net = s.net := rfl
@[simp] theorem State.setCn_mbx (c : Nat) (F : Field) (v : Nat) : (s.setCn c F v).mbx = s.mbx := rfl
@[simp] theorem State.setCn_abt (c : Nat) (F : Field) (v : Nat) : (s.setCn c F v).abt = s.abt := rfl
@[simp] theorem State.setCn_cns (c : Nat) (F : Field) (v : Nat) : (s.setCn c F v).cns = s.cns := rfl
@[simp] theorem State.setCn_boot (c : Nat) (F : Field) (v : Nat) : (s.setCn c F v).boot = s.boot := rfl
@[simp] theorem State.setCn_cal (c : Nat) (F : Field) (v : Nat) : (s.setCn c F v).cal = s.cal := rfl
@[simp] theorem State.setCn_pwr (c : Nat) (F : Field) (v : Nat) : (s.setCn c F v).pwr = s.pwr := rfl
@[simp] theorem State.setCn_mod (c : Nat) (F : Field) (v : Nat) : (s.setCn c F v).mod = s.mod := rfl
@[simp] theorem State.setCn_sail (c : Nat) (F : Field) (v : Nat) : (s.setCn c F v).sail = s.sail := rfl
@[simp] theorem State.setCn_red (c : Nat) (F : Field) (v : Nat) : (s.setCn c F v).red = s.red := rfl
@[simp] theorem State.setCn_fair (c : Nat) (F : Field) (v : Nat) : (s.setCn c F v).fair = s.fair := rfl
@[simp] theorem State.setCn_hbm (c : Nat) (F : Field) (v : Nat) : (s.setCn c F v).hbm = s.hbm := rfl
@[simp] theorem State.setCn_fab (c : Nat) (F : Field) (v : Nat) : (s.setCn c F v).fab = s.fab := rfl
@[simp] theorem State.setCn_tk (c : Nat) (F : Field) (v : Nat) : (s.setCn c F v).tk = s.tk := rfl
@[simp] theorem State.setCn_jibs (c : Nat) (F : Field) (v : Nat) : (s.setCn c F v).jibs = s.jibs := rfl
@[simp] theorem State.setCn_hal (c : Nat) (F : Field) (v : Nat) : (s.setCn c F v).hal = s.hal := rfl
@[simp] theorem State.setCn_secs (c : Nat) (F : Field) (v : Nat) : (s.setCn c F v).secs = s.secs := rfl
@[simp] theorem State.setCn_loader (c : Nat) (F : Field) (v : Nat) : (s.setCn c F v).loader = s.loader := rfl
@[simp] theorem State.setCn_sec (c : Nat) (F : Field) (v : Nat) : (s.setCn c F v).sec = s.sec := rfl
@[simp] theorem State.setCn_refs (c : Nat) (F : Field) (v : Nat) : (s.setCn c F v).refs = s.refs := rfl
@[simp] theorem State.setCn_free (c : Nat) (F : Field) (v : Nat) : (s.setCn c F v).free = s.free := rfl
@[simp] theorem State.setCn_pending (c : Nat) (F : Field) (v : Nat) : (s.setCn c F v).pending = s.pending := rfl

/-! ### setCo -/

@[simp] theorem State.setCo_fuses (m k : Nat) (F : Field) (v : Nat) : (s.setCo m k F v).fuses = s.fuses := rfl
@[simp] theorem State.setCo_mem (m k : Nat) (F : Field) (v : Nat) : (s.setCo m k F v).mem = s.mem := rfl
@[simp] theorem State.setCo_poison (m k : Nat) (F : Field) (v : Nat) : (s.setCo m k F v).poison = s.poison := rfl
@[simp] theorem State.setCo_clt (m k : Nat) (F : Field) (v : Nat) : (s.setCo m k F v).clt = s.clt := rfl
@[simp] theorem State.setCo_shr (m k : Nat) (F : Field) (v : Nat) : (s.setCo m k F v).shr = s.shr := rfl
@[simp] theorem State.setCo_tick (m k : Nat) (F : Field) (v : Nat) : (s.setCo m k F v).tick = s.tick := rfl
@[simp] theorem State.setCo_chip (m k : Nat) (F : Field) (v : Nat) : (s.setCo m k F v).chip = s.chip := rfl
@[simp] theorem State.setCo_flt (m k : Nat) (F : Field) (v : Nat) : (s.setCo m k F v).flt = s.flt := rfl
@[simp] theorem State.setCo_net (m k : Nat) (F : Field) (v : Nat) : (s.setCo m k F v).net = s.net := rfl
@[simp] theorem State.setCo_mbx (m k : Nat) (F : Field) (v : Nat) : (s.setCo m k F v).mbx = s.mbx := rfl
@[simp] theorem State.setCo_abt (m k : Nat) (F : Field) (v : Nat) : (s.setCo m k F v).abt = s.abt := rfl
@[simp] theorem State.setCo_cns (m k : Nat) (F : Field) (v : Nat) : (s.setCo m k F v).cns = s.cns := rfl
@[simp] theorem State.setCo_boot (m k : Nat) (F : Field) (v : Nat) : (s.setCo m k F v).boot = s.boot := rfl
@[simp] theorem State.setCo_cal (m k : Nat) (F : Field) (v : Nat) : (s.setCo m k F v).cal = s.cal := rfl
@[simp] theorem State.setCo_pwr (m k : Nat) (F : Field) (v : Nat) : (s.setCo m k F v).pwr = s.pwr := rfl
@[simp] theorem State.setCo_mod (m k : Nat) (F : Field) (v : Nat) : (s.setCo m k F v).mod = s.mod := rfl
@[simp] theorem State.setCo_sail (m k : Nat) (F : Field) (v : Nat) : (s.setCo m k F v).sail = s.sail := rfl
@[simp] theorem State.setCo_red (m k : Nat) (F : Field) (v : Nat) : (s.setCo m k F v).red = s.red := rfl
@[simp] theorem State.setCo_fair (m k : Nat) (F : Field) (v : Nat) : (s.setCo m k F v).fair = s.fair := rfl
@[simp] theorem State.setCo_hbm (m k : Nat) (F : Field) (v : Nat) : (s.setCo m k F v).hbm = s.hbm := rfl
@[simp] theorem State.setCo_fab (m k : Nat) (F : Field) (v : Nat) : (s.setCo m k F v).fab = s.fab := rfl
@[simp] theorem State.setCo_tk (m k : Nat) (F : Field) (v : Nat) : (s.setCo m k F v).tk = s.tk := rfl
@[simp] theorem State.setCo_jibs (m k : Nat) (F : Field) (v : Nat) : (s.setCo m k F v).jibs = s.jibs := rfl
@[simp] theorem State.setCo_hal (m k : Nat) (F : Field) (v : Nat) : (s.setCo m k F v).hal = s.hal := rfl
@[simp] theorem State.setCo_secs (m k : Nat) (F : Field) (v : Nat) : (s.setCo m k F v).secs = s.secs := rfl
@[simp] theorem State.setCo_loader (m k : Nat) (F : Field) (v : Nat) : (s.setCo m k F v).loader = s.loader := rfl
@[simp] theorem State.setCo_sec (m k : Nat) (F : Field) (v : Nat) : (s.setCo m k F v).sec = s.sec := rfl
@[simp] theorem State.setCo_refs (m k : Nat) (F : Field) (v : Nat) : (s.setCo m k F v).refs = s.refs := rfl
@[simp] theorem State.setCo_free (m k : Nat) (F : Field) (v : Nat) : (s.setCo m k F v).free = s.free := rfl
@[simp] theorem State.setCo_pending (m k : Nat) (F : Field) (v : Nat) : (s.setCo m k F v).pending = s.pending := rfl

/-! ### setConn -/

@[simp] theorem State.setConn_fuses (c : Nat) (x : Conn) : (s.setConn c x).fuses = s.fuses := rfl
@[simp] theorem State.setConn_regs (c : Nat) (x : Conn) : (s.setConn c x).regs = s.regs := rfl
@[simp] theorem State.setConn_mem (c : Nat) (x : Conn) : (s.setConn c x).mem = s.mem := rfl
@[simp] theorem State.setConn_poison (c : Nat) (x : Conn) : (s.setConn c x).poison = s.poison := rfl
@[simp] theorem State.setConn_clt (c : Nat) (x : Conn) : (s.setConn c x).clt = s.clt := rfl
@[simp] theorem State.setConn_shr (c : Nat) (x : Conn) : (s.setConn c x).shr = s.shr := rfl
@[simp] theorem State.setConn_tick (c : Nat) (x : Conn) : (s.setConn c x).tick = s.tick := rfl
@[simp] theorem State.setConn_chip (c : Nat) (x : Conn) : (s.setConn c x).chip = s.chip := rfl
@[simp] theorem State.setConn_flt (c : Nat) (x : Conn) : (s.setConn c x).flt = s.flt := rfl
@[simp] theorem State.setConn_mbx (c : Nat) (x : Conn) : (s.setConn c x).mbx = s.mbx := rfl
@[simp] theorem State.setConn_abt (c : Nat) (x : Conn) : (s.setConn c x).abt = s.abt := rfl
@[simp] theorem State.setConn_cns (c : Nat) (x : Conn) : (s.setConn c x).cns = s.cns := rfl
@[simp] theorem State.setConn_boot (c : Nat) (x : Conn) : (s.setConn c x).boot = s.boot := rfl
@[simp] theorem State.setConn_cal (c : Nat) (x : Conn) : (s.setConn c x).cal = s.cal := rfl
@[simp] theorem State.setConn_pwr (c : Nat) (x : Conn) : (s.setConn c x).pwr = s.pwr := rfl
@[simp] theorem State.setConn_mod (c : Nat) (x : Conn) : (s.setConn c x).mod = s.mod := rfl
@[simp] theorem State.setConn_sail (c : Nat) (x : Conn) : (s.setConn c x).sail = s.sail := rfl
@[simp] theorem State.setConn_red (c : Nat) (x : Conn) : (s.setConn c x).red = s.red := rfl
@[simp] theorem State.setConn_fair (c : Nat) (x : Conn) : (s.setConn c x).fair = s.fair := rfl
@[simp] theorem State.setConn_hbm (c : Nat) (x : Conn) : (s.setConn c x).hbm = s.hbm := rfl
@[simp] theorem State.setConn_fab (c : Nat) (x : Conn) : (s.setConn c x).fab = s.fab := rfl
@[simp] theorem State.setConn_tk (c : Nat) (x : Conn) : (s.setConn c x).tk = s.tk := rfl
@[simp] theorem State.setConn_jibs (c : Nat) (x : Conn) : (s.setConn c x).jibs = s.jibs := rfl
@[simp] theorem State.setConn_hal (c : Nat) (x : Conn) : (s.setConn c x).hal = s.hal := rfl
@[simp] theorem State.setConn_secs (c : Nat) (x : Conn) : (s.setConn c x).secs = s.secs := rfl
@[simp] theorem State.setConn_loader (c : Nat) (x : Conn) : (s.setConn c x).loader = s.loader := rfl
@[simp] theorem State.setConn_sec (c : Nat) (x : Conn) : (s.setConn c x).sec = s.sec := rfl
@[simp] theorem State.setConn_refs (c : Nat) (x : Conn) : (s.setConn c x).refs = s.refs := rfl
@[simp] theorem State.setConn_free (c : Nat) (x : Conn) : (s.setConn c x).free = s.free := rfl
@[simp] theorem State.setConn_pending (c : Nat) (x : Conn) : (s.setConn c x).pending = s.pending := rfl

/-! ### enqueue -/

@[simp] theorem State.enqueue_fuses (f : TxFrame) : (s.enqueue f).fuses = s.fuses := rfl
@[simp] theorem State.enqueue_regs (f : TxFrame) : (s.enqueue f).regs = s.regs := rfl
@[simp] theorem State.enqueue_mem (f : TxFrame) : (s.enqueue f).mem = s.mem := rfl
@[simp] theorem State.enqueue_poison (f : TxFrame) : (s.enqueue f).poison = s.poison := rfl
@[simp] theorem State.enqueue_clt (f : TxFrame) : (s.enqueue f).clt = s.clt := rfl
@[simp] theorem State.enqueue_shr (f : TxFrame) : (s.enqueue f).shr = s.shr := rfl
@[simp] theorem State.enqueue_tick (f : TxFrame) : (s.enqueue f).tick = s.tick := rfl
@[simp] theorem State.enqueue_chip (f : TxFrame) : (s.enqueue f).chip = s.chip := rfl
@[simp] theorem State.enqueue_flt (f : TxFrame) : (s.enqueue f).flt = s.flt := rfl
@[simp] theorem State.enqueue_mbx (f : TxFrame) : (s.enqueue f).mbx = s.mbx := rfl
@[simp] theorem State.enqueue_abt (f : TxFrame) : (s.enqueue f).abt = s.abt := rfl
@[simp] theorem State.enqueue_cns (f : TxFrame) : (s.enqueue f).cns = s.cns := rfl
@[simp] theorem State.enqueue_boot (f : TxFrame) : (s.enqueue f).boot = s.boot := rfl
@[simp] theorem State.enqueue_cal (f : TxFrame) : (s.enqueue f).cal = s.cal := rfl
@[simp] theorem State.enqueue_pwr (f : TxFrame) : (s.enqueue f).pwr = s.pwr := rfl
@[simp] theorem State.enqueue_mod (f : TxFrame) : (s.enqueue f).mod = s.mod := rfl
@[simp] theorem State.enqueue_sail (f : TxFrame) : (s.enqueue f).sail = s.sail := rfl
@[simp] theorem State.enqueue_red (f : TxFrame) : (s.enqueue f).red = s.red := rfl
@[simp] theorem State.enqueue_fair (f : TxFrame) : (s.enqueue f).fair = s.fair := rfl
@[simp] theorem State.enqueue_hbm (f : TxFrame) : (s.enqueue f).hbm = s.hbm := rfl
@[simp] theorem State.enqueue_fab (f : TxFrame) : (s.enqueue f).fab = s.fab := rfl
@[simp] theorem State.enqueue_tk (f : TxFrame) : (s.enqueue f).tk = s.tk := rfl
@[simp] theorem State.enqueue_jibs (f : TxFrame) : (s.enqueue f).jibs = s.jibs := rfl
@[simp] theorem State.enqueue_hal (f : TxFrame) : (s.enqueue f).hal = s.hal := rfl
@[simp] theorem State.enqueue_secs (f : TxFrame) : (s.enqueue f).secs = s.secs := rfl
@[simp] theorem State.enqueue_loader (f : TxFrame) : (s.enqueue f).loader = s.loader := rfl
@[simp] theorem State.enqueue_sec (f : TxFrame) : (s.enqueue f).sec = s.sec := rfl
@[simp] theorem State.enqueue_refs (f : TxFrame) : (s.enqueue f).refs = s.refs := rfl
@[simp] theorem State.enqueue_free (f : TxFrame) : (s.enqueue f).free = s.free := rfl
@[simp] theorem State.enqueue_pending (f : TxFrame) : (s.enqueue f).pending = s.pending := rfl

/-! ### setMailbox -/

@[simp] theorem State.setMailbox_fuses (i : Nat) (x : Mailbox) : (s.setMailbox i x).fuses = s.fuses := rfl
@[simp] theorem State.setMailbox_regs (i : Nat) (x : Mailbox) : (s.setMailbox i x).regs = s.regs := rfl
@[simp] theorem State.setMailbox_mem (i : Nat) (x : Mailbox) : (s.setMailbox i x).mem = s.mem := rfl
@[simp] theorem State.setMailbox_poison (i : Nat) (x : Mailbox) : (s.setMailbox i x).poison = s.poison := rfl
@[simp] theorem State.setMailbox_clt (i : Nat) (x : Mailbox) : (s.setMailbox i x).clt = s.clt := rfl
@[simp] theorem State.setMailbox_shr (i : Nat) (x : Mailbox) : (s.setMailbox i x).shr = s.shr := rfl
@[simp] theorem State.setMailbox_tick (i : Nat) (x : Mailbox) : (s.setMailbox i x).tick = s.tick := rfl
@[simp] theorem State.setMailbox_chip (i : Nat) (x : Mailbox) : (s.setMailbox i x).chip = s.chip := rfl
@[simp] theorem State.setMailbox_flt (i : Nat) (x : Mailbox) : (s.setMailbox i x).flt = s.flt := rfl
@[simp] theorem State.setMailbox_net (i : Nat) (x : Mailbox) : (s.setMailbox i x).net = s.net := rfl
@[simp] theorem State.setMailbox_abt (i : Nat) (x : Mailbox) : (s.setMailbox i x).abt = s.abt := rfl
@[simp] theorem State.setMailbox_cns (i : Nat) (x : Mailbox) : (s.setMailbox i x).cns = s.cns := rfl
@[simp] theorem State.setMailbox_boot (i : Nat) (x : Mailbox) : (s.setMailbox i x).boot = s.boot := rfl
@[simp] theorem State.setMailbox_cal (i : Nat) (x : Mailbox) : (s.setMailbox i x).cal = s.cal := rfl
@[simp] theorem State.setMailbox_pwr (i : Nat) (x : Mailbox) : (s.setMailbox i x).pwr = s.pwr := rfl
@[simp] theorem State.setMailbox_mod (i : Nat) (x : Mailbox) : (s.setMailbox i x).mod = s.mod := rfl
@[simp] theorem State.setMailbox_sail (i : Nat) (x : Mailbox) : (s.setMailbox i x).sail = s.sail := rfl
@[simp] theorem State.setMailbox_red (i : Nat) (x : Mailbox) : (s.setMailbox i x).red = s.red := rfl
@[simp] theorem State.setMailbox_fair (i : Nat) (x : Mailbox) : (s.setMailbox i x).fair = s.fair := rfl
@[simp] theorem State.setMailbox_hbm (i : Nat) (x : Mailbox) : (s.setMailbox i x).hbm = s.hbm := rfl
@[simp] theorem State.setMailbox_fab (i : Nat) (x : Mailbox) : (s.setMailbox i x).fab = s.fab := rfl
@[simp] theorem State.setMailbox_tk (i : Nat) (x : Mailbox) : (s.setMailbox i x).tk = s.tk := rfl
@[simp] theorem State.setMailbox_jibs (i : Nat) (x : Mailbox) : (s.setMailbox i x).jibs = s.jibs := rfl
@[simp] theorem State.setMailbox_hal (i : Nat) (x : Mailbox) : (s.setMailbox i x).hal = s.hal := rfl
@[simp] theorem State.setMailbox_secs (i : Nat) (x : Mailbox) : (s.setMailbox i x).secs = s.secs := rfl
@[simp] theorem State.setMailbox_loader (i : Nat) (x : Mailbox) : (s.setMailbox i x).loader = s.loader := rfl
@[simp] theorem State.setMailbox_sec (i : Nat) (x : Mailbox) : (s.setMailbox i x).sec = s.sec := rfl
@[simp] theorem State.setMailbox_refs (i : Nat) (x : Mailbox) : (s.setMailbox i x).refs = s.refs := rfl
@[simp] theorem State.setMailbox_free (i : Nat) (x : Mailbox) : (s.setMailbox i x).free = s.free := rfl
@[simp] theorem State.setMailbox_pending (i : Nat) (x : Mailbox) : (s.setMailbox i x).pending = s.pending := rfl

/-! ### setCleat -/

@[simp] theorem State.setCleat_fuses (i : Nat) (c : Cleat) : (s.setCleat i c).fuses = s.fuses := rfl
@[simp] theorem State.setCleat_regs (i : Nat) (c : Cleat) : (s.setCleat i c).regs = s.regs := rfl
@[simp] theorem State.setCleat_mem (i : Nat) (c : Cleat) : (s.setCleat i c).mem = s.mem := rfl
@[simp] theorem State.setCleat_poison (i : Nat) (c : Cleat) : (s.setCleat i c).poison = s.poison := rfl
@[simp] theorem State.setCleat_shr (i : Nat) (c : Cleat) : (s.setCleat i c).shr = s.shr := rfl
@[simp] theorem State.setCleat_tick (i : Nat) (c : Cleat) : (s.setCleat i c).tick = s.tick := rfl
@[simp] theorem State.setCleat_chip (i : Nat) (c : Cleat) : (s.setCleat i c).chip = s.chip := rfl
@[simp] theorem State.setCleat_flt (i : Nat) (c : Cleat) : (s.setCleat i c).flt = s.flt := rfl
@[simp] theorem State.setCleat_net (i : Nat) (c : Cleat) : (s.setCleat i c).net = s.net := rfl
@[simp] theorem State.setCleat_mbx (i : Nat) (c : Cleat) : (s.setCleat i c).mbx = s.mbx := rfl
@[simp] theorem State.setCleat_abt (i : Nat) (c : Cleat) : (s.setCleat i c).abt = s.abt := rfl
@[simp] theorem State.setCleat_cns (i : Nat) (c : Cleat) : (s.setCleat i c).cns = s.cns := rfl
@[simp] theorem State.setCleat_boot (i : Nat) (c : Cleat) : (s.setCleat i c).boot = s.boot := rfl
@[simp] theorem State.setCleat_cal (i : Nat) (c : Cleat) : (s.setCleat i c).cal = s.cal := rfl
@[simp] theorem State.setCleat_pwr (i : Nat) (c : Cleat) : (s.setCleat i c).pwr = s.pwr := rfl
@[simp] theorem State.setCleat_mod (i : Nat) (c : Cleat) : (s.setCleat i c).mod = s.mod := rfl
@[simp] theorem State.setCleat_sail (i : Nat) (c : Cleat) : (s.setCleat i c).sail = s.sail := rfl
@[simp] theorem State.setCleat_red (i : Nat) (c : Cleat) : (s.setCleat i c).red = s.red := rfl
@[simp] theorem State.setCleat_fair (i : Nat) (c : Cleat) : (s.setCleat i c).fair = s.fair := rfl
@[simp] theorem State.setCleat_hbm (i : Nat) (c : Cleat) : (s.setCleat i c).hbm = s.hbm := rfl
@[simp] theorem State.setCleat_fab (i : Nat) (c : Cleat) : (s.setCleat i c).fab = s.fab := rfl
@[simp] theorem State.setCleat_tk (i : Nat) (c : Cleat) : (s.setCleat i c).tk = s.tk := rfl
@[simp] theorem State.setCleat_jibs (i : Nat) (c : Cleat) : (s.setCleat i c).jibs = s.jibs := rfl
@[simp] theorem State.setCleat_hal (i : Nat) (c : Cleat) : (s.setCleat i c).hal = s.hal := rfl
@[simp] theorem State.setCleat_secs (i : Nat) (c : Cleat) : (s.setCleat i c).secs = s.secs := rfl
@[simp] theorem State.setCleat_loader (i : Nat) (c : Cleat) : (s.setCleat i c).loader = s.loader := rfl
@[simp] theorem State.setCleat_sec (i : Nat) (c : Cleat) : (s.setCleat i c).sec = s.sec := rfl
@[simp] theorem State.setCleat_refs (i : Nat) (c : Cleat) : (s.setCleat i c).refs = s.refs := rfl
@[simp] theorem State.setCleat_free (i : Nat) (c : Cleat) : (s.setCleat i c).free = s.free := rfl
@[simp] theorem State.setCleat_pending (i : Nat) (c : Cleat) : (s.setCleat i c).pending = s.pending := rfl

/-! ### setShr -/

@[simp] theorem State.setShr_fuses (g : Nat) (x : ShrGroup) : (s.setShr g x).fuses = s.fuses := rfl
@[simp] theorem State.setShr_regs (g : Nat) (x : ShrGroup) : (s.setShr g x).regs = s.regs := rfl
@[simp] theorem State.setShr_mem (g : Nat) (x : ShrGroup) : (s.setShr g x).mem = s.mem := rfl
@[simp] theorem State.setShr_poison (g : Nat) (x : ShrGroup) : (s.setShr g x).poison = s.poison := rfl
@[simp] theorem State.setShr_clt (g : Nat) (x : ShrGroup) : (s.setShr g x).clt = s.clt := rfl
@[simp] theorem State.setShr_tick (g : Nat) (x : ShrGroup) : (s.setShr g x).tick = s.tick := rfl
@[simp] theorem State.setShr_chip (g : Nat) (x : ShrGroup) : (s.setShr g x).chip = s.chip := rfl
@[simp] theorem State.setShr_flt (g : Nat) (x : ShrGroup) : (s.setShr g x).flt = s.flt := rfl
@[simp] theorem State.setShr_net (g : Nat) (x : ShrGroup) : (s.setShr g x).net = s.net := rfl
@[simp] theorem State.setShr_mbx (g : Nat) (x : ShrGroup) : (s.setShr g x).mbx = s.mbx := rfl
@[simp] theorem State.setShr_abt (g : Nat) (x : ShrGroup) : (s.setShr g x).abt = s.abt := rfl
@[simp] theorem State.setShr_cns (g : Nat) (x : ShrGroup) : (s.setShr g x).cns = s.cns := rfl
@[simp] theorem State.setShr_boot (g : Nat) (x : ShrGroup) : (s.setShr g x).boot = s.boot := rfl
@[simp] theorem State.setShr_cal (g : Nat) (x : ShrGroup) : (s.setShr g x).cal = s.cal := rfl
@[simp] theorem State.setShr_pwr (g : Nat) (x : ShrGroup) : (s.setShr g x).pwr = s.pwr := rfl
@[simp] theorem State.setShr_mod (g : Nat) (x : ShrGroup) : (s.setShr g x).mod = s.mod := rfl
@[simp] theorem State.setShr_sail (g : Nat) (x : ShrGroup) : (s.setShr g x).sail = s.sail := rfl
@[simp] theorem State.setShr_red (g : Nat) (x : ShrGroup) : (s.setShr g x).red = s.red := rfl
@[simp] theorem State.setShr_fair (g : Nat) (x : ShrGroup) : (s.setShr g x).fair = s.fair := rfl
@[simp] theorem State.setShr_hbm (g : Nat) (x : ShrGroup) : (s.setShr g x).hbm = s.hbm := rfl
@[simp] theorem State.setShr_fab (g : Nat) (x : ShrGroup) : (s.setShr g x).fab = s.fab := rfl
@[simp] theorem State.setShr_tk (g : Nat) (x : ShrGroup) : (s.setShr g x).tk = s.tk := rfl
@[simp] theorem State.setShr_jibs (g : Nat) (x : ShrGroup) : (s.setShr g x).jibs = s.jibs := rfl
@[simp] theorem State.setShr_hal (g : Nat) (x : ShrGroup) : (s.setShr g x).hal = s.hal := rfl
@[simp] theorem State.setShr_secs (g : Nat) (x : ShrGroup) : (s.setShr g x).secs = s.secs := rfl
@[simp] theorem State.setShr_loader (g : Nat) (x : ShrGroup) : (s.setShr g x).loader = s.loader := rfl
@[simp] theorem State.setShr_sec (g : Nat) (x : ShrGroup) : (s.setShr g x).sec = s.sec := rfl
@[simp] theorem State.setShr_refs (g : Nat) (x : ShrGroup) : (s.setShr g x).refs = s.refs := rfl
@[simp] theorem State.setShr_free (g : Nat) (x : ShrGroup) : (s.setShr g x).free = s.free := rfl
@[simp] theorem State.setShr_pending (g : Nat) (x : ShrGroup) : (s.setShr g x).pending = s.pending := rfl

/-! ### setFabric -/

@[simp] theorem State.setFabric_fuses (m : Nat) (x : Fabric) : (s.setFabric m x).fuses = s.fuses := rfl
@[simp] theorem State.setFabric_regs (m : Nat) (x : Fabric) : (s.setFabric m x).regs = s.regs := rfl
@[simp] theorem State.setFabric_mem (m : Nat) (x : Fabric) : (s.setFabric m x).mem = s.mem := rfl
@[simp] theorem State.setFabric_poison (m : Nat) (x : Fabric) : (s.setFabric m x).poison = s.poison := rfl
@[simp] theorem State.setFabric_clt (m : Nat) (x : Fabric) : (s.setFabric m x).clt = s.clt := rfl
@[simp] theorem State.setFabric_shr (m : Nat) (x : Fabric) : (s.setFabric m x).shr = s.shr := rfl
@[simp] theorem State.setFabric_tick (m : Nat) (x : Fabric) : (s.setFabric m x).tick = s.tick := rfl
@[simp] theorem State.setFabric_chip (m : Nat) (x : Fabric) : (s.setFabric m x).chip = s.chip := rfl
@[simp] theorem State.setFabric_flt (m : Nat) (x : Fabric) : (s.setFabric m x).flt = s.flt := rfl
@[simp] theorem State.setFabric_net (m : Nat) (x : Fabric) : (s.setFabric m x).net = s.net := rfl
@[simp] theorem State.setFabric_mbx (m : Nat) (x : Fabric) : (s.setFabric m x).mbx = s.mbx := rfl
@[simp] theorem State.setFabric_abt (m : Nat) (x : Fabric) : (s.setFabric m x).abt = s.abt := rfl
@[simp] theorem State.setFabric_cns (m : Nat) (x : Fabric) : (s.setFabric m x).cns = s.cns := rfl
@[simp] theorem State.setFabric_boot (m : Nat) (x : Fabric) : (s.setFabric m x).boot = s.boot := rfl
@[simp] theorem State.setFabric_cal (m : Nat) (x : Fabric) : (s.setFabric m x).cal = s.cal := rfl
@[simp] theorem State.setFabric_pwr (m : Nat) (x : Fabric) : (s.setFabric m x).pwr = s.pwr := rfl
@[simp] theorem State.setFabric_mod (m : Nat) (x : Fabric) : (s.setFabric m x).mod = s.mod := rfl
@[simp] theorem State.setFabric_sail (m : Nat) (x : Fabric) : (s.setFabric m x).sail = s.sail := rfl
@[simp] theorem State.setFabric_red (m : Nat) (x : Fabric) : (s.setFabric m x).red = s.red := rfl
@[simp] theorem State.setFabric_fair (m : Nat) (x : Fabric) : (s.setFabric m x).fair = s.fair := rfl
@[simp] theorem State.setFabric_hbm (m : Nat) (x : Fabric) : (s.setFabric m x).hbm = s.hbm := rfl
@[simp] theorem State.setFabric_tk (m : Nat) (x : Fabric) : (s.setFabric m x).tk = s.tk := rfl
@[simp] theorem State.setFabric_jibs (m : Nat) (x : Fabric) : (s.setFabric m x).jibs = s.jibs := rfl
@[simp] theorem State.setFabric_hal (m : Nat) (x : Fabric) : (s.setFabric m x).hal = s.hal := rfl
@[simp] theorem State.setFabric_secs (m : Nat) (x : Fabric) : (s.setFabric m x).secs = s.secs := rfl
@[simp] theorem State.setFabric_loader (m : Nat) (x : Fabric) : (s.setFabric m x).loader = s.loader := rfl
@[simp] theorem State.setFabric_sec (m : Nat) (x : Fabric) : (s.setFabric m x).sec = s.sec := rfl
@[simp] theorem State.setFabric_refs (m : Nat) (x : Fabric) : (s.setFabric m x).refs = s.refs := rfl
@[simp] theorem State.setFabric_free (m : Nat) (x : Fabric) : (s.setFabric m x).free = s.free := rfl
@[simp] theorem State.setFabric_pending (m : Nat) (x : Fabric) : (s.setFabric m x).pending = s.pending := rfl

/-! ### setSheave -/

@[simp] theorem State.setSheave_fuses (m n : Nat) (x : Sheave) : (s.setSheave m n x).fuses = s.fuses := rfl
@[simp] theorem State.setSheave_regs (m n : Nat) (x : Sheave) : (s.setSheave m n x).regs = s.regs := rfl
@[simp] theorem State.setSheave_mem (m n : Nat) (x : Sheave) : (s.setSheave m n x).mem = s.mem := rfl
@[simp] theorem State.setSheave_poison (m n : Nat) (x : Sheave) : (s.setSheave m n x).poison = s.poison := rfl
@[simp] theorem State.setSheave_clt (m n : Nat) (x : Sheave) : (s.setSheave m n x).clt = s.clt := rfl
@[simp] theorem State.setSheave_shr (m n : Nat) (x : Sheave) : (s.setSheave m n x).shr = s.shr := rfl
@[simp] theorem State.setSheave_tick (m n : Nat) (x : Sheave) : (s.setSheave m n x).tick = s.tick := rfl
@[simp] theorem State.setSheave_chip (m n : Nat) (x : Sheave) : (s.setSheave m n x).chip = s.chip := rfl
@[simp] theorem State.setSheave_flt (m n : Nat) (x : Sheave) : (s.setSheave m n x).flt = s.flt := rfl
@[simp] theorem State.setSheave_net (m n : Nat) (x : Sheave) : (s.setSheave m n x).net = s.net := rfl
@[simp] theorem State.setSheave_mbx (m n : Nat) (x : Sheave) : (s.setSheave m n x).mbx = s.mbx := rfl
@[simp] theorem State.setSheave_abt (m n : Nat) (x : Sheave) : (s.setSheave m n x).abt = s.abt := rfl
@[simp] theorem State.setSheave_cns (m n : Nat) (x : Sheave) : (s.setSheave m n x).cns = s.cns := rfl
@[simp] theorem State.setSheave_boot (m n : Nat) (x : Sheave) : (s.setSheave m n x).boot = s.boot := rfl
@[simp] theorem State.setSheave_cal (m n : Nat) (x : Sheave) : (s.setSheave m n x).cal = s.cal := rfl
@[simp] theorem State.setSheave_pwr (m n : Nat) (x : Sheave) : (s.setSheave m n x).pwr = s.pwr := rfl
@[simp] theorem State.setSheave_mod (m n : Nat) (x : Sheave) : (s.setSheave m n x).mod = s.mod := rfl
@[simp] theorem State.setSheave_sail (m n : Nat) (x : Sheave) : (s.setSheave m n x).sail = s.sail := rfl
@[simp] theorem State.setSheave_red (m n : Nat) (x : Sheave) : (s.setSheave m n x).red = s.red := rfl
@[simp] theorem State.setSheave_fair (m n : Nat) (x : Sheave) : (s.setSheave m n x).fair = s.fair := rfl
@[simp] theorem State.setSheave_hbm (m n : Nat) (x : Sheave) : (s.setSheave m n x).hbm = s.hbm := rfl
@[simp] theorem State.setSheave_tk (m n : Nat) (x : Sheave) : (s.setSheave m n x).tk = s.tk := rfl
@[simp] theorem State.setSheave_jibs (m n : Nat) (x : Sheave) : (s.setSheave m n x).jibs = s.jibs := rfl
@[simp] theorem State.setSheave_hal (m n : Nat) (x : Sheave) : (s.setSheave m n x).hal = s.hal := rfl
@[simp] theorem State.setSheave_secs (m n : Nat) (x : Sheave) : (s.setSheave m n x).secs = s.secs := rfl
@[simp] theorem State.setSheave_loader (m n : Nat) (x : Sheave) : (s.setSheave m n x).loader = s.loader := rfl
@[simp] theorem State.setSheave_sec (m n : Nat) (x : Sheave) : (s.setSheave m n x).sec = s.sec := rfl
@[simp] theorem State.setSheave_refs (m n : Nat) (x : Sheave) : (s.setSheave m n x).refs = s.refs := rfl
@[simp] theorem State.setSheave_free (m n : Nat) (x : Sheave) : (s.setSheave m n x).free = s.free := rfl
@[simp] theorem State.setSheave_pending (m n : Nat) (x : Sheave) : (s.setSheave m n x).pending = s.pending := rfl

/-! ### setFl -/

@[simp] theorem State.setFl_fuses (f : Nat) (x : Fairlead) : (s.setFl f x).fuses = s.fuses := rfl
@[simp] theorem State.setFl_regs (f : Nat) (x : Fairlead) : (s.setFl f x).regs = s.regs := rfl
@[simp] theorem State.setFl_mem (f : Nat) (x : Fairlead) : (s.setFl f x).mem = s.mem := rfl
@[simp] theorem State.setFl_poison (f : Nat) (x : Fairlead) : (s.setFl f x).poison = s.poison := rfl
@[simp] theorem State.setFl_clt (f : Nat) (x : Fairlead) : (s.setFl f x).clt = s.clt := rfl
@[simp] theorem State.setFl_shr (f : Nat) (x : Fairlead) : (s.setFl f x).shr = s.shr := rfl
@[simp] theorem State.setFl_tick (f : Nat) (x : Fairlead) : (s.setFl f x).tick = s.tick := rfl
@[simp] theorem State.setFl_chip (f : Nat) (x : Fairlead) : (s.setFl f x).chip = s.chip := rfl
@[simp] theorem State.setFl_flt (f : Nat) (x : Fairlead) : (s.setFl f x).flt = s.flt := rfl
@[simp] theorem State.setFl_net (f : Nat) (x : Fairlead) : (s.setFl f x).net = s.net := rfl
@[simp] theorem State.setFl_mbx (f : Nat) (x : Fairlead) : (s.setFl f x).mbx = s.mbx := rfl
@[simp] theorem State.setFl_abt (f : Nat) (x : Fairlead) : (s.setFl f x).abt = s.abt := rfl
@[simp] theorem State.setFl_cns (f : Nat) (x : Fairlead) : (s.setFl f x).cns = s.cns := rfl
@[simp] theorem State.setFl_boot (f : Nat) (x : Fairlead) : (s.setFl f x).boot = s.boot := rfl
@[simp] theorem State.setFl_cal (f : Nat) (x : Fairlead) : (s.setFl f x).cal = s.cal := rfl
@[simp] theorem State.setFl_pwr (f : Nat) (x : Fairlead) : (s.setFl f x).pwr = s.pwr := rfl
@[simp] theorem State.setFl_mod (f : Nat) (x : Fairlead) : (s.setFl f x).mod = s.mod := rfl
@[simp] theorem State.setFl_sail (f : Nat) (x : Fairlead) : (s.setFl f x).sail = s.sail := rfl
@[simp] theorem State.setFl_red (f : Nat) (x : Fairlead) : (s.setFl f x).red = s.red := rfl
@[simp] theorem State.setFl_hbm (f : Nat) (x : Fairlead) : (s.setFl f x).hbm = s.hbm := rfl
@[simp] theorem State.setFl_fab (f : Nat) (x : Fairlead) : (s.setFl f x).fab = s.fab := rfl
@[simp] theorem State.setFl_tk (f : Nat) (x : Fairlead) : (s.setFl f x).tk = s.tk := rfl
@[simp] theorem State.setFl_jibs (f : Nat) (x : Fairlead) : (s.setFl f x).jibs = s.jibs := rfl
@[simp] theorem State.setFl_hal (f : Nat) (x : Fairlead) : (s.setFl f x).hal = s.hal := rfl
@[simp] theorem State.setFl_secs (f : Nat) (x : Fairlead) : (s.setFl f x).secs = s.secs := rfl
@[simp] theorem State.setFl_loader (f : Nat) (x : Fairlead) : (s.setFl f x).loader = s.loader := rfl
@[simp] theorem State.setFl_sec (f : Nat) (x : Fairlead) : (s.setFl f x).sec = s.sec := rfl
@[simp] theorem State.setFl_refs (f : Nat) (x : Fairlead) : (s.setFl f x).refs = s.refs := rfl
@[simp] theorem State.setFl_free (f : Nat) (x : Fairlead) : (s.setFl f x).free = s.free := rfl
@[simp] theorem State.setFl_pending (f : Nat) (x : Fairlead) : (s.setFl f x).pending = s.pending := rfl

/-! ### setChan -/

@[simp] theorem State.setChan_fuses (e : Nat) (x : HalChan) : (s.setChan e x).fuses = s.fuses := rfl
@[simp] theorem State.setChan_regs (e : Nat) (x : HalChan) : (s.setChan e x).regs = s.regs := rfl
@[simp] theorem State.setChan_mem (e : Nat) (x : HalChan) : (s.setChan e x).mem = s.mem := rfl
@[simp] theorem State.setChan_poison (e : Nat) (x : HalChan) : (s.setChan e x).poison = s.poison := rfl
@[simp] theorem State.setChan_clt (e : Nat) (x : HalChan) : (s.setChan e x).clt = s.clt := rfl
@[simp] theorem State.setChan_shr (e : Nat) (x : HalChan) : (s.setChan e x).shr = s.shr := rfl
@[simp] theorem State.setChan_tick (e : Nat) (x : HalChan) : (s.setChan e x).tick = s.tick := rfl
@[simp] theorem State.setChan_chip (e : Nat) (x : HalChan) : (s.setChan e x).chip = s.chip := rfl
@[simp] theorem State.setChan_flt (e : Nat) (x : HalChan) : (s.setChan e x).flt = s.flt := rfl
@[simp] theorem State.setChan_net (e : Nat) (x : HalChan) : (s.setChan e x).net = s.net := rfl
@[simp] theorem State.setChan_mbx (e : Nat) (x : HalChan) : (s.setChan e x).mbx = s.mbx := rfl
@[simp] theorem State.setChan_abt (e : Nat) (x : HalChan) : (s.setChan e x).abt = s.abt := rfl
@[simp] theorem State.setChan_cns (e : Nat) (x : HalChan) : (s.setChan e x).cns = s.cns := rfl
@[simp] theorem State.setChan_boot (e : Nat) (x : HalChan) : (s.setChan e x).boot = s.boot := rfl
@[simp] theorem State.setChan_cal (e : Nat) (x : HalChan) : (s.setChan e x).cal = s.cal := rfl
@[simp] theorem State.setChan_pwr (e : Nat) (x : HalChan) : (s.setChan e x).pwr = s.pwr := rfl
@[simp] theorem State.setChan_mod (e : Nat) (x : HalChan) : (s.setChan e x).mod = s.mod := rfl
@[simp] theorem State.setChan_sail (e : Nat) (x : HalChan) : (s.setChan e x).sail = s.sail := rfl
@[simp] theorem State.setChan_red (e : Nat) (x : HalChan) : (s.setChan e x).red = s.red := rfl
@[simp] theorem State.setChan_fair (e : Nat) (x : HalChan) : (s.setChan e x).fair = s.fair := rfl
@[simp] theorem State.setChan_hbm (e : Nat) (x : HalChan) : (s.setChan e x).hbm = s.hbm := rfl
@[simp] theorem State.setChan_fab (e : Nat) (x : HalChan) : (s.setChan e x).fab = s.fab := rfl
@[simp] theorem State.setChan_tk (e : Nat) (x : HalChan) : (s.setChan e x).tk = s.tk := rfl
@[simp] theorem State.setChan_jibs (e : Nat) (x : HalChan) : (s.setChan e x).jibs = s.jibs := rfl
@[simp] theorem State.setChan_secs (e : Nat) (x : HalChan) : (s.setChan e x).secs = s.secs := rfl
@[simp] theorem State.setChan_loader (e : Nat) (x : HalChan) : (s.setChan e x).loader = s.loader := rfl
@[simp] theorem State.setChan_sec (e : Nat) (x : HalChan) : (s.setChan e x).sec = s.sec := rfl
@[simp] theorem State.setChan_refs (e : Nat) (x : HalChan) : (s.setChan e x).refs = s.refs := rfl
@[simp] theorem State.setChan_free (e : Nat) (x : HalChan) : (s.setChan e x).free = s.free := rfl
@[simp] theorem State.setChan_pending (e : Nat) (x : HalChan) : (s.setChan e x).pending = s.pending := rfl

/-! ### setJob -/

@[simp] theorem State.setJob_fuses (o i : Nat) (x : SendJob) : (s.setJob o i x).fuses = s.fuses := rfl
@[simp] theorem State.setJob_regs (o i : Nat) (x : SendJob) : (s.setJob o i x).regs = s.regs := rfl
@[simp] theorem State.setJob_mem (o i : Nat) (x : SendJob) : (s.setJob o i x).mem = s.mem := rfl
@[simp] theorem State.setJob_poison (o i : Nat) (x : SendJob) : (s.setJob o i x).poison = s.poison := rfl
@[simp] theorem State.setJob_clt (o i : Nat) (x : SendJob) : (s.setJob o i x).clt = s.clt := rfl
@[simp] theorem State.setJob_shr (o i : Nat) (x : SendJob) : (s.setJob o i x).shr = s.shr := rfl
@[simp] theorem State.setJob_tick (o i : Nat) (x : SendJob) : (s.setJob o i x).tick = s.tick := rfl
@[simp] theorem State.setJob_chip (o i : Nat) (x : SendJob) : (s.setJob o i x).chip = s.chip := rfl
@[simp] theorem State.setJob_flt (o i : Nat) (x : SendJob) : (s.setJob o i x).flt = s.flt := rfl
@[simp] theorem State.setJob_net (o i : Nat) (x : SendJob) : (s.setJob o i x).net = s.net := rfl
@[simp] theorem State.setJob_mbx (o i : Nat) (x : SendJob) : (s.setJob o i x).mbx = s.mbx := rfl
@[simp] theorem State.setJob_abt (o i : Nat) (x : SendJob) : (s.setJob o i x).abt = s.abt := rfl
@[simp] theorem State.setJob_cns (o i : Nat) (x : SendJob) : (s.setJob o i x).cns = s.cns := rfl
@[simp] theorem State.setJob_boot (o i : Nat) (x : SendJob) : (s.setJob o i x).boot = s.boot := rfl
@[simp] theorem State.setJob_cal (o i : Nat) (x : SendJob) : (s.setJob o i x).cal = s.cal := rfl
@[simp] theorem State.setJob_pwr (o i : Nat) (x : SendJob) : (s.setJob o i x).pwr = s.pwr := rfl
@[simp] theorem State.setJob_mod (o i : Nat) (x : SendJob) : (s.setJob o i x).mod = s.mod := rfl
@[simp] theorem State.setJob_sail (o i : Nat) (x : SendJob) : (s.setJob o i x).sail = s.sail := rfl
@[simp] theorem State.setJob_red (o i : Nat) (x : SendJob) : (s.setJob o i x).red = s.red := rfl
@[simp] theorem State.setJob_fair (o i : Nat) (x : SendJob) : (s.setJob o i x).fair = s.fair := rfl
@[simp] theorem State.setJob_hbm (o i : Nat) (x : SendJob) : (s.setJob o i x).hbm = s.hbm := rfl
@[simp] theorem State.setJob_fab (o i : Nat) (x : SendJob) : (s.setJob o i x).fab = s.fab := rfl
@[simp] theorem State.setJob_tk (o i : Nat) (x : SendJob) : (s.setJob o i x).tk = s.tk := rfl
@[simp] theorem State.setJob_jibs (o i : Nat) (x : SendJob) : (s.setJob o i x).jibs = s.jibs := rfl
@[simp] theorem State.setJob_secs (o i : Nat) (x : SendJob) : (s.setJob o i x).secs = s.secs := rfl
@[simp] theorem State.setJob_loader (o i : Nat) (x : SendJob) : (s.setJob o i x).loader = s.loader := rfl
@[simp] theorem State.setJob_sec (o i : Nat) (x : SendJob) : (s.setJob o i x).sec = s.sec := rfl
@[simp] theorem State.setJob_refs (o i : Nat) (x : SendJob) : (s.setJob o i x).refs = s.refs := rfl
@[simp] theorem State.setJob_free (o i : Nat) (x : SendJob) : (s.setJob o i x).free = s.free := rfl
@[simp] theorem State.setJob_pending (o i : Nat) (x : SendJob) : (s.setJob o i x).pending = s.pending := rfl

/-! ### setSlice -/

@[simp] theorem State.setSlice_fuses (h : Nat) (x : Slice) : (s.setSlice h x).fuses = s.fuses := rfl
@[simp] theorem State.setSlice_regs (h : Nat) (x : Slice) : (s.setSlice h x).regs = s.regs := rfl
@[simp] theorem State.setSlice_mem (h : Nat) (x : Slice) : (s.setSlice h x).mem = s.mem := rfl
@[simp] theorem State.setSlice_poison (h : Nat) (x : Slice) : (s.setSlice h x).poison = s.poison := rfl
@[simp] theorem State.setSlice_clt (h : Nat) (x : Slice) : (s.setSlice h x).clt = s.clt := rfl
@[simp] theorem State.setSlice_shr (h : Nat) (x : Slice) : (s.setSlice h x).shr = s.shr := rfl
@[simp] theorem State.setSlice_tick (h : Nat) (x : Slice) : (s.setSlice h x).tick = s.tick := rfl
@[simp] theorem State.setSlice_chip (h : Nat) (x : Slice) : (s.setSlice h x).chip = s.chip := rfl
@[simp] theorem State.setSlice_flt (h : Nat) (x : Slice) : (s.setSlice h x).flt = s.flt := rfl
@[simp] theorem State.setSlice_net (h : Nat) (x : Slice) : (s.setSlice h x).net = s.net := rfl
@[simp] theorem State.setSlice_mbx (h : Nat) (x : Slice) : (s.setSlice h x).mbx = s.mbx := rfl
@[simp] theorem State.setSlice_abt (h : Nat) (x : Slice) : (s.setSlice h x).abt = s.abt := rfl
@[simp] theorem State.setSlice_cns (h : Nat) (x : Slice) : (s.setSlice h x).cns = s.cns := rfl
@[simp] theorem State.setSlice_boot (h : Nat) (x : Slice) : (s.setSlice h x).boot = s.boot := rfl
@[simp] theorem State.setSlice_cal (h : Nat) (x : Slice) : (s.setSlice h x).cal = s.cal := rfl
@[simp] theorem State.setSlice_pwr (h : Nat) (x : Slice) : (s.setSlice h x).pwr = s.pwr := rfl
@[simp] theorem State.setSlice_mod (h : Nat) (x : Slice) : (s.setSlice h x).mod = s.mod := rfl
@[simp] theorem State.setSlice_sail (h : Nat) (x : Slice) : (s.setSlice h x).sail = s.sail := rfl
@[simp] theorem State.setSlice_red (h : Nat) (x : Slice) : (s.setSlice h x).red = s.red := rfl
@[simp] theorem State.setSlice_fair (h : Nat) (x : Slice) : (s.setSlice h x).fair = s.fair := rfl
@[simp] theorem State.setSlice_fab (h : Nat) (x : Slice) : (s.setSlice h x).fab = s.fab := rfl
@[simp] theorem State.setSlice_tk (h : Nat) (x : Slice) : (s.setSlice h x).tk = s.tk := rfl
@[simp] theorem State.setSlice_jibs (h : Nat) (x : Slice) : (s.setSlice h x).jibs = s.jibs := rfl
@[simp] theorem State.setSlice_hal (h : Nat) (x : Slice) : (s.setSlice h x).hal = s.hal := rfl
@[simp] theorem State.setSlice_secs (h : Nat) (x : Slice) : (s.setSlice h x).secs = s.secs := rfl
@[simp] theorem State.setSlice_loader (h : Nat) (x : Slice) : (s.setSlice h x).loader = s.loader := rfl
@[simp] theorem State.setSlice_sec (h : Nat) (x : Slice) : (s.setSlice h x).sec = s.sec := rfl
@[simp] theorem State.setSlice_refs (h : Nat) (x : Slice) : (s.setSlice h x).refs = s.refs := rfl
@[simp] theorem State.setSlice_free (h : Nat) (x : Slice) : (s.setSlice h x).free = s.free := rfl
@[simp] theorem State.setSlice_pending (h : Nat) (x : Slice) : (s.setSlice h x).pending = s.pending := rfl

/-! ### setJib -/

@[simp] theorem State.setJib_fuses (j : Nat) (x : JibSt) : (s.setJib j x).fuses = s.fuses := rfl
@[simp] theorem State.setJib_regs (j : Nat) (x : JibSt) : (s.setJib j x).regs = s.regs := rfl
@[simp] theorem State.setJib_mem (j : Nat) (x : JibSt) : (s.setJib j x).mem = s.mem := rfl
@[simp] theorem State.setJib_poison (j : Nat) (x : JibSt) : (s.setJib j x).poison = s.poison := rfl
@[simp] theorem State.setJib_clt (j : Nat) (x : JibSt) : (s.setJib j x).clt = s.clt := rfl
@[simp] theorem State.setJib_shr (j : Nat) (x : JibSt) : (s.setJib j x).shr = s.shr := rfl
@[simp] theorem State.setJib_tick (j : Nat) (x : JibSt) : (s.setJib j x).tick = s.tick := rfl
@[simp] theorem State.setJib_chip (j : Nat) (x : JibSt) : (s.setJib j x).chip = s.chip := rfl
@[simp] theorem State.setJib_flt (j : Nat) (x : JibSt) : (s.setJib j x).flt = s.flt := rfl
@[simp] theorem State.setJib_net (j : Nat) (x : JibSt) : (s.setJib j x).net = s.net := rfl
@[simp] theorem State.setJib_mbx (j : Nat) (x : JibSt) : (s.setJib j x).mbx = s.mbx := rfl
@[simp] theorem State.setJib_abt (j : Nat) (x : JibSt) : (s.setJib j x).abt = s.abt := rfl
@[simp] theorem State.setJib_cns (j : Nat) (x : JibSt) : (s.setJib j x).cns = s.cns := rfl
@[simp] theorem State.setJib_boot (j : Nat) (x : JibSt) : (s.setJib j x).boot = s.boot := rfl
@[simp] theorem State.setJib_cal (j : Nat) (x : JibSt) : (s.setJib j x).cal = s.cal := rfl
@[simp] theorem State.setJib_pwr (j : Nat) (x : JibSt) : (s.setJib j x).pwr = s.pwr := rfl
@[simp] theorem State.setJib_mod (j : Nat) (x : JibSt) : (s.setJib j x).mod = s.mod := rfl
@[simp] theorem State.setJib_sail (j : Nat) (x : JibSt) : (s.setJib j x).sail = s.sail := rfl
@[simp] theorem State.setJib_red (j : Nat) (x : JibSt) : (s.setJib j x).red = s.red := rfl
@[simp] theorem State.setJib_fair (j : Nat) (x : JibSt) : (s.setJib j x).fair = s.fair := rfl
@[simp] theorem State.setJib_hbm (j : Nat) (x : JibSt) : (s.setJib j x).hbm = s.hbm := rfl
@[simp] theorem State.setJib_fab (j : Nat) (x : JibSt) : (s.setJib j x).fab = s.fab := rfl
@[simp] theorem State.setJib_tk (j : Nat) (x : JibSt) : (s.setJib j x).tk = s.tk := rfl
@[simp] theorem State.setJib_hal (j : Nat) (x : JibSt) : (s.setJib j x).hal = s.hal := rfl
@[simp] theorem State.setJib_secs (j : Nat) (x : JibSt) : (s.setJib j x).secs = s.secs := rfl
@[simp] theorem State.setJib_loader (j : Nat) (x : JibSt) : (s.setJib j x).loader = s.loader := rfl
@[simp] theorem State.setJib_sec (j : Nat) (x : JibSt) : (s.setJib j x).sec = s.sec := rfl
@[simp] theorem State.setJib_refs (j : Nat) (x : JibSt) : (s.setJib j x).refs = s.refs := rfl
@[simp] theorem State.setJib_free (j : Nat) (x : JibSt) : (s.setJib j x).free = s.free := rfl
@[simp] theorem State.setJib_pending (j : Nat) (x : JibSt) : (s.setJib j x).pending = s.pending := rfl

/-! ### setStep -/

@[simp] theorem State.setStep_fuses (c : Nat) (x : StepSt) : (s.setStep c x).fuses = s.fuses := rfl
@[simp] theorem State.setStep_regs (c : Nat) (x : StepSt) : (s.setStep c x).regs = s.regs := rfl
@[simp] theorem State.setStep_mem (c : Nat) (x : StepSt) : (s.setStep c x).mem = s.mem := rfl
@[simp] theorem State.setStep_poison (c : Nat) (x : StepSt) : (s.setStep c x).poison = s.poison := rfl
@[simp] theorem State.setStep_clt (c : Nat) (x : StepSt) : (s.setStep c x).clt = s.clt := rfl
@[simp] theorem State.setStep_shr (c : Nat) (x : StepSt) : (s.setStep c x).shr = s.shr := rfl
@[simp] theorem State.setStep_chip (c : Nat) (x : StepSt) : (s.setStep c x).chip = s.chip := rfl
@[simp] theorem State.setStep_flt (c : Nat) (x : StepSt) : (s.setStep c x).flt = s.flt := rfl
@[simp] theorem State.setStep_net (c : Nat) (x : StepSt) : (s.setStep c x).net = s.net := rfl
@[simp] theorem State.setStep_mbx (c : Nat) (x : StepSt) : (s.setStep c x).mbx = s.mbx := rfl
@[simp] theorem State.setStep_abt (c : Nat) (x : StepSt) : (s.setStep c x).abt = s.abt := rfl
@[simp] theorem State.setStep_cns (c : Nat) (x : StepSt) : (s.setStep c x).cns = s.cns := rfl
@[simp] theorem State.setStep_boot (c : Nat) (x : StepSt) : (s.setStep c x).boot = s.boot := rfl
@[simp] theorem State.setStep_cal (c : Nat) (x : StepSt) : (s.setStep c x).cal = s.cal := rfl
@[simp] theorem State.setStep_pwr (c : Nat) (x : StepSt) : (s.setStep c x).pwr = s.pwr := rfl
@[simp] theorem State.setStep_mod (c : Nat) (x : StepSt) : (s.setStep c x).mod = s.mod := rfl
@[simp] theorem State.setStep_sail (c : Nat) (x : StepSt) : (s.setStep c x).sail = s.sail := rfl
@[simp] theorem State.setStep_red (c : Nat) (x : StepSt) : (s.setStep c x).red = s.red := rfl
@[simp] theorem State.setStep_fair (c : Nat) (x : StepSt) : (s.setStep c x).fair = s.fair := rfl
@[simp] theorem State.setStep_hbm (c : Nat) (x : StepSt) : (s.setStep c x).hbm = s.hbm := rfl
@[simp] theorem State.setStep_fab (c : Nat) (x : StepSt) : (s.setStep c x).fab = s.fab := rfl
@[simp] theorem State.setStep_tk (c : Nat) (x : StepSt) : (s.setStep c x).tk = s.tk := rfl
@[simp] theorem State.setStep_jibs (c : Nat) (x : StepSt) : (s.setStep c x).jibs = s.jibs := rfl
@[simp] theorem State.setStep_hal (c : Nat) (x : StepSt) : (s.setStep c x).hal = s.hal := rfl
@[simp] theorem State.setStep_secs (c : Nat) (x : StepSt) : (s.setStep c x).secs = s.secs := rfl
@[simp] theorem State.setStep_loader (c : Nat) (x : StepSt) : (s.setStep c x).loader = s.loader := rfl
@[simp] theorem State.setStep_sec (c : Nat) (x : StepSt) : (s.setStep c x).sec = s.sec := rfl
@[simp] theorem State.setStep_refs (c : Nat) (x : StepSt) : (s.setStep c x).refs = s.refs := rfl
@[simp] theorem State.setStep_free (c : Nat) (x : StepSt) : (s.setStep c x).free = s.free := rfl
@[simp] theorem State.setStep_pending (c : Nat) (x : StepSt) : (s.setStep c x).pending = s.pending := rfl

/-! ### setRound -/

@[simp] theorem State.setRound_fuses (e : Nat) (x : RoundSt) : (s.setRound e x).fuses = s.fuses := rfl
@[simp] theorem State.setRound_regs (e : Nat) (x : RoundSt) : (s.setRound e x).regs = s.regs := rfl
@[simp] theorem State.setRound_mem (e : Nat) (x : RoundSt) : (s.setRound e x).mem = s.mem := rfl
@[simp] theorem State.setRound_poison (e : Nat) (x : RoundSt) : (s.setRound e x).poison = s.poison := rfl
@[simp] theorem State.setRound_clt (e : Nat) (x : RoundSt) : (s.setRound e x).clt = s.clt := rfl
@[simp] theorem State.setRound_shr (e : Nat) (x : RoundSt) : (s.setRound e x).shr = s.shr := rfl
@[simp] theorem State.setRound_tick (e : Nat) (x : RoundSt) : (s.setRound e x).tick = s.tick := rfl
@[simp] theorem State.setRound_chip (e : Nat) (x : RoundSt) : (s.setRound e x).chip = s.chip := rfl
@[simp] theorem State.setRound_flt (e : Nat) (x : RoundSt) : (s.setRound e x).flt = s.flt := rfl
@[simp] theorem State.setRound_net (e : Nat) (x : RoundSt) : (s.setRound e x).net = s.net := rfl
@[simp] theorem State.setRound_mbx (e : Nat) (x : RoundSt) : (s.setRound e x).mbx = s.mbx := rfl
@[simp] theorem State.setRound_abt (e : Nat) (x : RoundSt) : (s.setRound e x).abt = s.abt := rfl
@[simp] theorem State.setRound_cns (e : Nat) (x : RoundSt) : (s.setRound e x).cns = s.cns := rfl
@[simp] theorem State.setRound_boot (e : Nat) (x : RoundSt) : (s.setRound e x).boot = s.boot := rfl
@[simp] theorem State.setRound_cal (e : Nat) (x : RoundSt) : (s.setRound e x).cal = s.cal := rfl
@[simp] theorem State.setRound_pwr (e : Nat) (x : RoundSt) : (s.setRound e x).pwr = s.pwr := rfl
@[simp] theorem State.setRound_mod (e : Nat) (x : RoundSt) : (s.setRound e x).mod = s.mod := rfl
@[simp] theorem State.setRound_sail (e : Nat) (x : RoundSt) : (s.setRound e x).sail = s.sail := rfl
@[simp] theorem State.setRound_fair (e : Nat) (x : RoundSt) : (s.setRound e x).fair = s.fair := rfl
@[simp] theorem State.setRound_hbm (e : Nat) (x : RoundSt) : (s.setRound e x).hbm = s.hbm := rfl
@[simp] theorem State.setRound_fab (e : Nat) (x : RoundSt) : (s.setRound e x).fab = s.fab := rfl
@[simp] theorem State.setRound_tk (e : Nat) (x : RoundSt) : (s.setRound e x).tk = s.tk := rfl
@[simp] theorem State.setRound_jibs (e : Nat) (x : RoundSt) : (s.setRound e x).jibs = s.jibs := rfl
@[simp] theorem State.setRound_hal (e : Nat) (x : RoundSt) : (s.setRound e x).hal = s.hal := rfl
@[simp] theorem State.setRound_secs (e : Nat) (x : RoundSt) : (s.setRound e x).secs = s.secs := rfl
@[simp] theorem State.setRound_loader (e : Nat) (x : RoundSt) : (s.setRound e x).loader = s.loader := rfl
@[simp] theorem State.setRound_sec (e : Nat) (x : RoundSt) : (s.setRound e x).sec = s.sec := rfl
@[simp] theorem State.setRound_refs (e : Nat) (x : RoundSt) : (s.setRound e x).refs = s.refs := rfl
@[simp] theorem State.setRound_free (e : Nat) (x : RoundSt) : (s.setRound e x).free = s.free := rfl
@[simp] theorem State.setRound_pending (e : Nat) (x : RoundSt) : (s.setRound e x).pending = s.pending := rfl

/-! ### setSect -/

@[simp] theorem State.setSect_fuses (c : Nat) (x : Section) : (s.setSect c x).fuses = s.fuses := rfl
@[simp] theorem State.setSect_regs (c : Nat) (x : Section) : (s.setSect c x).regs = s.regs := rfl
@[simp] theorem State.setSect_mem (c : Nat) (x : Section) : (s.setSect c x).mem = s.mem := rfl
@[simp] theorem State.setSect_poison (c : Nat) (x : Section) : (s.setSect c x).poison = s.poison := rfl
@[simp] theorem State.setSect_clt (c : Nat) (x : Section) : (s.setSect c x).clt = s.clt := rfl
@[simp] theorem State.setSect_shr (c : Nat) (x : Section) : (s.setSect c x).shr = s.shr := rfl
@[simp] theorem State.setSect_tick (c : Nat) (x : Section) : (s.setSect c x).tick = s.tick := rfl
@[simp] theorem State.setSect_chip (c : Nat) (x : Section) : (s.setSect c x).chip = s.chip := rfl
@[simp] theorem State.setSect_flt (c : Nat) (x : Section) : (s.setSect c x).flt = s.flt := rfl
@[simp] theorem State.setSect_net (c : Nat) (x : Section) : (s.setSect c x).net = s.net := rfl
@[simp] theorem State.setSect_mbx (c : Nat) (x : Section) : (s.setSect c x).mbx = s.mbx := rfl
@[simp] theorem State.setSect_abt (c : Nat) (x : Section) : (s.setSect c x).abt = s.abt := rfl
@[simp] theorem State.setSect_cns (c : Nat) (x : Section) : (s.setSect c x).cns = s.cns := rfl
@[simp] theorem State.setSect_boot (c : Nat) (x : Section) : (s.setSect c x).boot = s.boot := rfl
@[simp] theorem State.setSect_cal (c : Nat) (x : Section) : (s.setSect c x).cal = s.cal := rfl
@[simp] theorem State.setSect_pwr (c : Nat) (x : Section) : (s.setSect c x).pwr = s.pwr := rfl
@[simp] theorem State.setSect_mod (c : Nat) (x : Section) : (s.setSect c x).mod = s.mod := rfl
@[simp] theorem State.setSect_sail (c : Nat) (x : Section) : (s.setSect c x).sail = s.sail := rfl
@[simp] theorem State.setSect_red (c : Nat) (x : Section) : (s.setSect c x).red = s.red := rfl
@[simp] theorem State.setSect_fair (c : Nat) (x : Section) : (s.setSect c x).fair = s.fair := rfl
@[simp] theorem State.setSect_hbm (c : Nat) (x : Section) : (s.setSect c x).hbm = s.hbm := rfl
@[simp] theorem State.setSect_fab (c : Nat) (x : Section) : (s.setSect c x).fab = s.fab := rfl
@[simp] theorem State.setSect_tk (c : Nat) (x : Section) : (s.setSect c x).tk = s.tk := rfl
@[simp] theorem State.setSect_jibs (c : Nat) (x : Section) : (s.setSect c x).jibs = s.jibs := rfl
@[simp] theorem State.setSect_hal (c : Nat) (x : Section) : (s.setSect c x).hal = s.hal := rfl
@[simp] theorem State.setSect_loader (c : Nat) (x : Section) : (s.setSect c x).loader = s.loader := rfl
@[simp] theorem State.setSect_sec (c : Nat) (x : Section) : (s.setSect c x).sec = s.sec := rfl
@[simp] theorem State.setSect_refs (c : Nat) (x : Section) : (s.setSect c x).refs = s.refs := rfl
@[simp] theorem State.setSect_free (c : Nat) (x : Section) : (s.setSect c x).free = s.free := rfl
@[simp] theorem State.setSect_pending (c : Nat) (x : Section) : (s.setSect c x).pending = s.pending := rfl

/-! ### setCoilSt -/

@[simp] theorem State.setCoilSt_fuses (m k : Nat) (x : CoilSt) : (s.setCoilSt m k x).fuses = s.fuses := rfl
@[simp] theorem State.setCoilSt_regs (m k : Nat) (x : CoilSt) : (s.setCoilSt m k x).regs = s.regs := rfl
@[simp] theorem State.setCoilSt_mem (m k : Nat) (x : CoilSt) : (s.setCoilSt m k x).mem = s.mem := rfl
@[simp] theorem State.setCoilSt_poison (m k : Nat) (x : CoilSt) : (s.setCoilSt m k x).poison = s.poison := rfl
@[simp] theorem State.setCoilSt_clt (m k : Nat) (x : CoilSt) : (s.setCoilSt m k x).clt = s.clt := rfl
@[simp] theorem State.setCoilSt_shr (m k : Nat) (x : CoilSt) : (s.setCoilSt m k x).shr = s.shr := rfl
@[simp] theorem State.setCoilSt_tick (m k : Nat) (x : CoilSt) : (s.setCoilSt m k x).tick = s.tick := rfl
@[simp] theorem State.setCoilSt_flt (m k : Nat) (x : CoilSt) : (s.setCoilSt m k x).flt = s.flt := rfl
@[simp] theorem State.setCoilSt_net (m k : Nat) (x : CoilSt) : (s.setCoilSt m k x).net = s.net := rfl
@[simp] theorem State.setCoilSt_mbx (m k : Nat) (x : CoilSt) : (s.setCoilSt m k x).mbx = s.mbx := rfl
@[simp] theorem State.setCoilSt_abt (m k : Nat) (x : CoilSt) : (s.setCoilSt m k x).abt = s.abt := rfl
@[simp] theorem State.setCoilSt_cns (m k : Nat) (x : CoilSt) : (s.setCoilSt m k x).cns = s.cns := rfl
@[simp] theorem State.setCoilSt_boot (m k : Nat) (x : CoilSt) : (s.setCoilSt m k x).boot = s.boot := rfl
@[simp] theorem State.setCoilSt_cal (m k : Nat) (x : CoilSt) : (s.setCoilSt m k x).cal = s.cal := rfl
@[simp] theorem State.setCoilSt_pwr (m k : Nat) (x : CoilSt) : (s.setCoilSt m k x).pwr = s.pwr := rfl
@[simp] theorem State.setCoilSt_mod (m k : Nat) (x : CoilSt) : (s.setCoilSt m k x).mod = s.mod := rfl
@[simp] theorem State.setCoilSt_sail (m k : Nat) (x : CoilSt) : (s.setCoilSt m k x).sail = s.sail := rfl
@[simp] theorem State.setCoilSt_red (m k : Nat) (x : CoilSt) : (s.setCoilSt m k x).red = s.red := rfl
@[simp] theorem State.setCoilSt_fair (m k : Nat) (x : CoilSt) : (s.setCoilSt m k x).fair = s.fair := rfl
@[simp] theorem State.setCoilSt_hbm (m k : Nat) (x : CoilSt) : (s.setCoilSt m k x).hbm = s.hbm := rfl
@[simp] theorem State.setCoilSt_fab (m k : Nat) (x : CoilSt) : (s.setCoilSt m k x).fab = s.fab := rfl
@[simp] theorem State.setCoilSt_tk (m k : Nat) (x : CoilSt) : (s.setCoilSt m k x).tk = s.tk := rfl
@[simp] theorem State.setCoilSt_jibs (m k : Nat) (x : CoilSt) : (s.setCoilSt m k x).jibs = s.jibs := rfl
@[simp] theorem State.setCoilSt_hal (m k : Nat) (x : CoilSt) : (s.setCoilSt m k x).hal = s.hal := rfl
@[simp] theorem State.setCoilSt_secs (m k : Nat) (x : CoilSt) : (s.setCoilSt m k x).secs = s.secs := rfl
@[simp] theorem State.setCoilSt_loader (m k : Nat) (x : CoilSt) : (s.setCoilSt m k x).loader = s.loader := rfl
@[simp] theorem State.setCoilSt_sec (m k : Nat) (x : CoilSt) : (s.setCoilSt m k x).sec = s.sec := rfl
@[simp] theorem State.setCoilSt_refs (m k : Nat) (x : CoilSt) : (s.setCoilSt m k x).refs = s.refs := rfl
@[simp] theorem State.setCoilSt_free (m k : Nat) (x : CoilSt) : (s.setCoilSt m k x).free = s.free := rfl
@[simp] theorem State.setCoilSt_pending (m k : Nat) (x : CoilSt) : (s.setCoilSt m k x).pending = s.pending := rfl

/-! ### setMod -/

@[simp] theorem State.setMod_fuses (f : ModSt → ModSt) : (s.setMod f).fuses = s.fuses := rfl
@[simp] theorem State.setMod_regs (f : ModSt → ModSt) : (s.setMod f).regs = s.regs := rfl
@[simp] theorem State.setMod_mem (f : ModSt → ModSt) : (s.setMod f).mem = s.mem := rfl
@[simp] theorem State.setMod_poison (f : ModSt → ModSt) : (s.setMod f).poison = s.poison := rfl
@[simp] theorem State.setMod_clt (f : ModSt → ModSt) : (s.setMod f).clt = s.clt := rfl
@[simp] theorem State.setMod_shr (f : ModSt → ModSt) : (s.setMod f).shr = s.shr := rfl
@[simp] theorem State.setMod_tick (f : ModSt → ModSt) : (s.setMod f).tick = s.tick := rfl
@[simp] theorem State.setMod_chip (f : ModSt → ModSt) : (s.setMod f).chip = s.chip := rfl
@[simp] theorem State.setMod_flt (f : ModSt → ModSt) : (s.setMod f).flt = s.flt := rfl
@[simp] theorem State.setMod_net (f : ModSt → ModSt) : (s.setMod f).net = s.net := rfl
@[simp] theorem State.setMod_mbx (f : ModSt → ModSt) : (s.setMod f).mbx = s.mbx := rfl
@[simp] theorem State.setMod_abt (f : ModSt → ModSt) : (s.setMod f).abt = s.abt := rfl
@[simp] theorem State.setMod_cns (f : ModSt → ModSt) : (s.setMod f).cns = s.cns := rfl
@[simp] theorem State.setMod_boot (f : ModSt → ModSt) : (s.setMod f).boot = s.boot := rfl
@[simp] theorem State.setMod_cal (f : ModSt → ModSt) : (s.setMod f).cal = s.cal := rfl
@[simp] theorem State.setMod_pwr (f : ModSt → ModSt) : (s.setMod f).pwr = s.pwr := rfl
@[simp] theorem State.setMod_sail (f : ModSt → ModSt) : (s.setMod f).sail = s.sail := rfl
@[simp] theorem State.setMod_red (f : ModSt → ModSt) : (s.setMod f).red = s.red := rfl
@[simp] theorem State.setMod_fair (f : ModSt → ModSt) : (s.setMod f).fair = s.fair := rfl
@[simp] theorem State.setMod_hbm (f : ModSt → ModSt) : (s.setMod f).hbm = s.hbm := rfl
@[simp] theorem State.setMod_fab (f : ModSt → ModSt) : (s.setMod f).fab = s.fab := rfl
@[simp] theorem State.setMod_tk (f : ModSt → ModSt) : (s.setMod f).tk = s.tk := rfl
@[simp] theorem State.setMod_jibs (f : ModSt → ModSt) : (s.setMod f).jibs = s.jibs := rfl
@[simp] theorem State.setMod_hal (f : ModSt → ModSt) : (s.setMod f).hal = s.hal := rfl
@[simp] theorem State.setMod_secs (f : ModSt → ModSt) : (s.setMod f).secs = s.secs := rfl
@[simp] theorem State.setMod_loader (f : ModSt → ModSt) : (s.setMod f).loader = s.loader := rfl
@[simp] theorem State.setMod_sec (f : ModSt → ModSt) : (s.setMod f).sec = s.sec := rfl
@[simp] theorem State.setMod_refs (f : ModSt → ModSt) : (s.setMod f).refs = s.refs := rfl
@[simp] theorem State.setMod_free (f : ModSt → ModSt) : (s.setMod f).free = s.free := rfl
@[simp] theorem State.setMod_pending (f : ModSt → ModSt) : (s.setMod f).pending = s.pending := rfl

/-! ### dropWait -/

@[simp] theorem State.dropWait_fuses (k : EngKey) : (s.dropWait k).fuses = s.fuses := rfl
@[simp] theorem State.dropWait_regs (k : EngKey) : (s.dropWait k).regs = s.regs := rfl
@[simp] theorem State.dropWait_mem (k : EngKey) : (s.dropWait k).mem = s.mem := rfl
@[simp] theorem State.dropWait_poison (k : EngKey) : (s.dropWait k).poison = s.poison := rfl
@[simp] theorem State.dropWait_shr (k : EngKey) : (s.dropWait k).shr = s.shr := rfl
@[simp] theorem State.dropWait_tick (k : EngKey) : (s.dropWait k).tick = s.tick := rfl
@[simp] theorem State.dropWait_chip (k : EngKey) : (s.dropWait k).chip = s.chip := rfl
@[simp] theorem State.dropWait_flt (k : EngKey) : (s.dropWait k).flt = s.flt := rfl
@[simp] theorem State.dropWait_net (k : EngKey) : (s.dropWait k).net = s.net := rfl
@[simp] theorem State.dropWait_mbx (k : EngKey) : (s.dropWait k).mbx = s.mbx := rfl
@[simp] theorem State.dropWait_abt (k : EngKey) : (s.dropWait k).abt = s.abt := rfl
@[simp] theorem State.dropWait_cns (k : EngKey) : (s.dropWait k).cns = s.cns := rfl
@[simp] theorem State.dropWait_boot (k : EngKey) : (s.dropWait k).boot = s.boot := rfl
@[simp] theorem State.dropWait_cal (k : EngKey) : (s.dropWait k).cal = s.cal := rfl
@[simp] theorem State.dropWait_pwr (k : EngKey) : (s.dropWait k).pwr = s.pwr := rfl
@[simp] theorem State.dropWait_mod (k : EngKey) : (s.dropWait k).mod = s.mod := rfl
@[simp] theorem State.dropWait_sail (k : EngKey) : (s.dropWait k).sail = s.sail := rfl
@[simp] theorem State.dropWait_red (k : EngKey) : (s.dropWait k).red = s.red := rfl
@[simp] theorem State.dropWait_fair (k : EngKey) : (s.dropWait k).fair = s.fair := rfl
@[simp] theorem State.dropWait_hbm (k : EngKey) : (s.dropWait k).hbm = s.hbm := rfl
@[simp] theorem State.dropWait_fab (k : EngKey) : (s.dropWait k).fab = s.fab := rfl
@[simp] theorem State.dropWait_tk (k : EngKey) : (s.dropWait k).tk = s.tk := rfl
@[simp] theorem State.dropWait_jibs (k : EngKey) : (s.dropWait k).jibs = s.jibs := rfl
@[simp] theorem State.dropWait_hal (k : EngKey) : (s.dropWait k).hal = s.hal := rfl
@[simp] theorem State.dropWait_secs (k : EngKey) : (s.dropWait k).secs = s.secs := rfl
@[simp] theorem State.dropWait_loader (k : EngKey) : (s.dropWait k).loader = s.loader := rfl
@[simp] theorem State.dropWait_sec (k : EngKey) : (s.dropWait k).sec = s.sec := rfl
@[simp] theorem State.dropWait_refs (k : EngKey) : (s.dropWait k).refs = s.refs := rfl
@[simp] theorem State.dropWait_free (k : EngKey) : (s.dropWait k).free = s.free := rfl
@[simp] theorem State.dropWait_pending (k : EngKey) : (s.dropWait k).pending = s.pending := rfl

/-! ### tickFree -/

@[simp] theorem State.tickFree_fuses : (s.tickFree).fuses = s.fuses := rfl
@[simp] theorem State.tickFree_regs : (s.tickFree).regs = s.regs := rfl
@[simp] theorem State.tickFree_mem : (s.tickFree).mem = s.mem := rfl
@[simp] theorem State.tickFree_poison : (s.tickFree).poison = s.poison := rfl
@[simp] theorem State.tickFree_clt : (s.tickFree).clt = s.clt := rfl
@[simp] theorem State.tickFree_shr : (s.tickFree).shr = s.shr := rfl
@[simp] theorem State.tickFree_tick : (s.tickFree).tick = s.tick := rfl
@[simp] theorem State.tickFree_chip : (s.tickFree).chip = s.chip := rfl
@[simp] theorem State.tickFree_flt : (s.tickFree).flt = s.flt := rfl
@[simp] theorem State.tickFree_net : (s.tickFree).net = s.net := rfl
@[simp] theorem State.tickFree_mbx : (s.tickFree).mbx = s.mbx := rfl
@[simp] theorem State.tickFree_abt : (s.tickFree).abt = s.abt := rfl
@[simp] theorem State.tickFree_cns : (s.tickFree).cns = s.cns := rfl
@[simp] theorem State.tickFree_boot : (s.tickFree).boot = s.boot := rfl
@[simp] theorem State.tickFree_cal : (s.tickFree).cal = s.cal := rfl
@[simp] theorem State.tickFree_pwr : (s.tickFree).pwr = s.pwr := rfl
@[simp] theorem State.tickFree_mod : (s.tickFree).mod = s.mod := rfl
@[simp] theorem State.tickFree_sail : (s.tickFree).sail = s.sail := rfl
@[simp] theorem State.tickFree_red : (s.tickFree).red = s.red := rfl
@[simp] theorem State.tickFree_fair : (s.tickFree).fair = s.fair := rfl
@[simp] theorem State.tickFree_hbm : (s.tickFree).hbm = s.hbm := rfl
@[simp] theorem State.tickFree_fab : (s.tickFree).fab = s.fab := rfl
@[simp] theorem State.tickFree_tk : (s.tickFree).tk = s.tk := rfl
@[simp] theorem State.tickFree_jibs : (s.tickFree).jibs = s.jibs := rfl
@[simp] theorem State.tickFree_hal : (s.tickFree).hal = s.hal := rfl
@[simp] theorem State.tickFree_secs : (s.tickFree).secs = s.secs := rfl
@[simp] theorem State.tickFree_loader : (s.tickFree).loader = s.loader := rfl
@[simp] theorem State.tickFree_sec : (s.tickFree).sec = s.sec := rfl
@[simp] theorem State.tickFree_refs : (s.tickFree).refs = s.refs := rfl
@[simp] theorem State.tickFree_pending : (s.tickFree).pending = s.pending := rfl

end Sys2Proof.Machine
end

