-- ==== Sys2Proof/Laws/Regs.lean ====
section
/-! SUPPORT. Bit fields and registers: reading back what was written, and leaving every other field alone. -/

namespace Sys2Proof.Machine

/-! ### Sparse tables -/

@[simp] theorem Tbl.get_set_same {κ α : Type} [DecidableEq κ] (d : α) (t : List (κ × α)) (x : κ) (v : α) :
    Tbl.get d (Tbl.set t x v) x = v := by
  induction t with
  | nil => simp [Tbl.set, Tbl.get]
  | cons e t ih =>
    obtain ⟨k, w⟩ := e
    by_cases h : k = x <;> simp [Tbl.set, Tbl.get, h, ih]

theorem Tbl.get_set_ne {κ α : Type} [DecidableEq κ] (d : α) (t : List (κ × α)) {x y : κ} (v : α) (h : x ≠ y) :
    Tbl.get d (Tbl.set t x v) y = Tbl.get d t y := by
  induction t with
  | nil => simp [Tbl.set, Tbl.get, h]
  | cons e t ih =>
    obtain ⟨k, w⟩ := e
    by_cases h' : k = x
    · subst h'; simp [Tbl.set, Tbl.get, h]
    · simp only [Tbl.set, if_neg h', Tbl.get, ih]

/-! ### Bit fields -/

/-- The parts of a number around a field. -/
theorem setBits_eq (v hi lo x : Nat) :
    setBits v hi lo x = 2 ^ lo * (2 ^ (hi + 1 - lo) * (v / 2 ^ lo / 2 ^ (hi + 1 - lo)) + x % 2 ^ (hi + 1 - lo)) + v % 2 ^ lo := by
  have h1 := Nat.div_add_mod v (2 ^ lo)
  have h2 := Nat.div_add_mod (v / 2 ^ lo) (2 ^ (hi + 1 - lo))
  simp only [setBits, fld]
  generalize v / 2 ^ lo = a at *
  generalize v % 2 ^ lo = r at *
  generalize x % 2 ^ (hi + 1 - lo) = y at *
  generalize a % 2 ^ (hi + 1 - lo) = f at *
  generalize 2 ^ (hi + 1 - lo) * (a / 2 ^ (hi + 1 - lo)) = b at *
  subst h2
  have e1 : 2 ^ lo * (b + f) = 2 ^ lo * b + f * 2 ^ lo := by rw [Nat.mul_add, Nat.mul_comm f]
  have e2 : 2 ^ lo * (b + y) = 2 ^ lo * b + y * 2 ^ lo := by rw [Nat.mul_add, Nat.mul_comm y]
  omega

theorem fld_setBits_same (v hi lo x : Nat) : fld (setBits v hi lo x) hi lo = x % 2 ^ (hi + 1 - lo) := by
  have hp : 0 < 2 ^ lo := Nat.two_pow_pos lo
  rw [setBits_eq]
  simp only [fld]
  rw [Nat.mul_add_div hp, Nat.div_eq_of_lt (Nat.mod_lt _ hp), Nat.add_zero, Nat.mul_add_mod, Nat.mod_mod]

theorem setBits_lt {v hi lo : Nat} (x : Nat) (h : hi < 64) (hl : lo ≤ hi) (hv : v < 2 ^ 64) :
    setBits v hi lo x < 2 ^ 64 := by
  rw [setBits_eq]
  have hw : hi + 1 - lo + lo ≤ 64 := by omega
  obtain ⟨k, hk⟩ := Nat.exists_eq_add_of_le hw
  have hp : 0 < 2 ^ lo := Nat.two_pow_pos lo
  have hq : 0 < 2 ^ (hi + 1 - lo) := Nat.two_pow_pos _
  have e64 : 2 ^ 64 = 2 ^ lo * (2 ^ (hi + 1 - lo) * 2 ^ k) := by rw [← Nat.pow_add, ← Nat.pow_add]; congr 1; omega
  have hb : v / 2 ^ lo / 2 ^ (hi + 1 - lo) < 2 ^ k := by
    rw [Nat.div_div_eq_div_mul, Nat.div_lt_iff_lt_mul (Nat.mul_pos hp hq)]
    rw [e64] at hv
    calc v < _ := hv
      _ = _ := by rw [← Nat.mul_assoc, Nat.mul_comm]
  have hx := Nat.mod_lt x hq
  have hr := Nat.mod_lt v hp
  rw [e64]
  have : 2 ^ (hi + 1 - lo) * (v / 2 ^ lo / 2 ^ (hi + 1 - lo)) + x % 2 ^ (hi + 1 - lo) + 1 ≤ 2 ^ (hi + 1 - lo) * 2 ^ k := by
    calc _ ≤ 2 ^ (hi + 1 - lo) * (v / 2 ^ lo / 2 ^ (hi + 1 - lo)) + 2 ^ (hi + 1 - lo) := by omega
      _ = 2 ^ (hi + 1 - lo) * (v / 2 ^ lo / 2 ^ (hi + 1 - lo) + 1) := by rw [Nat.mul_add, Nat.mul_one]
      _ ≤ _ := Nat.mul_le_mul_left _ hb
  calc _ < 2 ^ lo * (2 ^ (hi + 1 - lo) * (v / 2 ^ lo / 2 ^ (hi + 1 - lo)) + x % 2 ^ (hi + 1 - lo)) + 2 ^ lo := by omega
    _ = 2 ^ lo * (2 ^ (hi + 1 - lo) * (v / 2 ^ lo / 2 ^ (hi + 1 - lo)) + x % 2 ^ (hi + 1 - lo) + 1) := by
      rw [Nat.mul_add (2 ^ lo) _ 1, Nat.mul_one]
    _ ≤ _ := Nat.mul_le_mul_left _ this

/-- A bit outside the field keeps its value. -/
theorem testBit_setBits_out (v hi lo x i : Nat) (hl : lo ≤ hi) (h : i < lo ∨ hi < i) :
    (setBits v hi lo x).testBit i = v.testBit i := by
  rw [setBits_eq]
  have hp : 0 < 2 ^ lo := Nat.two_pow_pos lo
  have hr := Nat.mod_lt v hp
  rcases h with h | h
  · rw [Nat.testBit_two_pow_mul_add _ hr, if_pos h, Nat.testBit_mod_two_pow]
    simp [h]
  · have h1 : ¬ i < lo := by omega
    rw [Nat.testBit_two_pow_mul_add _ hr, if_neg h1, Nat.testBit_two_pow_mul_add _ (Nat.mod_lt _ (Nat.two_pow_pos _)),
      if_neg (by omega), Nat.testBit_div_two_pow, Nat.testBit_div_two_pow]
    congr 1
    omega

theorem testBit_fld (v hi lo i : Nat) : (fld v hi lo).testBit i = (decide (i < hi + 1 - lo) && v.testBit (lo + i)) := by
  simp only [fld, Nat.testBit_mod_two_pow, Nat.testBit_div_two_pow, Nat.add_comm]

/-- Another field keeps its value. -/
theorem fld_setBits_ne (v hi lo x hi' lo' : Nat) (hl : lo ≤ hi) (h : hi' < lo ∨ hi < lo') :
    fld (setBits v hi lo x) hi' lo' = fld v hi' lo' := by
  apply Nat.eq_of_testBit_eq
  intro i
  rw [testBit_fld, testBit_fld]
  by_cases hi1 : i < hi' + 1 - lo'
  · rw [testBit_setBits_out v hi lo x (lo' + i) hl (by omega)]
  · simp [hi1]

/-! ### Registers -/

variable (s : State)

@[simp] theorem State.rd_wr_same (r : Reg) (v : Word) : (s.wr r v).rd r = v := by simp [State.rd, State.wr]

theorem State.rd_wr_ne {r q : Reg} (v : Word) (h : r ≠ q) : (s.wr r v).rd q = s.rd q := by
  simp [State.rd, State.wr, Tbl.get_set_ne _ _ _ h]

theorem State.f_wr_ne {r q : Reg} (v : Word) (F : Field) (h : r ≠ q) : (s.wr r v).f q F = s.f q F := by
  simp [State.f, State.rd_wr_ne s v h]

theorem State.rd_setF_same (r : Reg) (F : Field) (v : Nat) (hh : F.hi < 64) (hl : F.lo ≤ F.hi) :
    ((s.setF r F v).rd r).toNat = setBits (s.rd r).toNat F.hi F.lo v := by
  simp only [State.setF, State.rd_wr_same, BitVec.toNat_ofNat]
  exact Nat.mod_eq_of_lt (setBits_lt v hh hl (s.rd r).isLt)

/-- A field reads back what was stored in it. -/
theorem State.f_setF_same (r : Reg) (F : Field) (v : Nat) (hh : F.hi < 64) (hl : F.lo ≤ F.hi) :
    (s.setF r F v).f r F = v % 2 ^ (F.hi + 1 - F.lo) := by
  rw [State.f, State.rd_setF_same s r F v hh hl, fld_setBits_same]

/-- Storing a field leaves the other fields of its register alone. -/
theorem State.f_setF_field (r : Reg) (F G : Field) (v : Nat) (hh : F.hi < 64) (hl : F.lo ≤ F.hi)
    (hd : G.hi < F.lo ∨ F.hi < G.lo) : (s.setF r F v).f r G = s.f r G := by
  rw [State.f, State.rd_setF_same s r F v hh hl, fld_setBits_ne _ _ _ _ _ _ hl hd, State.f]

/-- Storing a field leaves every other register alone. -/
theorem State.rd_setF_ne {r q : Reg} (F : Field) (v : Nat) (h : r ≠ q) : (s.setF r F v).rd q = s.rd q := by
  simp [State.setF, State.rd_wr_ne s _ h]

theorem State.f_setF_ne {r q : Reg} (F G : Field) (v : Nat) (h : r ≠ q) : (s.setF r F v).f q G = s.f q G := by
  simp [State.f, State.rd_setF_ne s F v h]

end Sys2Proof.Machine
end

