-- ==== Sys2Proof/Laws/Hbm.lean ====
section
/-! SUPPORT. Sectors of HBM that are stored under another key (14_hbm.md R380, R388, R389): a sector that is opened reads as before
and is open from then on; without a change of keys nothing is shut. -/

namespace Sys2Proof.Machine

/-- Before the first change of a key, region or mapping no sector is shut. -/
theorem State.shut_none (s : State) (i : Nat) (h : s.hbm.base = none) : s.shut i = false := by
  simp [State.shut, h]

/-- Before the first change of a key, region or mapping memory holds plaintext. -/
theorem State.stored_none (s : State) (a : Nat) (h : s.hbm.base = none) : s.stored a = memGet s.mem a := by
  simp [State.stored, State.shut_none s _ h]

/-- Nothing is shut outside HBM. -/
theorem State.shut_chip (s : State) (i : Nat) (h : s.fuses.hbmSize ≤ 32 * i) : s.shut i = false := by
  simp [State.shut, Nat.not_lt.2 h]

/-- Memory outside HBM holds its bytes as they are. -/
theorem State.stored_chip (s : State) (a : Nat) (h : s.fuses.hbmSize ≤ 32 * (a / 32)) : s.stored a = memGet s.mem a := by
  simp [State.stored, State.shut_chip s _ h]

@[simp] theorem State.mixed_length (s : State) (i : Nat) : (s.mixed i).length = 32 := by simp [State.mixed]

/-- What opening a sector does: nothing, or its bytes as they read are stored under the key in force. -/
theorem State.openSector_eq (s : State) (i : Nat) :
    s.openSector i = s ∨ ∃ d k, s.shut i = true ∧ d = s.mixed i ∧ d.length = 32 ∧ s.openSector i =
      { s with mem := memPuts s.mem (32 * i) d, hbm := { s.hbm with seals := Tbl.set s.hbm.seals i k } } := by
  by_cases h : s.shut i = true
  · exact .inr ⟨s.mixed i, s.keyNow i, h, rfl, s.mixed_length i, if_pos h⟩
  · exact .inl (if_neg h)

/-- Opening a sector changes memory and the keys of sectors alone. -/
theorem State.openSector_only (s : State) (i : Nat) :
    { s.openSector i with mem := s.mem, hbm := s.hbm } = s ∧
    { (s.openSector i).hbm with seals := s.hbm.seals } = s.hbm := by
  rcases s.openSector_eq i with h | ⟨d, k, -, -, -, h⟩ <;> rw [h] <;> exact ⟨rfl, rfl⟩

/-- An opened sector is open, and no other one is opened or shut with it. -/
theorem State.openSector_shut (s : State) (i j : Nat) :
    (s.openSector i).shut j = if j = i then false else s.shut j := by
  unfold State.openSector
  split
  · rename_i h
    obtain ⟨b, hb⟩ : ∃ b, s.hbm.base = some b := by
      unfold State.shut at h
      cases hb : s.hbm.base <;> simp_all
    split
    · rename_i hj
      subst hj
      simp [State.shut, State.sealKey, hb, State.keyNow]
    · rename_i hj
      simp [State.shut, State.sealKey, hb, State.keyNow, State.sectorPlace, Tbl.get_set_ne _ _ _ (Ne.symm hj)]
  · rename_i h
    split
    · rename_i hj; subst hj; simpa using h
    · rfl

/-- Opening a sector changes no byte of another sector. -/
theorem State.openSector_mem (s : State) (i a : Nat) (h : a / 32 ≠ i) : memGet (s.openSector i).mem a = memGet s.mem a := by
  rcases s.openSector_eq i with e | ⟨d, k, -, -, hd, e⟩
  · rw [e]
  · rw [e]
    exact memGet_puts_out d (by omega)

theorem memGets_congr {m n : List Host.Cell} (a k : Nat) (h : ∀ i < k, memGet m (a + i) = memGet n (a + i)) :
    memGets m a k = memGets n a k := by
  induction k generalizing a with
  | zero => rfl
  | succ k ih =>
    simp only [memGets]
    rw [show memGet m a = memGet n a by simpa using h 0 (by omega), ih (a + 1) (fun i hi => by
      have := h (i + 1) (by omega)
      rwa [show a + (i + 1) = a + 1 + i by omega] at this)]

theorem State.openSector_sealKey (s : State) (i j : Nat) (h : j ≠ i) : (s.openSector i).sealKey j = s.sealKey j := by
  rcases s.openSector_eq i with e | ⟨d, k, -, -, -, e⟩
  · rw [e]
  · rw [e]
    unfold State.sealKey
    dsimp only
    cases s.hbm.base with
    | none => rfl
    | some b => simp [State.sectorPlace, Tbl.get_set_ne _ _ _ (Ne.symm h)]

theorem State.openSector_mixed (s : State) (i j : Nat) (h : j ≠ i) : (s.openSector i).mixed j = s.mixed j := by
  have hm : memGets (s.openSector i).mem (32 * j) 32 = memGets s.mem (32 * j) 32 :=
    memGets_congr _ _ (fun k hk => s.openSector_mem i _ (by omega))
  unfold State.mixed
  rw [hm, s.openSector_sealKey i j h]
  have e : (s.openSector i).tweak j = s.tweak j ∧ (s.openSector i).keyNow j = s.keyNow j := by
    rcases s.openSector_eq i with e | ⟨d, k, -, -, -, e⟩ <;> rw [e] <;> exact ⟨rfl, rfl⟩
  rw [e.1, e.2]

/-- Opening a sector changes no byte that is read. -/
theorem State.openSector_stored (s : State) (i a : Nat) (hw : Memory.wf s.mem = true) :
    (s.openSector i).stored a = s.stored a := by
  unfold State.stored
  rw [s.openSector_shut i]
  by_cases h : a / 32 = i
  · subst h
    simp only [if_true, Bool.false_eq_true, if_false]
    rcases s.openSector_eq (a / 32) with e | ⟨d, k, hs, hd, hl, e⟩
    · rw [e]
      have := s.openSector_shut (a / 32) (a / 32)
      rw [e] at this
      simp only [if_true] at this
      simp [this]
    · rw [e, hs, if_pos rfl, ← hd]
      have := memGet_puts_in (m := s.mem) (a := 32 * (a / 32)) d (a % 32) hw (by omega)
      rw [show 32 * (a / 32) + a % 32 = a by omega] at this
      dsimp only
      rw [this, List.getD_eq_getElem?_getD, List.getElem?_eq_getElem (by omega)]
      rfl
  · rw [if_neg h, s.openSector_mixed i _ h, s.openSector_mem i a h]

theorem State.openSector_wf (s : State) (i : Nat) (hw : Memory.wf s.mem = true) : Memory.wf (s.openSector i).mem = true := by
  rcases s.openSector_eq i with e | ⟨d, k, -, -, -, e⟩ <;> rw [e]
  · exact hw
  · exact Memory.wf_puts _ _ hw

/-- What opening some sectors from `b` on does: memory keeps its form, reads return what they did, those sectors are open, and none
that was open is shut. -/
theorem State.openMany (b : Nat) (l : List Nat) (s : State) (hw : Memory.wf s.mem = true) :
    let t := l.foldl (fun (s : State) (i : Nat) => s.openSector (b + i)) s
    Memory.wf t.mem = true ∧ (∀ a, t.stored a = s.stored a) ∧ (∀ i ∈ l, t.shut (b + i) = false) ∧
    (∀ j, s.shut j = false → t.shut j = false) := by
  induction l generalizing s with
  | nil => exact ⟨hw, fun _ => rfl, by simp, fun _ h => h⟩
  | cons i l ih =>
    obtain ⟨h1, h2, h3, h4⟩ := ih (s.openSector (b + i)) (s.openSector_wf _ hw)
    refine ⟨h1, fun a => (h2 a).trans (s.openSector_stored _ a hw), ?_, ?_⟩
    · intro k hk
      rcases List.mem_cons.1 hk with rfl | hk
      · exact h4 _ (by rw [s.openSector_shut]; simp)
      · exact h3 k hk
    · intro j hj
      exact h4 j (by rw [s.openSector_shut, hj]; simp)

/-- Opening sectors changes memory and the keys of sectors alone. -/
theorem State.openMany_only (b : Nat) (l : List Nat) (s : State) :
    let t := l.foldl (fun (s : State) (i : Nat) => s.openSector (b + i)) s
    { t with mem := s.mem, hbm := s.hbm } = s ∧ { t.hbm with seals := s.hbm.seals } = s.hbm := by
  induction l generalizing s with
  | nil => exact ⟨rfl, rfl⟩
  | cons i l ih =>
    obtain ⟨h5, h6⟩ := ih (s.openSector (b + i))
    obtain ⟨o1, o2⟩ := s.openSector_only (b + i)
    have e1 := congrArg (fun (x : State) => { x with mem := s.mem, hbm := s.hbm }) h5
    have e2 := congrArg (fun (x : HbmSt) => { x with seals := s.hbm.seals }) h6
    exact ⟨e1.trans o1, e2.trans o2⟩

theorem State.openSectors_only (s : State) (a n : Nat) :
    { s.openSectors a n with mem := s.mem, hbm := s.hbm } = s ∧
    { (s.openSectors a n).hbm with seals := s.hbm.seals } = s.hbm := by
  unfold State.openSectors
  split
  · exact State.openMany_only _ _ _
  · exact ⟨rfl, rfl⟩

/-- Opening the sectors that a write meets: memory keeps its form, reads return what they did, and the sectors of the write are
open. -/
theorem State.openSectors_spec (s : State) (a n : Nat) (hw : Memory.wf s.mem = true) :
    Memory.wf (s.openSectors a n).mem = true ∧ (∀ c, (s.openSectors a n).stored c = s.stored c) ∧
    (∀ c, a ≤ c → c < a + n → (s.openSectors a n).shut (c / 32) = false) := by
  unfold State.openSectors
  split
  · obtain ⟨h1, h2, h3, -⟩ :=
      State.openMany (a / 32) (List.range ((a + n + 31) / 32 - a / 32)) s hw
    refine ⟨h1, h2, ?_⟩
    intro c hc hn
    have := h3 (c / 32 - a / 32) (List.mem_range.2 (by omega))
    rwa [show a / 32 + (c / 32 - a / 32) = c / 32 by omega] at this
  · rename_i h
    have hb : s.hbm.base = none := by cases hb : s.hbm.base <;> simp_all
    exact ⟨hw, fun _ => rfl, fun c _ _ => s.shut_none _ hb⟩

@[simp] theorem State.openSectors_fuses (s : State) (a n : Nat) : (s.openSectors a n).fuses = s.fuses := by
  have h := congrArg State.fuses (s.openSectors_only a n).1
  exact h

@[simp] theorem State.openSectors_sec (s : State) (a n : Nat) : (s.openSectors a n).sec = s.sec := by
  have h := congrArg State.sec (s.openSectors_only a n).1
  exact h

/-- What a stored sector is sealed with, and read with, is a matter of the fuses, the keys and the keys of sectors alone. -/
theorem State.seal_congr {t u : State} (hf : u.fuses = t.fuses) (hs : u.sec = t.sec) (hb : u.hbm.base = t.hbm.base)
    (hm : u.hbm.map = t.hbm.map) (hk : u.hbm.kr = t.hbm.kr) (hl : u.hbm.seals = t.hbm.seals) (i : Nat) :
    u.keyNow i = t.keyNow i ∧ u.tweak i = t.tweak i ∧ u.sealKey i = t.sealKey i ∧ u.shut i = t.shut i := by
  have k : u.keyNow i = t.keyNow i := by simp [State.keyNow, hs, hk]
  have p : u.sectorPlace i = t.sectorPlace i := by simp [State.sectorPlace, hf, hm]
  have e : u.sealKey i = t.sealKey i := by
    unfold State.sealKey
    rw [hb, k, p, hl, hf]
  refine ⟨k, ?_, e, ?_⟩
  · unfold State.tweak; rw [p]
  · unfold State.shut; rw [hb, hf, e, k]

/-- Bytes written into sectors that are open: outside them memory returns what it did. -/
theorem State.stored_puts {t u : State} {a : Nat} {d : List Byte} (hf : u.fuses = t.fuses) (hs : u.sec = t.sec)
    (hb : u.hbm.base = t.hbm.base) (hm : u.hbm.map = t.hbm.map) (hk : u.hbm.kr = t.hbm.kr) (hl : u.hbm.seals = t.hbm.seals)
    (hw : Memory.wf t.mem = true) (ho : ∀ c, a ≤ c → c < a + d.length → t.shut (c / 32) = false)
    (hp : u.mem = memPuts t.mem a d) (c : Nat) :
    u.stored c = if a ≤ c ∧ c < a + d.length then d.getD (c - a) 0 else t.stored c := by
  obtain ⟨k, w, e, h⟩ := State.seal_congr hf hs hb hm hk hl (c / 32)
  unfold State.stored
  rw [h]
  split
  · rename_i hc
    have hn : ¬ (a ≤ c ∧ c < a + d.length) := fun x => by rw [ho c x.1 x.2] at hc; cases hc
    rw [if_neg hn]
    have hg : memGets u.mem (32 * (c / 32)) 32 = memGets t.mem (32 * (c / 32)) 32 := by
      refine memGets_congr _ _ (fun i hi => ?_)
      rw [hp]
      refine memGet_puts_out d ?_
      by_cases hx : a ≤ 32 * (c / 32) + i ∧ 32 * (c / 32) + i < a + d.length
      · have := ho _ hx.1 hx.2
        rw [show (32 * (c / 32) + i) / 32 = c / 32 by omega, hc] at this
        cases this
      · omega
    unfold State.mixed
    rw [hg, k, w, e]
  · split
    · rename_i hc
      obtain ⟨i, rfl⟩ : ∃ i, c = a + i := ⟨c - a, by omega⟩
      have hi : i < d.length := by omega
      rw [hp, memGet_puts_in d i hw hi, Nat.add_sub_cancel_left, List.getD_eq_getElem?_getD, List.getElem?_eq_getElem hi]
      rfl
    · rw [hp]
      exact memGet_puts_out d (by omega)

/-- Before the first change of a key, region or mapping there is nothing to open. -/
@[simp] theorem State.openSectors_none (s : State) (a n : Nat) (h : s.hbm.base = none) : s.openSectors a n = s := by
  simp [State.openSectors, h]

/-- Nothing is opened outside HBM. -/
theorem State.openSectors_chip (s : State) (a n : Nat) (h : s.fuses.hbmSize ≤ 32 * (a / 32)) : s.openSectors a n = s := by
  unfold State.openSectors
  split
  · generalize (a + n + 31) / 32 - a / 32 = k
    have (l : List Nat) : l.foldl (fun (s : State) (i : Nat) => s.openSector (a / 32 + i)) s = s := by
      induction l with
      | nil => rfl
      | cons i l ih =>
        have : s.openSector (a / 32 + i) = s := by
          unfold State.openSector
          rw [s.shut_chip _ (by omega)]
          rfl
        rw [List.foldl_cons, this, ih]
    exact this _
  · rfl

end Sys2Proof.Machine
end

