-- ==== Sys2Proof/Laws/Access.lean ====
section
/-! SUPPORT. What the writes of Machine/Ops.lean and Machine/Access.lean do, once for each: the fields they leave, the canonical
form, and the bytes a read returns after them (06_onchip_memory.md R177, R190, R192). -/

namespace Sys2Proof.Machine

/-! ### Bytes as a read returns them -/

/-- A write that waits for an entry is not seen by a read. -/
theorem flightByte_filter (ws : List TrackedWrite) (a : Nat) (b : Byte) :
    flightByte (ws.filter (fun w => !w.waiting)) a b = flightByte ws a b := by
  induction ws generalizing b with
  | nil => rfl
  | cons w l ih =>
    cases hw : w.waiting with
    | true =>
      simp only [List.filter, hw, Bool.not_true]
      rw [ih]
      simp [flightByte, hw]
    | false =>
      simp only [List.filter, hw, Bool.not_false]
      exact ih _

theorem flightByte_waiting (ws : List TrackedWrite) (a : Nat) (b : Byte) :
    flightByte (ws.filter (fun w => w.waiting)) a b = b := by
  induction ws with
  | nil => rfl
  | cons w l ih =>
    cases hw : w.waiting with
    | true =>
      simp only [List.filter, hw]
      simpa [flightByte, hw] using ih
    | false =>
      simp only [List.filter, hw]
      exact ih

/-- A byte that no write in flight covers is the one in memory. -/
theorem flightByte_out (ws : List TrackedWrite) (a : Nat) (b : Byte)
    (h : ∀ w ∈ ws, w.waiting = false → a < w.addr ∨ w.addr + w.data.length ≤ a) : flightByte ws a b = b := by
  induction ws generalizing b with
  | nil => rfl
  | cons w l ih =>
    have hw : (!w.waiting && decide (w.addr ≤ a) && decide (a < w.addr + w.data.length)) = false := by
      cases hx : w.waiting with
      | true => rfl
      | false =>
        have := h w (by simp) hx
        simp only [Bool.not_false, Bool.true_and, Bool.and_eq_false_iff, decide_eq_false_iff_not]
        omega
    have hl := ih b (fun x hx => h x (by simp [hx]))
    simp only [flightByte, List.foldl_cons, hw, Bool.false_eq_true, if_false] at hl ⊢
    exact hl

/-! ### A bank performs a write -/

/-- A write changes memory, poison, merge windows and the state of the sectors of HBM alone. -/
theorem State.putU_only (s : State) (a : Nat) (d : List Byte) (p : Nat → Bool) :
    { s.putU a d p with mem := s.mem, poison := s.poison, chip := s.chip, hbm := s.hbm } = s := by
  unfold State.putU
  split <;> rfl

@[simp] theorem State.putU_writes (s : State) (a : Nat) (d : List Byte) (p : Nat → Bool) :
    (s.putU a d p).chip.writes = s.chip.writes := by
  unfold State.putU
  split <;> rfl

@[simp] theorem State.putU_regs (s : State) (a : Nat) (d : List Byte) (p : Nat → Bool) : (s.putU a d p).regs = s.regs := by
  unfold State.putU
  split <;> rfl

@[simp] theorem State.putU_fuses (s : State) (a : Nat) (d : List Byte) (p : Nat → Bool) : (s.putU a d p).fuses = s.fuses := by
  unfold State.putU
  split <;> rfl

/-- The canonical form of memory is kept. -/
theorem State.putU_wf (s : State) (a : Nat) (d : List Byte) (p : Nat → Bool) (hw : Memory.wf s.mem = true) :
    Memory.wf (s.putU a d p).mem = true := by
  unfold State.putU
  split
  · exact hw
  · exact Memory.wf_puts _ _ (s.openSectors_spec a d.length hw).1

/-- Where no key has changed, or on the die, memory takes the bytes and nothing else of it changes. -/
theorem State.putU_mem (s : State) (a : Nat) (d : List Byte) (p : Nat → Bool)
    (h : s.hbm.base = none ∨ s.fuses.hbmSize ≤ 32 * (a / 32)) : (s.putU a d p).mem = memPuts s.mem a d := by
  unfold State.putU
  split
  · rename_i h; subst h; rfl
  · have e : s.openSectors a d.length = s := h.elim (s.openSectors_none a _) (s.openSectors_chip a _)
    dsimp only
    rw [e]

/-- A sector that stays shut is not met by the write, and reads the same. -/
theorem State.putU_stored (s : State) (a c : Nat) (d : List Byte) (p : Nat → Bool) (hw : Memory.wf s.mem = true) :
    (s.putU a d p).stored c = if a ≤ c ∧ c < a + d.length then d.getD (c - a) 0 else s.stored c := by
  unfold State.putU
  split
  · rename_i h
    subst h
    rw [if_neg (by simp)]
  · obtain ⟨h1, h2, h3⟩ := s.openSectors_spec a d.length hw
    rw [← h2 c]
    refine State.stored_puts (t := s.openSectors a d.length) ?_ ?_ ?_ ?_ ?_ ?_ h1 h3 ?_ c
    · exact (s.openSectors_fuses a _).symm
    · exact (s.openSectors_sec a _).symm
    all_goals rfl

/-! ### Tracked writes are accepted -/

@[simp] theorem State.acceptOne_writes (s : State) (w : TrackedWrite) : (s.acceptOne w).chip.writes = s.chip.writes := by
  unfold State.acceptOne
  dsimp only
  split <;> simp

theorem State.acceptOne_stored (s : State) (w : TrackedWrite) (c : Nat) (hw : Memory.wf s.mem = true) :
    (s.acceptOne w).stored c = if w.addr ≤ c ∧ c < w.addr + w.data.length then w.data.getD (c - w.addr) 0 else s.stored c := by
  unfold State.acceptOne
  dsimp only
  split <;> exact s.putU_stored _ c _ _ hw

theorem State.acceptOne_wf (s : State) (w : TrackedWrite) (hw : Memory.wf s.mem = true) :
    Memory.wf (s.acceptOne w).mem = true := by
  unfold State.acceptOne
  dsimp only
  split <;> exact s.putU_wf _ _ _ hw

theorem State.acceptOne_only (s : State) (w : TrackedWrite) :
    { s.acceptOne w with mem := s.mem, poison := s.poison, chip := s.chip, hbm := s.hbm } = s := by
  unfold State.acceptOne
  dsimp only
  split <;> exact State.putU_only s w.addr w.data _

/-- Writes accepted in order: what memory returns is what a read that waits for them returns. -/
theorem State.acceptAll (ws : List TrackedWrite) (s : State) (hw : Memory.wf s.mem = true)
    (h : ∀ w ∈ ws, w.waiting = false) :
    (ws.foldl State.acceptOne s).chip.writes = s.chip.writes ∧ Memory.wf (ws.foldl State.acceptOne s).mem = true ∧
    ∀ c, (ws.foldl State.acceptOne s).stored c = flightByte ws c (s.stored c) := by
  induction ws generalizing s with
  | nil => exact ⟨rfl, hw, fun _ => rfl⟩
  | cons w l ih =>
    obtain ⟨h1, h2, h3⟩ := ih (s.acceptOne w) (s.acceptOne_wf w hw) (fun x hx => h x (by simp [hx]))
    refine ⟨h1.trans (by simp), h2, fun c => ?_⟩
    have h0 := h w (by simp)
    rw [List.foldl_cons, h3, s.acceptOne_stored w c hw]
    simp [flightByte, h0]

theorem State.acceptAll_only (ws : List TrackedWrite) (s : State) :
    { ws.foldl State.acceptOne s with mem := s.mem, poison := s.poison, chip := s.chip, hbm := s.hbm } = s := by
  induction ws generalizing s with
  | nil => rfl
  | cons w l ih =>
    have h := ih (s.acceptOne w)
    have h1 := State.acceptOne_only s w
    rw [List.foldl_cons]
    rw [← h] at h1
    exact h1

/-- The writes that hold entries become visible: a read returns what it returned, the writes that wait for an entry stay, and the
canonical form is kept (R190, R192). -/
theorem State.acceptHeld_spec (s : State) (hw : Memory.wf s.mem = true) :
    s.acceptHeld.chip.writes = s.chip.writes.filter (fun w => w.waiting) ∧ Memory.wf s.acceptHeld.mem = true ∧
    ∀ c, s.acceptHeld.byte c = s.byte c := by
  obtain ⟨h1, h2, h3⟩ := State.acceptAll (s.chip.writes.filter (fun w => !w.waiting))
    { s with chip := { s.chip with writes := s.chip.writes.filter (fun w => w.waiting) } } hw
    (fun w hm => by simpa using (List.mem_filter.1 hm).2)
  refine ⟨h1, h2, fun c => ?_⟩
  unfold State.byte
  rw [show s.acceptHeld.chip.writes = s.chip.writes.filter (fun w => w.waiting) from h1, flightByte_waiting]
  exact (h3 c).trans (flightByte_filter _ _ _)

theorem State.acceptHeld_only (s : State) :
    { s.acceptHeld with mem := s.mem, poison := s.poison, chip := s.chip, hbm := s.hbm } = s := by
  have h := State.acceptAll_only (s.chip.writes.filter (fun w => !w.waiting))
    { s with chip := { s.chip with writes := s.chip.writes.filter (fun w => w.waiting) } }
  exact congrArg (fun (x : State) => { x with chip := s.chip }) h

/-- Acceptance changes memory, poison, the state of the banks and of the sectors of HBM alone. -/
theorem State.acceptWrites_only (s : State) :
    { s.acceptWrites with mem := s.mem, poison := s.poison, chip := s.chip, hbm := s.hbm } = s := s.acceptHeld_only

theorem State.acceptWrites_wf (s : State) (h : Memory.wf s.mem = true) : Memory.wf s.acceptWrites.mem = true :=
  (s.acceptHeld_spec h).2.1

/-- Where no write waits for an entry, none is left. -/
theorem State.acceptWrites_writes (s : State) (h : ∀ w ∈ s.chip.writes, w.waiting = false) (hw : Memory.wf s.mem = true) :
    s.acceptWrites.chip.writes = [] := by
  have e : s.acceptHeld.chip.writes = [] := by
    rw [(s.acceptHeld_spec hw).1, List.filter_eq_nil_iff]
    intro w hm
    simp [h w hm]
  unfold State.acceptWrites State.passEntries
  dsimp only
  rw [e]
  rfl

/-- Where no write waits for an entry, acceptance changes no byte that a read returns (R190, R192). -/
theorem State.byte_acceptWrites (s : State) (a : Nat) (hw : Memory.wf s.mem = true)
    (h : ∀ w ∈ s.chip.writes, w.waiting = false) : s.acceptWrites.byte a = s.byte a := by
  obtain ⟨h1, -, h3⟩ := s.acceptHeld_spec hw
  rw [← h3 a]
  unfold State.byte
  rw [s.acceptWrites_writes h hw, h1, flightByte_waiting]
  rfl

/-! ### Writes that are not tracked -/

/-- A write at its banks: outside it a read returns what it did, inside it the bytes written, where no write in flight meets
its lines. -/
theorem State.byte_putU (s : State) (a c : Nat) (d : List Byte) (p : Nat → Bool) (hw : Memory.wf s.mem = true)
    (hf : ∀ w ∈ s.chip.writes, w.waiting = false → w.meets a d.length = false) :
    (s.putU a d p).byte c = if a ≤ c ∧ c < a + d.length then d.getD (c - a) 0 else s.byte c := by
  unfold State.byte
  rw [State.putU_writes, s.putU_stored a c d p hw]
  split
  · rename_i h
    rw [flightByte_out]
    intro w hm hx
    have := hf w hm hx
    simp only [TrackedWrite.meets, Bool.and_eq_false_iff, decide_eq_false_iff_not] at this
    omega
  · rfl

/-- A write that is not tracked (R177, R192): every byte as a read returns it, where no write waits for an entry. -/
theorem State.byte_store (s : State) (a c : Nat) (d : List Byte) (p : Bool) (hw : Memory.wf s.mem = true)
    (hq : ∀ w ∈ s.chip.writes, w.waiting = false) :
    (s.store a d p).byte c = if a ≤ c ∧ c < a + d.length then d.getD (c - a) 0 else s.byte c := by
  unfold State.store State.storeU
  split
  · rw [State.byte_putU _ _ _ _ _ (State.acceptWrites_wf s hw), State.byte_acceptWrites s c hw hq]
    rw [s.acceptWrites_writes hq hw]
    intro w hm
    cases hm
  · rename_i h
    rw [State.byte_putU _ _ _ _ _ hw]
    intro w hm hx
    exact Bool.eq_false_iff.2 (fun hc => h (List.any_eq_true.2 ⟨w, hm, by simp [hx, hc]⟩))

theorem State.store_wf (s : State) (a : Nat) (d : List Byte) (p : Bool) (h : Memory.wf s.mem = true) :
    Memory.wf (s.store a d p).mem = true := by
  unfold State.store State.storeU
  split
  · exact State.putU_wf _ _ _ _ (State.acceptWrites_wf s h)
  · exact State.putU_wf _ _ _ _ h

/-- A write that is not tracked changes memory, poison, the state of the banks and of the sectors of HBM alone. -/
theorem State.store_only (s : State) (a : Nat) (d : List Byte) (p : Bool) :
    { s.store a d p with mem := s.mem, poison := s.poison, chip := s.chip, hbm := s.hbm } = s := by
  unfold State.store State.storeU
  split
  · have h := State.putU_only s.acceptWrites a d (fun _ => p)
    have h2 := congrArg (fun (x : State) => { x with mem := s.mem, poison := s.poison, chip := s.chip, hbm := s.hbm }) h
    exact h2.trans (State.acceptWrites_only s)
  · exact State.putU_only s a d _

/-- A tracked write that takes an entry at once is seen by every later read (R190); it stands behind the writes in flight. -/
theorem State.byte_track (s : State) (m dev u a c : Nat) (d : List Byte) (bad : List Nat) (rep : Bool)
    (hu : (s.sbUsed m).length < 64) (hf : ∀ w ∈ s.chip.writes, w.waiting = false) :
    (s.track m dev u a d bad rep).byte c = if a ≤ c ∧ c < a + d.length then d.getD (c - a) 0 else s.byte c := by
  have hn : (decide (64 ≤ (s.sbUsed m).length) ||
      s.chip.writes.any (fun x => x.waiting && x.unit == u && x.dev == dev && x.meets a d.length)) = false := by
    rw [Bool.or_eq_false_iff]
    refine ⟨by simpa using hu, ?_⟩
    rw [List.any_eq_false]
    intro w hw
    simp [hf w hw]
  have hs : (s.track m dev u a d bad rep).stored c = s.stored c := rfl
  unfold State.byte
  rw [hs]
  generalize s.stored c = b
  unfold State.track
  simp only [hn]
  unfold flightByte
  rw [List.foldl_append]
  simp [and_assoc]

/-! ### Waiting for one's own writes -/

/-- A unit without writes under way does not wait. -/
@[simp] theorem State.settle_done (s : State) (dev u : Nat) (h : s.unsettled dev u = false) : s.settle dev u = s := by
  unfold State.settle State.settleN
  simp [h]

end Sys2Proof.Machine
end

