-- ==== Sys2Proof/Laws/Commands.lean ====
section
/-! SUPPORT. What running a mailbox command does, once for every command (15_crowsnest_mailboxes.md R408), and the frame of
a register write. -/

namespace Sys2Proof

open Machine

/-- A ready command that completes at once: its body runs on the state in which it has started. -/
theorem Ready.run {s : State} {i op : Nat} {c : MbxCmd} (h : Ready s i op c)
    (body : MbxCmd → List Byte → State → Status × List Byte × List Byte × State) :
    s.mbxRun i op body = completed (body (begun s c) ((s.mailbox i).data c) (started s i c)).2.2.2 s i c
      (body (begun s c) ((s.mailbox i).data c) (started s i c)).1
      (body (begun s c) ((s.mailbox i).data c) (started s i c)).2.1
      (body (begun s c) ((s.mailbox i).data c) (started s i c)).2.2.1 := by
  unfold Ready at h
  simp only [State.mbxRun, h]
  rfl

/-- A ready command that may stay under way. -/
theorem Ready.begin {s : State} {i op : Nat} {c : MbxCmd} (h : Ready s i op c)
    (body : MbxCmd → State → Option Status × State) :
    s.mbxBegin i op body = match (body (ran s c) (underWay s i c)).1 with
      | none => (body (ran s c) (underWay s i c)).2
      | some st => (body (ran s c) (underWay s i c)).2.mbxDone i (ran s c) st := by
  unfold Ready at h
  simp only [State.mbxBegin, h]
  rfl

/-- Starting a command changes no register. -/
@[simp] theorem started_rd (s : State) (i : Nat) (c : MbxCmd) (r : Reg) : (started s i c).rd r = s.rd r := rfl

@[simp] theorem started_f (s : State) (i : Nat) (c : MbxCmd) (r : Reg) (F : Field) : (started s i c).f r F = s.f r F := rfl

@[simp] theorem started_bit (s : State) (i : Nat) (c : MbxCmd) (r : Reg) (F : Field) :
    (started s i c).bit r F = s.bit r F := rfl

@[simp] theorem started_mem (s : State) (i : Nat) (c : MbxCmd) : (started s i c).mem = s.mem := rfl

@[simp] theorem started_now (s : State) (i : Nat) (c : MbxCmd) : (started s i c).now = s.now := rfl

@[simp] theorem underWay_rd (s : State) (i : Nat) (c : MbxCmd) (r : Reg) : (underWay s i c).rd r = s.rd r := rfl

@[simp] theorem underWay_f (s : State) (i : Nat) (c : MbxCmd) (r : Reg) (F : Field) :
    (underWay s i c).f r F = s.f r F := rfl

@[simp] theorem underWay_bit (s : State) (i : Nat) (c : MbxCmd) (r : Reg) (F : Field) :
    (underWay s i c).bit r F = s.bit r F := rfl

@[simp] theorem underWay_mem (s : State) (i : Nat) (c : MbxCmd) : (underWay s i c).mem = s.mem := rfl

@[simp] theorem underWay_now (s : State) (i : Nat) (c : MbxCmd) : (underWay s i c).now = s.now := rfl

/-- Nothing but registers changes, and of those none. -/
theorem OnlyRegs.refl (rs : List Reg) (s : State) : OnlyRegs rs s s := ⟨rfl, fun _ _ => rfl⟩

/-- A register word is stored: that register alone changes. -/
theorem OnlyRegs.wr {rs : List Reg} {s t : State} (h : OnlyRegs rs s t) {r : Reg} (v : Word) (hr : r ∈ rs) :
    OnlyRegs rs s (t.wr r v) := by
  refine ⟨h.1, fun q hq => ?_⟩
  have hne : r ≠ q := by
    rintro rfl
    exact hq hr
  rw [State.rd_wr_ne _ v hne]
  exact h.2 q hq

/-- A field is stored: its register alone changes. -/
theorem OnlyRegs.setF {rs : List Reg} {s t : State} (h : OnlyRegs rs s t) {r : Reg} (F : Field) (v : Nat) (hr : r ∈ rs) :
    OnlyRegs rs s (t.setF r F v) := h.wr _ hr

end Sys2Proof
end

