-- ==== Sys2Proof/WellFormed.lean ====
section
/-! DEFINITION. The commands the spec's formats allow: descriptors of their size, frames within the limits of
13_ghenko_ethernet.md R351 to R353, writes and reads within a line set (06_onchip_memory.md). A command outside them never
arrives; its meaning is total all the same. -/

namespace Sys2Proof

/-- Subheader of at most 72 B (a NAK of eight ranges) and payload of at most 4,096 B (R351, R353). -/
def Frame.wf (f : Frame) : Bool := decide (f.subhdr.length ≤ 72) && decide (f.pay.length ≤ 4096)

/-- No mast reports two temperatures at once. -/
def tempsWf (l : List (Fin 8 × Byte)) : Bool := decide ((l.map (·.1)).Nodup)

/-- A command is well-formed. -/
def Instr.wf : Instr → Bool
  -- macro-instructions of 128 B (R76)
  | .mmaNop _ w _ | .mma _ w _ | .mmaList _ w _ =>
    w.length == 16
  -- jib instructions of 64 B (R146)
  | .jibNop _ w _ | .jibMov _ w _ | .jibAdd _ w _ | .jibSub _ w _ | .jibMul _ w _ | .jibFma _ w _
  | .jibMax _ w _ | .jibMin _ w _ | .jibAbs _ w _ | .jibNeg _ w _ | .jibAnd _ w _ | .jibOr _ w _
  | .jibXor _ w _ | .jibShl _ w _ | .jibShr _ w _ | .jibAsr _ w _ | .jibCmpeq _ w _ | .jibCmplt _ w _
  | .jibCmple _ w _ | .jibSel _ w _ | .jibCvt _ w _ | .jibRcp _ w _ | .jibDiv _ w _ | .jibSqrt _ w _
  | .jibRsqrt _ w _ | .jibExp _ w _ | .jibExp2 _ w _ | .jibLog _ w _ | .jibLog2 _ w _ | .jibTanh _ w _
  | .jibSigmoid _ w _ | .jibSilu _ w _ | .jibGelu _ w _ | .jibSin _ w _ | .jibCos _ w _ | .silumul _ w _
  | .jibRsum _ w _ | .jibRmax _ w _ | .rmin _ w _ | .argmax _ w _ | .rmaxrec _ w _ | .compress _ w _
  | .expand _ w _ | .topk _ w _ | .sample _ w _ | .treemask _ w _ | .smxupd _ w _ | .quant _ w _
  | .rmsnorm _ w _ | .tmma _ w _ | .ttrans _ w _ | .hrecv _ w _ =>
    w.length == 8
  -- tackle descriptors of 192 B (R230)
  | .tkNop _ w _ | .copy _ w _ | .gather _ w _ | .scatter _ w _ | .bgather _ w _ | .bscatter _ w _ =>
    w.length == 24
  | .cmd f | .dataIn f | .shroudArrive f | .shroudRelease f | .raddElement f | .raddTrailer f | .write f
  | .readReq f | .readResp f | .cleatOp f | .ack f | .nak f | .heartbeat f | .abortFrame f | .openConn f
  | .openAck f | .closeConn f | .closeAck f | .control f =>
    f.wf
  | .halMessageLand (.frame f) => f.wf
  -- accesses of 1 to 4,096 B
  | .memRead _ _ n _ => decide (1 ≤ n.toNat) && decide (n.toNat ≤ 4096)
  | .memWrite _ _ _ d _ => decide (1 ≤ d.length) && decide (d.length ≤ 4096)
  -- a PFC frame holds eight quanta (R346)
  | .pfcFrame _ _ _ q => q.length == 8
  | .thermalTrip l | .thermalResume l | .thermalShutdown l => tempsWf l
  | .halMessageLand (.job _ _ _) => true
  -- no further condition: every value of the operands' types is allowed
  | .nop .. | .identify .. | .getInfo .. | .setDeviceId .. | .getCerts .. | .attest .. | .sessionOpen .. | .keyImport ..
  | .debugUnlock .. | .fwStage .. | .fwActivate .. | .imageStage .. | .sectionLoad .. | .sectionStart ..
  | .sectionSuspend .. | .sectionResume .. | .sectionUnload .. | .sectionSwitch .. | .timeGet .. | .timeAdjust ..
  | .tickConfig .. | .tickRun .. | .ptpConfig .. | .windowOpen .. | .windowClose .. | .regRead .. | .regWrite ..
  | .telemetry .. | .powerState .. | .powerCap .. | .calRead .. | .calApply .. | .cleatDump .. | .queueDump ..
  | .crashFetch .. | .crashClear .. | .reset .. | .abort .. | .commandResourceTimeout .. | .commandDataTimeout ..
  | .bTapDeliver .. | .fireCompute .. | .switch .. | .select .. | .merge .. | .shvNop .. | .shvMov .. | .shvAdd ..
  | .shvSub .. | .shvMul .. | .shvFma .. | .shvMax .. | .shvMin .. | .shvAbs .. | .shvNeg .. | .shvAnd .. | .shvOr ..
  | .shvXor .. | .shvShl .. | .shvShr .. | .shvAsr .. | .shvCmpeq .. | .shvCmplt .. | .shvCmple .. | .shvSel ..
  | .shvCvt .. | .shvRsum .. | .shvRmax .. | .lane .. | .ins .. | .tag .. | .srcCoil .. | .srcTick .. | .srcHalyard ..
  | .snkCoil .. | .snkCleat .. | .snkStep .. | .spillArrival .. | .spillRefill .. | .stopSrc .. | .drain ..
  | .drainDone .. | .stallWatchdog .. | .coilReserve .. | .coilCommit .. | .coilClaim .. | .coilRelease ..
  | .stridedRead .. | .transposedRead .. | .scoreboardRelease .. | .scrubLine .. | .flStepEntry .. | .flDescInstall ..
  | .flDescDeliver .. | .flPrefetch .. | .flLineRequest .. | .flDescComplete .. | .scLineRequest .. | .scFill ..
  | .clean .. | .cleanInv .. | .hbmRequest .. | .hbmCeRewrite .. | .hbmRefresh .. | .hbmTempRead .. | .hbmPatrolScrub ..
  | .hbmMap .. | .hbmMapApply .. | .hbmKr .. | .hbmKrApply .. | .cleatRead .. | .cleatWaitGe .. | .cleatAdd ..
  | .cleatSub .. | .cleatTake .. | .cleatSet .. | .cleatWaitEnter .. | .cleatWaitTimeout .. | .proxyCleatOp ..
  | .tickEdge .. | .sectionEdge .. | .endOfStep .. | .stepDeadline .. | .stepGraceExpiry .. | .tickInEdge ..
  | .tickInMiss .. | .ppsInEdge .. | .tbStep .. | .raddRetry .. | .bucketArm .. | .bucketArmDone .. | .roundComplete ..
  | .roundTimeout .. | .ordApply .. | .halSendTrigger .. | .halReserve .. | .notificationEnter .. | .halResend ..
  | .halSendTimeout .. | .halRlimitTimeout .. | .halNote .. | .halRel .. | .halSend .. | .ethernetFrameRx ..
  | .retransmitTimeout .. | .openRetry .. | .closeRetry .. | .ackDelay .. | .heartbeatSend .. | .heartbeatLoss ..
  | .linkDown .. | .linkUp .. | .connOpen .. | .connClose .. | .connReset .. | .winOpen .. | .winClose ..
  | .windowCloseDone .. | .portTxts .. | .trigger .. | .abortQuiet .. | .abortForce .. | .kick .. | .cnWdStage1 ..
  | .cnRestart .. | .sectionStartEdge .. | .sectionResumeEdge .. | .switchCutoff .. | .switchWrite .. | .suspendSave ..
  | .suspendTimeout .. | .coldReset .. | .moduleReset .. | .warmReset .. | .mastReset .. | .portReset ..
  | .bootPhaseAdvance .. | .mastSleepEntry .. | .mastSleepReturn .. | .mastIdleTransition .. | .powerSample ..
  | .gearChange .. | .enableMate .. | .powerUpDone .. | .enableBreak .. | .vinOvervoltage .. | .vinUndervoltage ..
  | .crashDumpWrite .. | .fatalMastReset .. | .ceSummary .. | .devId .. | .registerWrite .. | .setdasa .. | .entdaa ..
  | .setEndpointId .. | .getEndpointId .. | .getMctpVersionSupport .. | .getMessageTypeSupport .. | .getTid ..
  | .getPldmVersion .. | .getPldmTypes .. | .getPldmCommands .. | .getSensorReading .. | .getNumericEffecterValue ..
  | .setNumericEffecterValue .. | .getPdr .. | .registerRead .. | .modResetNRelease .. | .pwrGoodFall .. | .vinRising ..
  | .vinOvervoltageEnd .. | .jtag .. => true

end Sys2Proof
end

