-- ==== Sys2Proof/Tests/Slice0.lean ====
section
/-! SUPPORT. The author's own tests: a smoke test of every check of WellFormed, small steps with results from the spec, and
for every statement with hypotheses states and operands that meet them. -/

namespace Sys2Proof.Tests

open Sys2Proof Sys2Proof.Machine

set_option Elab.async false

/-! ### Helpers -/

/-- A 128-byte entry of R403: opcode, Seq 0, fields as offset, size, value. -/
def entry (op : Nat) (fs : List (Nat × Nat × Nat)) : List Byte :=
  fs.foldl (fun l f => putAt l f.1 (leBytes f.2.1 f.2.2)) (leBytes 1 op ++ zeros 127)

/-- A command at the head of its mailbox, with its resources. -/
def cmd (op : Nat) (fs : List (Nat × Nat × Nat)) : MbxCmd :=
  { seq := 0, entry := entry op fs, host := false, head := some 0, granted := true }

/-- `s` with a command ready at mailbox 0. -/
def rdy (op : Nat) (fs : List (Nat × Nat × Nat)) (s : State := State.reset) : State :=
  { s with mbx := [(0, { n := 1, a := 65535, ring := [cmd op fs] })] }

/-- `s` with DATA_IN `d` for the command at mailbox 0. -/
def withData (s : State) (d : List Byte) : State :=
  { s with mbx := s.mbx.map (fun e => (e.1, { e.2 with dataIn := [(0, 0, d)] })) }

/-- `s` with section 1 loaded in SL_SEC[0] on mast 0, in a state of R428. -/
def sect1 (st : Nat) (s : State := State.reset) : State :=
  (((s.setF (.slSec 0 0) SL_SEC.VALID 1).setF (.slSec 0 0) SL_SEC.SECTION 1).setF (.slSec 0 0) SL_SEC.MASTS 1).setF
    (.slSec 0 0) SL_SEC.STATE st

/-- `s` with the tick logic running. -/
def running (s : State := State.reset) : State := s.setF .stkCtrl STK_CTRL.RUN 1

/-- `s` with every HBM controller trained. -/
def hbmUp (s : State := State.reset) : State :=
  (List.range 16).foldl (fun (s : State) h => s.setF (.hbmStat h) HBM_STAT.TRAINED 1) s

/-- `s` with device ID 7 assigned. -/
def named (s : State := State.reset) : State := (s.setF .devId DEV_ID.DEVICE 7).setF .devId DEV_ID.ASSIGNED 1

/-- `s` at time base `n` ns. -/
def atNs (n : Nat) (s : State := State.reset) : State := { s with tick := { s.tick with tb := n * tbUnit } }

/-- A received frame of connection 0 from device 9 to device 7. -/
def frm (sub pay : List Byte) (seq : Nat := 0) (nc : Bool := false) : Frame :=
  { port := 0, sub := 0, good := true, ce := false, verFlags := if nc then 0x11 else 0x10, typeCls := 1, conn := 0
    seq := BitVec.ofNat 32 seq, ackSeq := 0, srcDev := 9, dstDev := 7, srcUnit := 0, length := BitVec.ofNat 16 pay.length
    tsVal := 0, tsEcr := 0, txCnt := 0, tag := 0, src := 0, subhdr := sub, pay := pay }

/-- Device 7 with connection 0 open to device 9. -/
def linked (s : State := State.reset) : State :=
  (((named s).setF (.cn 0 0) CN.VALID 1).setF (.cn 0 0) CN.STATE cnOpen).setF (.cn 0 0) CN.PEER 9

/-- `s` with cleat 5 active at a value. -/
def cleat5 (v : Nat) (s : State := State.reset) : State := s.setCleat 5 { value := v, st := .active }

/-- The header of an operation on cleat 5 by crowsnest core 0. -/
def hdr5 : CltHdr := { issuer := 0x9000, index := 5, chk := false, epoch := 0 }

/-- `s` with mast 0 bound to section 1. -/
def bound1 (s : State := State.reset) : State := (s.setF (.stkMast 0) STK_MAST.VALID 1).setF (.stkMast 0) STK_MAST.SECTION 1

/-! ### States that meet the hypotheses of the statements -/

theorem witness_StepRunsFront : ({ State.reset with pending := [.tickEdge] } : State).pending = .tickEdge :: [] ∧
    State.reset.pending = [] := by decide +kernel

theorem witness_CanonicalKept : Canonical State.reset ∧ step State.reset = .next State.reset.refPeriod :=
  ⟨by unfold Canonical; decide +kernel, by unfold step; rfl⟩

theorem witness_FusesKept : step { State.reset with pending := [.tickEdge] } =
    exec .tickEdge { State.reset with pending := [] } := rfl

theorem witness_RegisterAccess :
    (1#64).toNat % 8 ≠ 0 ∧
    ((0x0F0003FFFFF8#64).toNat % 8 = 0 ∧ zeroWord (0x0F0003FFFFF8#64).toNat = false ∧ Reg.ofAddr (0x0F0003FFFFF8#64).toNat = none) ∧
    (let a := BitVec.ofNat 64 (Reg.addr (.hbmStat 3))
     a.toNat % 8 = 0 ∧ zeroWord a.toNat = false ∧ Reg.ofAddr a.toNat = some (.hbmStat 3) ∧
     ({ State.reset with fuses := { a12 := true } } : State).regAbsent (.hbmStat 3) = true ∧
     State.reset.regAbsent (.hbmStat 3) = false) ∧
    (let a := BitVec.ofNat 64 (Reg.addr (.tkProg 0))
     a.toNat % 8 = 0 ∧ zeroWord a.toNat = false ∧ Reg.ofAddr a.toNat = some (.tkProg 0) ∧
     State.reset.regAbsent (.tkProg 0) = false ∧ (sect1 1).rwlLocked (.tkProg 0) = true ∧
     (sect1 1).rwlChange (.tkProg 0) 64 = true ∧ State.reset.rwlLocked (.tkProg 0) = false ∧
     (sect1 1).rwlDenied (.tkProg 0) (64#64).toNat true = true ∧ State.reset.rwlDenied (.tkProg 0) (64#64).toNat true = false) := by decide +kernel

theorem witness_AbsentBlocks :
    ({ State.reset with fuses := { a12 := true } } : State).fuses.a12 = true ∧ 15 ∈ [3, 7, 11, 15] ∧
    (BitVec.ofNat 64 (Reg.addr (.scErr 15)) : Word).toNat = Reg.addr (.scErr 15) := by decide +kernel

theorem witness_AccessCodes :
    (STK_GUARD.G ∈ Reg.here .stkGuard ∧ State.reset.regEffect .stkGuard 5 = (.done, State.reset.regStore .stkGuard 5) ∧
      (STK_GUARD.G.acc = .rw ∨ STK_GUARD.G.acc = .rwl)) ∧
    (let s := State.reset.setF (.halErr 0) HAL_ERR.FULL 1
     HAL_ERR.FULL ∈ Reg.here (.halErr 0) ∧ s.regEffect (.halErr 0) 1 = (.done, s.regStore (.halErr 0) 1) ∧
      HAL_ERR.FULL.acc = .w1c) ∧
    (HAL_PTR.HEAD ∈ Reg.here (.halPtr 0 0) ∧
      State.reset.regEffect (.halPtr 0 0) 1 = (.done, State.reset.regStore (.halPtr 0 0) 1) ∧
      HAL_PTR.HEAD.acc ∈ [.ro, .rc, .wo, .w1s]) := by decide +kernel

theorem witness_CompletionEntry : Ready (rdy 0 []) 0 0 (cmd 0 []) ∧
    256 < (((rdy 0 []).mailbox 0).a + 65536 - (cmd 0 []).seq % 65536) % 65536 := by unfold Ready; decide +kernel

theorem witness_MailboxIdentity :
    Ready (rdy 0x01 []) 0 0x01 (cmd 0x01 []) ∧ Ready (rdy 0x02 []) 0 0x02 (cmd 0x02 []) ∧
    (Ready (rdy 0x70 []) 0 0x70 (cmd 0x70 []) ∧ (cmd 0x70 []).p 0x10 2 = 0) ∧
    (Ready (rdy 0x70 [(0x10, 2, 1)]) 0 0x70 (cmd 0x70 [(0x10, 2, 1)]) ∧ (cmd 0x70 [(0x10, 2, 1)]).p 0x10 2 = 1) ∧
    Ready (rdy 0x10 []) 0 0x10 (cmd 0x10 []) ∧ Ready (rdy 0x11 []) 0 0x11 (cmd 0x11 []) := by unfold Ready; decide +kernel

theorem witness_MailboxTime :
    Ready (rdy 0x40 []) 0 0x40 (cmd 0x40 []) ∧
    (let f := [(0x18, 8, 1)]; Ready (rdy 0x41 f running) 0 0x41 (cmd 0x41 f) ∧ (cmd 0x41 f).p 0x18 8 ≠ 0 ∧
      (rdy 0x41 f running).bit .stkCtrl STK_CTRL.RUN = true ∧ Ready (rdy 0x41 f) 0 0x41 (cmd 0x41 f) ∧
      (rdy 0x41 f).bit .stkCtrl STK_CTRL.RUN = false) ∧
    (Ready (rdy 0x41 []) 0 0x41 (cmd 0x41 []) ∧ (cmd 0x41 []).p 0x18 8 = 0) ∧
    (let f := [(0x18, 4, 1000)]; Ready (rdy 0x42 f running) 0 0x42 (cmd 0x42 f) ∧
      (rdy 0x42 f running).bit .stkCtrl STK_CTRL.RUN = true ∧ Ready (rdy 0x42 f) 0 0x42 (cmd 0x42 f) ∧
      (rdy 0x42 f).bit .stkCtrl STK_CTRL.RUN = false) ∧
    (let f := [(0x10, 1, 1)]; Ready (rdy 0x43 f) 0 0x43 (cmd 0x43 f) ∧ (cmd 0x43 f).p 0x10 1 = 1) ∧
    (Ready (rdy 0x43 [] (sect1 2 running)) 0 0x43 (cmd 0x43 []) ∧ (cmd 0x43 []).p 0x10 1 = 0 ∧
      (rdy 0x43 [] (sect1 2 running)).anyRuns = true ∧ Ready (rdy 0x43 [] running) 0 0x43 (cmd 0x43 []) ∧
      (rdy 0x43 [] running).anyRuns = false) ∧
    Ready (rdy 0x44 [(0x13, 1, 1)]) 0 0x44 (cmd 0x44 [(0x13, 1, 1)]) ∧
    (Ready (rdy 0x03 [] (sect1 1)) 0 0x03 (cmd 0x03 []) ∧ (rdy 0x03 [] (sect1 1)).anyLoaded = true ∧
      Ready (rdy 0x03 []) 0 0x03 (cmd 0x03 []) ∧ (rdy 0x03 []).anyLoaded = false) ∧
    Ready (rdy 0x72 [(0x10, 2, 450)]) 0 0x72 (cmd 0x72 [(0x10, 2, 450)]) := by unfold Ready; decide +kernel

theorem witness_DeviceId :
    (sect1 1).anyLoaded = true ∧
    (State.reset.anyLoaded = false ∧ State.reset.devAssigned = false) ∧
    (named.anyLoaded = false ∧ named.devAssigned = true ∧ named.dev = (7#64).toNat % 2 ^ 17) ∧
    (named.dev ≠ (8#64).toNat % 2 ^ 17 ∧
      (∀ k ∈ named.cnList, named.cn k CN.HOST = 1 ∨ named.cn k CN.STATE = cnIdle ∨ named.cn k CN.STATE = cnLost) ∧
      (∀ g, g < 16 → named.shrBusy g = false)) := by decide +kernel

theorem witness_WindowCommands :
    (let f := [(0x18, 8, 0x020100000000), (0x20, 8, 64)]
     let o := rdy 0x50 f (State.reset.setF (.win 0 0) WIN.OPEN 1)
     (Ready o 0 0x50 (cmd 0x50 f) ∧ o.f (.win ((cmd 0x50 f).p 0x10 2) 0) WIN.OPEN = 1) ∧
     (let g := [(0x18, 8, 2 ^ 47 - 1), (0x20, 8, 1)]
      Ready (rdy 0x50 g) 0 0x50 (cmd 0x50 g) ∧ (rdy 0x50 g).f (.win 0 0) WIN.OPEN = 0 ∧
      State.reset.fuses.region (2 ^ 47 - 1) 1 = none) ∧
     (Ready (rdy 0x50 f (sect1 1)) 0 0x50 (cmd 0x50 f) ∧ (rdy 0x50 f (sect1 1)).f (.win 0 0) WIN.OPEN = 0 ∧
      State.reset.fuses.region 0x020100000000 64 ≠ none ∧ (rdy 0x50 f (sect1 1)).winDenied 0x020100000000 64 = true) ∧
     (Ready (rdy 0x50 f) 0 0x50 (cmd 0x50 f) ∧ (rdy 0x50 f).winDenied 0x020100000000 64 = false)) ∧
    (let o := rdy 0x51 [] (State.reset.setF (.win 0 0) WIN.OPEN 1)
     Ready (rdy 0x51 []) 0 0x51 (cmd 0x51 []) ∧ (rdy 0x51 []).mbxUnderWay 0x51 = [] ∧
     (rdy 0x51 []).bit (.win 0 2) WIN.BUSY = false ∧ (rdy 0x51 []).f (.win 0 0) WIN.OPEN = 0 ∧
     Ready o 0 0x51 (cmd 0x51 []) ∧ o.mbxUnderWay 0x51 = [] ∧ o.bit (.win 0 2) WIN.BUSY = false ∧
     o.f (.win 0 0) WIN.OPEN = 1) ∧
    ((State.reset.setF (.win 1023 0) WIN.OPEN 1).f (.win 1023 0) WIN.OPEN = 1 ∧
     State.reset.f (.win 1023 0) WIN.OPEN = 0 ∧ State.reset.winWaits 1023 = false ∧ State.reset.mbxUnderWay 0x51 = [] ∧
     (let s := (State.reset.setF (.win 1023 0) WIN.OPEN 1).setF (.win 1023 1) WIN.LENGTH 1
      let w : TrackedWrite := { mast := 0, addr := 0, data := [1], bad := [], unit := 0, dev := 9, waiting := false }
      ({ s with chip := { s.chip with writes := [w] } } : State).winWaits 1023 = true)) := by
  unfold Ready; decide +kernel

theorem witness_FirmwareCommands :
    (let f := [(0x10, 4, 0x4000000), (8, 4, 1)]
     let s := withData (rdy 0x20 f) [1]
     Ready s 0 0x20 (cmd 0x20 f) ∧ fwSlotSize < (cmd 0x20 f).p 0x10 4 + 1 ∧ (s.mailbox 0).data (cmd 0x20 f) = [1]) ∧
    (let f := [(0x10, 4, 0x3FFFFFF), (8, 4, 1)]
     let s := withData (rdy 0x20 f) [1]
     Ready s 0 0x20 (cmd 0x20 f) ∧ (cmd 0x20 f).p 0x10 4 + 1 ≤ fwSlotSize ∧ (s.mailbox 0).data (cmd 0x20 f) = [1] ∧ Canonical s) ∧
    (let f := [(0x10, 4, 0x4000001)]; Ready (rdy 0x21 f) 0 0x21 (cmd 0x21 f) ∧ fwSlotSize < (cmd 0x21 f).p 0x10 4) ∧
    (Ready (rdy 0x21 []) 0 0x21 (cmd 0x21 []) ∧ (cmd 0x21 []).p 0x10 4 ≤ fwSlotSize) ∧
    (let f := [(0x10, 8, 4096), (8, 4, 1)]
     let s := withData (rdy 0x30 f hbmUp) [1]
     Ready s 0 0x30 (cmd 0x30 f) ∧ s.fuses.region ((cmd 0x30 f).p 0x10 8) (cmd 0x30 f).dataLen = some .hbm ∧
     s.access (.unit (uCn 0)) true ((cmd 0x30 f).p 0x10 8) (cmd 0x30 f).dataLen = .done) ∧
    (let f := [(0x10, 8, 0x020100000000), (8, 4, 1)]
     let s := withData (rdy 0x30 f) [1]
     Ready s 0 0x30 (cmd 0x30 f) ∧ s.fuses.region ((cmd 0x30 f).p 0x10 8) (cmd 0x30 f).dataLen ≠ some .hbm) ∧
    Ready (rdy 0x78 [(0x10, 1, 1), (0x18, 4, 1)]) 0 0x78 (cmd 0x78 [(0x10, 1, 1), (0x18, 4, 1)]) ∧
    Ready (rdy 0x79 []) 0 0x79 (cmd 0x79 []) := by unfold Ready Canonical; decide +kernel

/-- The parts of FW_ACTIVATE's and CAL_APPLY's conditions that the spec gives; the rest is what Config leaves open. -/
theorem witness_FirmwareCommands_open (img : List Byte) (h : Config.fwOk img = true) :
    State.reset.fwValid img = true ∧ State.reset.mastLocked 0 = false ∧ (sect1 1).mastLocked 0 = true := by
  refine ⟨?_, ?_, ?_⟩
  · have : State.reset.boot.floor = 0 := by decide +kernel
    simp [State.fwValid, h, this]
  · decide +kernel
  · decide +kernel

/-- An overlay of one item: identifier, index, zero. -/
def overlay (id i : Nat) : List Byte :=
  leBytes 4 0x4C434B44 ++ leBytes 2 1 ++ leBytes 2 1 ++ zeros 8 ++ leBytes 2 id ++ leBytes 2 i ++ zeros 4

theorem witness_FirmwareCommands_overlay :
    (∀ d ∈ [zeros 24, overlay 1 0, overlay 0x20 0], let f := [(8, 4, 24)]; let s := withData (rdy 0x79 f) d
     Ready s 0 0x79 (cmd 0x79 f) ∧ (s.mailbox 0).data (cmd 0x79 f) = d) ∧
    calOk (zeros 24) = false ∧ calOk (overlay 1 0) = true ∧
    (∃ x ∈ calItems (overlay 1 0), x.1 = 1 ∧ (sect1 1).mastLocked x.2.1 = true) ∧ calOk (overlay 0x20 0) = true ∧
    (∀ x ∈ calItems (overlay 0x20 0), x.1 = 1 → State.reset.mastLocked x.2.1 = false) := by unfold Ready; decide +kernel

theorem witness_DumpCommands :
    (let f := [(0x10, 4, 49152), (0x14, 4, 1)]
     Ready (rdy 0x80 f) 0 0x80 (cmd 0x80 f) ∧ 49152 < (cmd 0x80 f).p 0x10 4 + (cmd 0x80 f).p 0x14 4) ∧
    (let f := [(0x10, 4, 49151), (0x14, 4, 1)]
     Ready (rdy 0x80 f) 0 0x80 (cmd 0x80 f) ∧ (cmd 0x80 f).p 0x10 4 + (cmd 0x80 f).p 0x14 4 ≤ 49152) ∧
    (Ready (rdy 0x81 [(0x11, 1, 8)]) 0 0x81 (cmd 0x81 [(0x11, 1, 8)]) ∧ (cmd 0x81 [(0x11, 1, 8)]).p 0x10 1 = 0) ∧
    (∀ k ∈ [1, 2, 3], let f := [(0x10, 1, k), (0x11, 1, 8)]
     Ready (rdy 0x81 f) 0 0x81 (cmd 0x81 f) ∧ (cmd 0x81 f).p 0x10 1 ≠ 0 ∧ (cmd 0x81 f).p 0x11 1 = 8) ∧
    (∀ k ∈ [1, 2, 3], let f := [(0x10, 1, k), (0x11, 1, 7)]
     Ready (rdy 0x81 f) 0 0x81 (cmd 0x81 f) ∧ (cmd 0x81 f).p 0x10 1 = k ∧ (cmd 0x81 f).p 0x11 1 < 8) ∧
    (let f := [(0x18, 4, 1)]
     let d := rdy 0x82 f (State.reset.wr .fltDumplen 1)
     Ready (rdy 0x82 f) 0 0x82 (cmd 0x82 f) ∧ ((rdy 0x82 f).rd .fltDumplen).toNat < (cmd 0x82 f).p 0x10 8 + (cmd 0x82 f).p 0x18 4 ∧
     Ready d 0 0x82 (cmd 0x82 f) ∧ (cmd 0x82 f).p 0x10 8 + (cmd 0x82 f).p 0x18 4 ≤ (d.rd .fltDumplen).toNat) ∧
    Ready (rdy 0x83 []) 0 0x83 (cmd 0x83 []) := by unfold Ready; decide +kernel

/-- Commands on section 1 in a state; edges a full period away under a running tick. -/
def onSect (op : Nat) (st : Nat) : State := rdy op [(0x10, 1, 1), (0x11, 1, 2), (0x14, 4, 1)] (running (sect1 st))
/-- The command of `onSect`. -/
def sectCmd (op : Nat) : MbxCmd := cmd op [(0x10, 1, 1), (0x11, 1, 2), (0x14, 4, 1)]

/-- `s` with a header held for section 1. -/
def withHdr (h : List Byte) (s : State) : State := s.setSect 1 { s.sect 1 with hdr := h }

/-- A section image of one zero 64 B config part, for mast 0, at its smallest legal fields (R421). -/
def image (s : State) : List Byte :=
  leBytes 4 0x4E534B44 ++ leBytes 2 1 ++ leBytes 2 0 ++ leBytes 1 1 ++ leBytes 1 0xFF ++ leBytes 1 0 ++
  leBytes 1 (s.f .hbmMap HBM_MAP.GRAN) ++ leBytes 1 (s.f .hbmMap HBM_MAP.SPLITG) ++ zeros 3 ++ leBytes 4 s.period ++ leBytes 4 0 ++
  leBytes 4 0 ++ leBytes 4 1 ++ zeros 8 ++ leBytes 8 64 ++ zeros 464

/-- `s` with an image of section 2 at 4 KiB of HBM and a SECTION_LOAD of it at mailbox 0. -/
def imageAt (f : List (Nat × Nat × Nat)) (s : State) : State :=
  let s := hbmUp s
  let s := { s with mem := memPuts s.mem 4096 (image s) }
  rdy 0x31 f s

theorem witness_SectionCommands_load :
    (let f := [(0x10, 1, 2), (0x18, 8, 4096)]
     let s := imageAt f State.reset
     Ready s 0 0x31 (cmd 0x31 f) ∧ (cmd 0x31 f).p 0x10 1 = 2 ∧ s.imgCheck 2 4096 none = (.done, image s) ∧
     s.saveClash 4096 (image s) = false ∧ (∃ e < 8, s.bit (.slSec e 0) SL_SEC.VALID = false)) ∧
    (let f := [(0x10, 1, 2), (0x18, 8, 1)]
     let s := imageAt f State.reset
     Ready s 0 0x31 (cmd 0x31 f) ∧ (s.imgCheck 2 1 none).1 = .badDescriptor) := by
  refine ⟨⟨by unfold Ready; decide +kernel, by decide +kernel, by decide +kernel, by decide +kernel, 0, by decide, by decide +kernel⟩, by unfold Ready; decide +kernel, by decide +kernel⟩

/-- Section 1 with a load in its first phase. -/
def loading : State :=
  let s := sect1 secLoading
  s.setSect 1 { s.sect 1 with hdr := image s, job := .load 0 0 1 none }

theorem witness_SectionCommands_loading :
    loading.loaderNext = some 1 ∧ (loading.sect 1).job = .load 0 0 1 none ∧ loading.secEntry 1 = some 0 ∧
    (loading.secEntry 1).isSome = true ∧ loading.f .slStat SL_STAT.MEASURES = 0 := by decide +kernel

/-- The verify pass of an image that is not signed rests on Config's digest alone. -/
theorem witness_SectionCommands_verify (h : Config.sha512 (zeros 64) = zeros 64) :
    (loading.imgVerify 0 (image loading) [] (some 1)).1 = .done := by
  have a : loading.bytes (0 + 512) (imgLen (image loading)) = zeros 64 := by decide +kernel
  have b : ((image loading).drop 0x40).take 64 = zeros 64 := by decide +kernel
  have c : loading.poisonedAt (0 + 512) (imgLen (image loading)) = false := by decide +kernel
  have d : imgSigned (image loading) = false := by decide +kernel
  have e : ((List.range 8).filter (fun i => loading.bit (.slSec i 0) SL_SEC.VALID &&
    some 1 != some (loading.f (.slSec i 0) SL_SEC.SECTION))) = [] := by decide +kernel
  have g : loading.loader.switches = [] := by decide +kernel
  simp [State.imgVerify, a, b, c, d, e, g, h]

theorem witness_SectionCommands :
    Ready (rdy 0x31 []) 0 0x31 (cmd 0x31 []) ∧
    (∀ op ∈ [0x32, 0x33, 0x34, 0x35, 0x36], Ready (rdy op [(0x10, 1, 1)]) 0 op (cmd op [(0x10, 1, 1)]) ∧
      (rdy op [(0x10, 1, 1)]).secState 1 = none) ∧
    (∀ op ∈ [0x32, 0x34, 0x33, 0x35], Ready (onSect op 3) 0 op (sectCmd op) ∧ (onSect op 3).secState 1 = some secSuspending) ∧
    (∀ st ∈ [1, 4, 5, 6], Ready (onSect 0x35 st) 0 0x35 (sectCmd 0x35) ∧ (onSect 0x35 st).secState 1 = some st) ∧
    (∀ op ∈ [0x32, 0x34], ∀ st ∈ [1, 4], let s := withHdr (image State.reset) (onSect op st)
     Ready s 0 op (sectCmd op) ∧ s.secState 1 = some st ∧ (s.sect 1).job = .none ∧ s.bit .stkCtrl STK_CTRL.RUN = true ∧
     leAt (s.sect 1).hdr 0x10 4 = s.period ∧ (s.edgeIn 1 20).isSome = true ∧
     keyGone (s.sect 1).hdr (s.sect 1).key = false ∧ s.gensSaved 1 = true) ∧
    (let s := withHdr (putAt (image State.reset) 6 [1]) (onSect 0x34 4)
     keyGone (s.sect 1).hdr (s.sect 1).key = true ∧ (s.edgeIn 1 20).isSome = true) ∧
    (let s := withHdr (image State.reset) ((onSect 0x34 4).setF (.fabGen 0) FAB_GEN.GEN 1)
     s.gensSaved 1 = false ∧ keyGone (s.sect 1).hdr (s.sect 1).key = false) ∧
    (let s := withHdr (image State.reset) (rdy 0x32 [(0x10, 1, 1)] (atNs 1000000 (running (sect1 1))))
     s.edgeIn 0 20 = none ∧ s.secState 1 = some secLoaded ∧ Ready s 0 0x32 (cmd 0x32 [(0x10, 1, 1)])) ∧
    (let s := withHdr (putAt (image State.reset) 0x30 (leBytes 8 0x100000)) (onSect 0x33 2)
     let s := s.setStep 1 { s.stepOf 1 with opens := [{ k := 0, missing := [] }] }
     Ready s 0 0x33 (sectCmd 0x33) ∧ s.secState 1 = some secRunning ∧ imgSave (s.sect 1).hdr ≠ 0 ∧ (s.stepOf 1).opens ≠ []) ∧
    (∀ st ∈ [1, 2, 4], let s := withHdr (image State.reset) (onSect 0x36 st)
     Ready s 0 0x36 (sectCmd 0x36) ∧ s.secState 1 = some st ∧ (s.edgeIn 1 200).isSome = true) ∧
    (let s := (withHdr (image State.reset) (onSect 0x34 4)).setSecJob 1 (.restore 0 0 1)
     s.loaderNext = some 1 ∧ (s.sect 1).job = .restore 0 0 1) := by
  unfold Ready; decide +kernel
theorem witness_SectionCommands_edges :
    (let s (op st : Nat) : State := { onSect op st with secs := [(1, { hdr := zeros 16 ++ leBytes 4 1000000 ++ zeros 28 ++ leBytes 8 64 })] }
     (∀ e ∈ [(0x32, 1), (0x34, 4)], Ready (s e.1 e.2) 0 e.1 (sectCmd e.1) ∧ (s e.1 e.2).secState 1 = some e.2 ∧
       ((s e.1 e.2).sect 1).job = .none ∧ (s e.1 e.2).bit .stkCtrl STK_CTRL.RUN = true ∧
       leAt ((s e.1 e.2).sect 1).hdr 0x10 4 = (s e.1 e.2).period ∧ (s e.1 e.2).edgeIn 1 20 = some 1) ∧
     (Ready (atNs 980001 (s 0x32 1)) 0 0x32 (sectCmd 0x32) ∧ (atNs 980001 (s 0x32 1)).edgeIn 1 20 = none) ∧
     (Ready (s 0x33 2) 0 0x33 (sectCmd 0x33) ∧ (s 0x33 2).secState 1 = some secRunning ∧ imgSave ((s 0x33 2).sect 1).hdr ≠ 0) ∧
     (∀ st ∈ [1, 2, 4], Ready (s 0x36 st) 0 0x36 (sectCmd 0x36) ∧ (s 0x36 st).secState 1 = some st ∧
       (s 0x36 st).edgeIn 1 200 = some 1 ∧ (atNs 800001 (s 0x36 st)).edgeIn 1 200 = none)) := by
  unfold Ready; decide +kernel

theorem witness_PowerAndResetCommands :
    (let f := [(0x10, 1, 2), (0x11, 1, 1)]
     (Ready (rdy 0x71 f (sect1 1)) 0 0x71 (cmd 0x71 f) ∧ ∀ m ∈ maskMasts 1, (rdy 0x71 f (sect1 1)).mastLocked m = true) ∧
     (Ready (rdy 0x71 f) 0 0x71 (cmd 0x71 f) ∧ (cmd 0x71 f).p 0x10 1 = 2 ∧
      ∀ m ∈ maskMasts ((cmd 0x71 f).p 0x11 1), (rdy 0x71 f).mastLocked m = false)) ∧
    (let f := [(0x10, 1, 1), (0x11, 1, 255)]
     Ready (rdy 0x71 f (State.reset.setF .fltStat FLT_STAT.DEVICE_FATAL 1)) 0 0x71 (cmd 0x71 f) ∧ (cmd 0x71 f).p 0x10 1 < 2 ∧
     (rdy 0x71 f (State.reset.setF .fltStat FLT_STAT.DEVICE_FATAL 1)).bit .fltStat FLT_STAT.DEVICE_FATAL = true) ∧
    (let f := [(0x10, 1, 2)]; Ready (rdy 0x90 f) 0 0x90 (cmd 0x90 f) ∧ (cmd 0x90 f).p 0x10 1 = 2) ∧
    (let f := [(0x10, 1, 3), (0x11, 1, 0)]
     Ready (rdy 0x90 f (sect1 1)) 0 0x90 (cmd 0x90 f) ∧ (rdy 0x90 f (sect1 1)).mastLocked 0 = true ∧
     Ready (rdy 0x90 f) 0 0x90 (cmd 0x90 f) ∧ (rdy 0x90 f).mastLocked 0 = false) ∧
    (let f := [(0x10, 1, 4), (0x11, 1, 0)]
     let u : State := { sect1 1 (linked (State.reset.setF (.rem 0 0) REM.DEV 9)) with secs := [(1, { writes := [.rem 0 0] })] }
     Ready (rdy 0x90 f u) 0 0x90 (cmd 0x90 f) ∧ (rdy 0x90 f u).portUsed 0 = true ∧
     Ready (rdy 0x90 f) 0 0x90 (cmd 0x90 f) ∧ (rdy 0x90 f).portUsed 0 = false) := by unfold Ready; decide +kernel

theorem witness_SecurityCommands :
    (Ready (rdy 0x12 []) 0 0x12 (cmd 0x12 []) ∧ ((rdy 0x12 []).mailbox 0).data (cmd 0x12 []) = []) ∧
    (let f := [(8, 4, 133)]; let s := withData (rdy 0x12 f) (zeros 133)
     Ready s 0 0x12 (cmd 0x12 f) ∧ ((s.mailbox 0).data (cmd 0x12 f)).length = 133) ∧
    (let f := [(0x10, 1, 1), (8, 4, 564)]; let s := withData (rdy 0x13 f) (zeros 564)
     Ready s 0 0x13 (cmd 0x13 f) ∧ ((s.mailbox 0).data (cmd 0x13 f)).length = 564 ∧
     leAt ((s.mailbox 0).data (cmd 0x13 f)) 6 1 ≠ (cmd 0x13 f).p 0x10 1) ∧
    (let f := [(8, 4, 564)]; let s := withData (rdy 0x13 f) (zeros 564); let l := withData (rdy 0x13 f (sect1 1)) (zeros 564)
     Ready s 0 0x13 (cmd 0x13 f) ∧ leAt ((s.mailbox 0).data (cmd 0x13 f)) 6 1 = (cmd 0x13 f).p 0x10 1 ∧
     leAt ((s.mailbox 0).data (cmd 0x13 f)) 7 1 = (cmd 0x13 f).p 0x11 1 ∧ s.keyBusy 0 0 = false ∧
     Ready l 0 0x13 (cmd 0x13 f) ∧ l.keyBusy 0 0 = true) ∧
    (Ready (rdy 0x14 []) 0 0x14 (cmd 0x14 []) ∧ (rdy 0x14 []).bit .secStat SEC_STAT.OWNER_BOUND = false) := by
  unfold Ready; decide +kernel

/-- The first 8 bytes of a debug token of level 1 (R460). -/
def tokenHead : List Byte := [0x44, 0x4B, 0x55, 0x4C, 1, 0, 1, 0]
/-- A debug token: serial number, digest of the import key, signature. -/
def token (serial h sig : List Byte) : List Byte := tokenHead ++ (fit 16 serial ++ (h ++ sig))
/-- A field within the first part of a byte string. -/
theorem leAt_append (a b : List Byte) (o n : Nat) (h : o + n ≤ a.length) : leAt (a ++ b) o n = leAt a o n := by
  unfold leAt
  rw [List.drop_append_of_le_length (by omega), List.take_append_of_le_length (by simp; omega)]
/-- The fields of a debug token. -/
theorem token_fields (serial h sig : List Byte) (hh : h.length = 64) (hs : sig.length = 132) :
  let d := token serial h sig
  d.length = 220 ∧ leAt d 0 4 = 0x4C554B44 ∧ leAt d 4 2 = 1 ∧ leAt d 7 1 = 0 ∧ leAt d 6 1 = 1 ∧ (d.drop 8).take 16 = fit 16 serial ∧ (d.drop 0x18).take 64 = h ∧ (d.drop 0x58).take 132 = sig := by
  have h16 : (fit 16 serial).length = 16 := by simp [fit, zeros]; omega
  have h8 : tokenHead.length = 8 := rfl
  have hb : (d : List Byte) → d = token serial h sig → d.drop 8 = fit 16 serial ++ (h ++ sig) := by
    rintro _ rfl; exact List.drop_left' h8
  refine ⟨by simp [token, h16, hh, hs, h8], ?_, ?_, ?_, ?_, ?_, ?_, ?_⟩
  · exact (leAt_append _ _ _ _ (by decide)).trans (by decide)
  · exact (leAt_append _ _ _ _ (by decide)).trans (by decide)
  · exact (leAt_append _ _ _ _ (by decide)).trans (by decide)
  · exact (leAt_append _ _ _ _ (by decide)).trans (by decide)
  · rw [hb _ rfl]; exact List.take_left' h16
  · rw [show 0x18 = 8 + 16 from rfl, ← List.drop_drop, hb _ rfl, List.drop_left' h16, List.take_left' hh]
  · rw [show 0x58 = 8 + (16 + 64) from rfl, ← List.drop_drop, hb _ rfl, ← List.drop_drop, List.drop_left' h16, List.drop_left' hh, ← hs, List.take_length]
/-- The DATA_IN of a command that has arrived whole in one message. -/
theorem data_whole (c : MbxCmd) (d : List Byte) (hn : c.need = d.length) (hs : c.seq = 0) :
    (({ n := 1, a := 65535, ring := [c], dataIn := [(0, 0, d)] } : Mailbox).data c) = d ∧
    (({ n := 1, a := 65535, ring := [c], dataIn := [(0, 0, d)] } : Mailbox).dataFull c) = true := by
  constructor
  · simp [Mailbox.data, Mailbox.dataFor, hn, hs, putAt, zeros]
  · simp [Mailbox.dataFull, Mailbox.dataFor, hn, hs, coverFrom]
/-- DEBUG_UNLOCK ready with 220 bytes of DATA_IN. -/
theorem debug_ready (d : List Byte) (h : d.length = 220) (s0 : State): let f := [(8, 4, 220)]; let s := withData (rdy 0x14 f s0) d
   Ready s 0 0x14 (cmd 0x14 f) ∧ (s.mailbox 0).data (cmd 0x14 f) = d := by
  have hn : (cmd 0x14 [(8, 4, 220)]).need = d.length := by rw [h]; decide
  have ho : (cmd 0x14 [(8, 4, 220)]).op = 0x14 := by decide
  obtain ⟨h1, h2⟩ := data_whole _ d hn rfl
  have hm : (withData (rdy 0x14 [(8, 4, 220)] s0) d).mailbox 0 =
    { n := 1, a := 65535, ring := [cmd 0x14 [(8, 4, 220)]], dataIn := [(0, 0, d)] } := rfl
  refine ⟨?_, hm ▸ h1⟩
  have hh : (({ n := 1, a := 65535, ring := [cmd 0x14 [(8, 4, 220)]], dataIn := [(0, 0, d)] } : Mailbox)).head = some (cmd 0x14 [(8, 4, 220)]) := by
    simp [Mailbox.head, ho]
  unfold Ready State.mbxReady
  rw [hm, hh]
  simp only [h2, ho]
  rfl

/-- Every condition of DEBUG_UNLOCK's completion, where the digest has its 64 bytes and the owner's signature verifies. -/
theorem witness_SecurityCommands_unlock (hh : ∀ x, (Config.sha512 x).length = 64)
    (hs : ∀ x, Config.ecdsaOk [] x (zeros 132) = true) :
    let s0 := State.reset.setF .secStat SEC_STAT.OWNER_BOUND 1
    let d := token s0.fuses.serial (Config.sha512 (fit 133 (Config.p521Pub s0.sec.importKey))) (zeros 132)
    let c := cmd 0x14 [(8, 4, 220)]
    let s := withData (rdy 0x14 [(8, 4, 220)] s0) d
    Ready s 0 0x14 c ∧ (s.mailbox 0).data c = d ∧ d.length = 220 ∧ leAt d 0 4 = 0x4C554B44 ∧ leAt d 4 2 = 1 ∧ leAt d 7 1 = 0 ∧
    leAt d 6 1 = 1 ∧ s.bit .secStat SEC_STAT.OWNER_BOUND = true ∧ (d.drop 8).take 16 = fit 16 s.fuses.serial ∧
    (d.drop 0x18).take 64 = Config.sha512 (fit 133 (Config.p521Pub s.sec.importKey)) ∧
    Config.ecdsaOk s.sec.ownerPub (d.take 0x58) ((d.drop 0x58).take 132) = true ∧ s.f .secStat SEC_STAT.DEBUG < 1 := by
  intro s0 d c s
  obtain ⟨h1, h2, h3, h4, h5, h6, h7, h8⟩ := token_fields s0.fuses.serial
    (Config.sha512 (fit 133 (Config.p521Pub s0.sec.importKey))) (zeros 132) (hh _) rfl
  obtain ⟨r1, r2⟩ := debug_ready d h1 s0
  refine ⟨r1, r2, h1, h2, h3, h4, h5, ?_, h6, h7, ?_, ?_⟩
  · show s0.bit .secStat SEC_STAT.OWNER_BOUND = true
    decide +kernel
  · rw [h8]; exact hs _
  · show s0.f .secStat SEC_STAT.DEBUG < 1
    decide +kernel

theorem witness_CommandLimits :
    (let c (g : Bool) : MbxCmd := { cmd 0x20 [(8, 4, 1)] with granted := g }
     let s (n : Nat) (g : Bool) : State := { State.reset with refs := n, mbx := [(0, { n := 1, ring := [c g] })] }
     ((s 156250000 false).mailbox 0).head = some (c false) ∧ (c false).head = some 0 ∧ (c false).start = none ∧
     0 + 1000000000 ≤ (s 156250000 false).now ∧ ((s 156250000 true).mailbox 0).head = some (c true) ∧ (c true).granted = true ∧
     ((s 156250000 true).mailbox 0).dataFull (c true) = false ∧ (s 156249999 false).now < 0 + 1000000000) := by decide +kernel

theorem witness_HostRegisterCommands :
    (let f := [(0x10, 8, 4), (0x18, 2, 1)]
     Ready (rdy 0x60 f) 0 0x60 (cmd 0x60 f) ∧ 0 < (cmd 0x60 f).p 0x18 2 ∧ (rdy 0x60 f).readCheck 4 ≠ .done) ∧
    (let a := Reg.addr .devIdent
     let f := [(0x10, 8, a), (0x18, 2, 1), (8, 4, 7)]; let g := [(0x10, 8, a), (0x18, 2, 1)]
     Ready (rdy 0x60 f) 0 0x60 (cmd 0x60 f) ∧ (∀ j, j < (cmd 0x60 f).p 0x18 2 → (rdy 0x60 f).readCheck (a + 8 * j) = .done) ∧
     (cmd 0x60 f).dataLen ≠ 0 ∧ (cmd 0x60 f).dataLen < 8 * (cmd 0x60 f).p 0x18 2 ∧
     Ready (rdy 0x60 g) 0 0x60 (cmd 0x60 g) ∧ (cmd 0x60 g).p 0x18 2 = 1 ∧ (rdy 0x60 g).readCheck a = .done) ∧
    (let f := [(0x10, 8, Reg.addr (.tkProg 0)), (0x20, 8, 1)]
     Ready (rdy 0x61 f) 0 0x61 (cmd 0x61 f) ∧ (rdy 0x61 f).writeCheck (Reg.addr .devIdent) 1 ≠ .done) ∧
    (let a := Reg.addr .pwrCtrl
     let f := [(0x10, 8, a), (0x20, 8, 0)]
     Ready (rdy 0x61 f) 0 0x61 (cmd 0x61 f) ∧ (rdy 0x61 f).writeCheck a 0 = .done ∧ regDecode a matches .ok (some .pwrCtrl)) ∧
    (let f := [(0x10, 8, 0x0F0002008000)]
     Ready (rdy 0x61 f) 0 0x61 (cmd 0x61 f) ∧ regDecode ((cmd 0x61 f).p 0x10 8) matches .ok none) := by
  unfold Ready; decide +kernel

theorem witness_CleatOperations :
    CleatTakes (cleat5 3) hdr5 ∧ Unheld (cleat5 3) hdr5.issuer.toNat ∧ (3#31).toNat ≤ ((cleat5 3).cleat 5).value ∧
    (cleat5 3).segHolds (cleatSeg 5) = false ∧ ((cleat5 3).cleat 5).value < (4#31).toNat ∧
    (let w : Wait := { cleat := 6, n := 4, consume := false, unit := 0x8000, start := 0, tmo := 1, who := .plain, held := true }
     let s : State := { cleat5 3 with clt := { (cleat5 3).clt with waits := [w] } }
     CleatTakes s hdr5 ∧ Unheld s hdr5.issuer.toNat ∧ s.segHolds (cleatSeg 5) = true) := by
  unfold CleatTakes Unheld; decide +kernel

theorem witness_CleatRefusals :
    (State.reset.isProxy 5 = false ∧ Unheld State.reset 0x3000 ∧ ∀ k ∈ [0, 1, 2, 3, 4, 5], State.reset.cltCheck (CltHdr.req { hdr5 with issuer := 0x3000 } k) 0x3000 ≠ .done) ∧
    (let s := State.reset.setF (.pxy 0) PXY.VALID 1
     s.isProxy (48128#16).toNat = true ∧ (48128#16).toNat ≤ cleatMax) := by unfold Unheld; decide +kernel

theorem witness_CleatWaits :
    (let w (h : Bool) : Wait := { cleat := 5, n := 4, consume := false, unit := 0x8000, start := 0, tmo := 1, who := .plain, held := h }
     let s (h : Bool) (n : Nat) : State := { cleat5 3 with refs := n, clt := { (cleat5 3).clt with waits := [w h] } }
     (∀ x ∈ State.reset.clt.waits, x.held = true → cleatSeg x.cleat ≠ 0) ∧
     ((s true 0).segWaits 0 < 2048 ∧ (s true 0).clt.waits = [] ++ w true :: [] ∧ cleatSeg 5 = 0) ∧
     ((s false 157).clt.waits = [] ++ w false :: [] ∧ (w false).tmo ≠ 0 ∧ 0 + 1000 * 1 ≤ (s false 157).now ∧
      ∀ x ∈ (s false 156).clt.waits, (s false 156).now < x.start + 1000 * x.tmo)) ∧
    (let p : ProxyOp := { idx := 0, op := 2, operand := 1, st := .done, renew := false, unit := 0x8000 }
     let q (s : State) : State := { s.setF (.pxy 0) PXY.DEV 9 with net := { s.net with proxies := [p] } }
     let o : RemOp := { id := 0, cn := 0, unit := 0x8000, dst := 9, seqs := [], cont := .part 0 }
     let b : State := { q linked with net := { (q linked).net with ops := [o], nextId := 1 } }
     b.net.proxies = p :: [] ∧ b.remoteOwes p.unit b.net.nextId = true ∧ (∀ p ∈ State.reset.net.proxies, p.idx ≠ 0) ∧
     (q State.reset).remoteOwes p.unit (q State.reset).net.nextId = false ∧
     (q State.reset).net.proxies = p :: [] ∧ (q State.reset).net.ops = [] ∧ (q State.reset).devAssigned = false ∧
     (q named).devAssigned = true ∧ (q named).connFor ((q named).f (.pxy 0) PXY.DEV) p.unit = none ∧
     (q linked).devAssigned = true ∧ (q linked).connFor ((q linked).f (.pxy 0) PXY.DEV) p.unit = some 0) := by decide +kernel
theorem witness_FrameRules :
    ({ frm [] [] with good := false } : Frame).good = false ∧
    (frameBad { frm [] [] with verFlags := 0 } tWrite = true) ∧
    (∀ e ∈ [(tWrite, 24), (tReadReq, 16), (tReadResp, 16), (tRadd, 24), (tCleatOp, 32), (tShroud, 8), (tControl, 8)],
      let f := frm (zeros e.2) []
      frameBad f e.1 = false ∧ bitN f.verFlags.toNat 0 = false ∧ State.reset.cn (frameConn f) CN.VALID = 0 ∧
      linked.cn (frameConn f) CN.VALID = 1 ∧ linked.cn (frameConn f) CN.PEER = f.srcDev.toNat ∧
      ({ f with conn := 0x1000 } : Frame).conn.toNat / 4096 ≠ linked.cn 0 CN.EPOCH ∧ frameConn { f with conn := 0x1000 } = 0 ∧
      Arrives linked f e.1 ∧ Fresh linked f) ∧
    (let f := frm (zeros 24) [] (2 ^ 32 - 1)
     Arrives linked f tWrite ∧ (acked linked f).cn (frameConn f) CN.STATE ∈ [cnOpen, cnClosing] ∧
     2 ^ 31 ≤ serDist f.seq.toNat ((acked linked f).rcvNxt (frameConn f))) := by
  unfold Arrives Fresh Unseen; decide +kernel

/-- A window of 64 B at the start of mast 0's activation memory, open to device 9. -/
def window0 (s : State := linked) : State :=
  let s := ((s.setF (.win 0 0) WIN.BASE 0x020100000000).setF (.win 0 1) WIN.LENGTH 64).setF (.win 0 0) WIN.OPEN 1
  ((s.setF (.win 0 0) WIN.PW 1).setF (.win 0 0) WIN.PR 1).setF (.win 0 1) WIN.PEER 9

theorem witness_FrameEffects :
    (let f := frm (leBytes 8 0x02010000003F ++ zeros 16) [0xAB]
     Fresh window0 f ∧ (taken window0 f).cn (frameConn f) CN.HOST = 0 ∧ Arrives window0 f tWrite ∧
     (taken window0 f).windowCheck 0 0x02010000003F 1 9 WIN.PW = .done ∧
     (taken window0 f).access .remote true 0x02010000003F 1 = .done ∧ Calm window0) ∧
    (let f := frm (leBytes 8 0x020100000040 ++ zeros 16) [0xAB]
     Arrives window0 f tWrite ∧ (taken window0 f).windowCheck 0 0x020100000040 1 9 WIN.PW = .outOfBounds) ∧
    (let f := frm (leBytes 8 0x020100000000 ++ [0, 0, 64, 0] ++ zeros 4) []
     Arrives window0 f tReadReq ∧ Fresh window0 f ∧ leAt f.subhdr 10 2 = 64 ∧ Calm window0 ∧ (taken window0 f).cn (frameConn f) CN.HOST = 0 ∧
     (taken window0 f).windowCheck 0 0x020100000000 64 9 WIN.PR = .done ∧
     (taken window0 f).access .remote false 0x020100000000 64 = .done ∧ (taken window0 f).cn 0 CN.STATE = cnOpen ∧
     0 < ((taken window0 f).conn 0).maxpay) ∧
    (let f := frm (zeros 16) [0xAB]
     let r : OutRead := { tag := 0, cn := 0, unit := uCn 0, len := 1 }
     let s : State := { linked with net := { linked.net with reads := [r] } }
     Arrives linked f tReadResp ∧ Fresh linked f ∧ (taken linked f).net.reads = [] ∧ Arrives s f tReadResp ∧ Fresh s f ∧
     (taken s f).cn (frameConn f) CN.HOST = 0 ∧ (taken s f).net.reads = [r] ∧ r.tag = leAt f.subhdr 0 4 ∧ leAt f.subhdr 4 1 = 0 ∧
     leAt f.subhdr 6 2 = 0 ∧ r.len = f.pay.length) ∧
    (∀ k ∈ [0, 1], let f := frm (zeros 20 ++ leBytes 1 k ++ zeros 11) []
     Arrives linked f tCleatOp ∧ Fresh linked f ∧ leAt f.subhdr 20 1 = k) ∧
    (let f := frm (zeros 10 ++ [1] ++ zeros 13) []
     let s := ((linked.setF (.bkt 0 0) BKT.STATE 3).setF (.bkt 0 2) BKT.EXPECTED 2)
     Arrives s f tRadd ∧ Fresh s f ∧ (taken s f).entState 0 = 3 ∧ (taken s f).f (.bkt 0 0) BKT.EPOCH = 0 ∧
     (taken s f).roundFull 0 = false ∧ ((taken s f).round 0).last = none ∧ ((taken s f).round 0).ticked = false) ∧
    (let f := frm (leBytes 8 0x020100000000 ++ zeros 16) (zeros 4)
     let s := ((((linked.setF (.bkt 0 0) BKT.STATE 3).setF (.bkt 0 2) BKT.EXPECTED 2).setF (.bkt 0 0) BKT.BASE 0x020100000000).setF
       (.bkt 0 1) BKT.LENGTH 64)
     let t := taken s f; let a := 0x020100000000
     Arrives s f tRadd ∧ Fresh s f ∧ Canonical s ∧ t.cn (frameConn f) CN.HOST = 0 ∧ (∀ o < 8, t.entState (4096 + o) = 0) ∧
     t.entState 0 = 3 ∧ t.f (.bkt 0 0) BKT.EPOCH = leAt f.subhdr 8 2 / 4096 ∧ t.roundFull 0 = false ∧ (t.round 0).last = none ∧
     (t.round 0).ticked = false ∧ t.entK16 0 = bitN (leAt f.subhdr 11 1) 0 ∧ f.pay.length ≠ 0 ∧
     f.pay.length % (t.entFmt 0).bytes = 0 ∧ a % (t.entFmt 0).bytes = 0 ∧ t.entBase 0 ≤ a ∧
     a + f.pay.length ≤ t.entBase 0 + t.entLen 0 ∧ ¬ t.entBase 0 < 0x018000000000) ∧
    (let f := frm (zeros 8) []; let s := linked.setF (.shrGrp 0) SHR_GRP.VALID 1
     Arrives s f tShroud ∧ Fresh s f ∧ (taken linked f).bit (.shrGrp 0) SHR_GRP.VALID = false ∧
     (taken s f).bit (.shrGrp 0) SHR_GRP.VALID = true ∧ (taken s f).shrStat 0 SHR_STAT.GEN = leAt f.subhdr 4 2 ∧
     (taken s f).bit (.shrStat 0) SHR_STAT.LOST = false ∧ bitN ((taken s f).shrStat 0 SHR_STAT.ARRIVED) 0 = false) := by
  unfold Arrives Fresh Unseen Calm Canonical; refine ⟨?_, ?_, ?_, ?_, ?_, ?_, ?_, ?_⟩ <;> decide +kernel

/-- Section 1 bound to mast 0 in a running tick at a time base, after device edge 1. -/
def ticking (n : Nat) (opens : List OpenStep) (s : State := State.reset) : State :=
  let s := atNs n (running (bound1 s))
  { s with tick := { s.tick with nextK := 2, steps := [(1, { k := 1, nextEdge := 1, opens := opens })] } }

theorem witness_TickEdges :
    (State.reset.bit .stkCtrl STK_CTRL.RUN = false) ∧
    ((atNs 1000000 running).bit .stkCtrl STK_CTRL.RUN = true ∧
      (atNs 1000000 running).edgeAt (atNs 1000000 running).tick.nextK * tbUnit ≤ (atNs 1000000 running).tick.tb) ∧
    (State.reset.secTicks 1 = false) ∧
    (let s := ticking 1000000 []
     s.secTicks 1 = true ∧ s.secNext 1 = 1 ∧ 1 < s.tick.nextK ∧ (s.edgeAt 1 + (s.binding 1).1) * tbUnit ≤ s.tick.tb ∧
     (Tbl.get {} s.secs 1).cutoff = none ∧ s.tick.policy = false ∧ (∀ o ∈ (s.stepOf 1).opens, o.mark = false) ∧
     ∀ u ∈ s.reporters 1, u / 4096 % 16 = 4 → s.flRestarts (u % 4096) = false) ∧
    (let s : State := { ticking 1000000 [] with secs := [(1, { cutoff := some 1000000 })] }
     s.secTicks 1 = true ∧ ∀ c, (Tbl.get {} s.secs 1).cutoff = some c → 1000000 = c ∧ c < s.deadlineAt 1 1) ∧
    (let s := ticking 1000000 [{ k := 0, missing := [uSeq 0], mark := true }]
     s.secTicks 1 = true ∧ s.tick.policy = false ∧
     ∃ o ∈ (s.stepOf 1).opens, o.mark = true ∧ s.lateAt 1 o (s.edgeAt 1 + (s.binding 1).1) ≠ []) := by
  decide +kernel

theorem witness_StepReports :
    (State.reset.tick.reports = []) ∧
    (let r (s : State) : State := { s with tick := { s.tick with reports := [(uSeq 0, 5)] } }
     (r State.reset).tick.reports = [] ++ (uSeq 0, 5) :: [] ∧ ((r State.reset).workMast (uSeq 0)).bind (r State.reset).mastSection = none ∧
     (∀ l ∈ [[uSeq 0], [uSeq 0, uJib 0]], let s := r (ticking 1000000 [{ k := 1, missing := l }])
      (s.workMast (uSeq 0)).bind s.mastSection = some 1 ∧ (s.stepOf 1).opens = [{ k := 1, missing := l }])) ∧
    (State.reset.stepOf 1).opens = [] ∧
    (let o : OpenStep := { k := 1, missing := [uSeq 0] }
     let s (n : Nat) := ticking n [o]
     ((s 1000000).stepOf 1).opens = o :: [] ∧ o.checked = false ∧ (s 1000000).tick.tb < (s 1000000).deadlineAt 1 1 * tbUnit ∧
     (s 2000000).deadlineAt 1 1 * tbUnit ≤ (s 2000000).tick.tb ∧ (s 2000000).lateAt 1 o ((s 2000000).deadlineAt 1 1) ≠ [] ∧
     (s 2000000).tick.policy = false ∧ (s 2000000).lateAt 1 { o with missing := [] } ((s 2000000).deadlineAt 1 1) = []) ∧
    (let o : OpenStep := { k := 1, missing := [uSeq 0], checked := true }
     let s : State := { ticking 2000000 [o] with tick := { (ticking 2000000 [o]).tick with policy := true } }
     (s.stepOf 1).opens = o :: [] ∧ o.checked = true ∧ o.mark = false ∧ s.tick.policy = true ∧
     (s.deadlineAt 1 1 + s.grace) * tbUnit ≤ s.tick.tb ∧ s.lateAt 1 o (s.deadlineAt 1 1 + s.grace) ≠ []) := by decide +kernel

theorem witness_TimePins :
    State.reset.pinsOn = false ∧
    (let s := State.reset.setF .bootStat BOOT_STAT.PHASE 3
     let f := s.setF .stkCtrl STK_CTRL.PINMODE 1
     s.pinsOn = true ∧ s.f .stkCtrl STK_CTRL.PINMODE % 2 = 0 ∧ f.pinsOn = true ∧ f.f .stkCtrl STK_CTRL.PINMODE % 2 = 1 ∧
     (1000 * tbUnit < (Int.ofNat ((atNs 1001 f).tbAt 0) - 0).natAbs) ∧
     ((Int.ofNat (f.tbAt 0) - Int.ofNat (f.t0 * tbUnit + f.cable + 0 * (f.period * tbUnit))).natAbs ≤ 1000 * tbUnit) ∧
     (f.t0 * tbUnit + f.cable + f.tick.expectK * (f.period * tbUnit) + 1000 * tbUnit < (atNs 1001 f).tick.tb) ∧
     (f.tick.tb ≤ f.t0 * tbUnit + f.cable + f.tick.expectK * (f.period * tbUnit) + 1000 * tbUnit)) ∧
    running.bit .stkCtrl STK_CTRL.RUN = true ∧ State.reset.bit .stkCtrl STK_CTRL.RUN = false := by decide +kernel

/-- Bucket 0 of crowsnest over one line of mast 0 in a state of R329. -/
def bucket0 (st : Nat) (s : State := State.reset) : State :=
  let s := ((s.setF (.bkt 0 0) BKT.STATE st).setF (.bkt 0 0) BKT.BASE 0x020100000000).setF (.bkt 0 1) BKT.LENGTH 64
  (s.setF (.bkt 0 3) BKT.SECTION 255).setF (.bkt 0 2) BKT.EXPECTED 1

theorem witness_Reductions :
    State.reset.entState 0 ≠ 1 ∧
    ((bucket0 1).entState 0 = 1 ∧ (bucket0 1).entArm 0 = 0xFFFF ∧ (bucket0 1).entSection 0 = 0xFF ∧
      (bucket0 1).f .stkCtrl STK_CTRL.RUN = 0 ∧ ((bucket0 1).setF (.bkt 0 3) BKT.SECTION 1).entSection 0 ≠ 0xFF) ∧
    ((bucket0 2).entState 0 = 2 ∧ ((bucket0 2).entBase 0 < 0x018000000000 → (bucket0 2).hbmStatus = .done) ∧
      ((bucket0 2).setF (.bkt 0 0) BKT.BASE 0).hbmStatus ≠ .done ∧ ((bucket0 2).setF (.bkt 0 0) BKT.BASE 0).entState 0 = 2) ∧
    ((bucket0 3).roundFull 0 = false ∧ ((bucket0 3).setF (.bkt 0 2) BKT.ARRIVED 1).roundFull 0 = true) ∧
    (let s (e : Nat) : State := ((bucket0 3).setF (.bkt 0 3) BKT.SECTION 1).setRound 0 { ticked := true, edges := e }
     (s 2).entState 0 = 3 ∧ ((s 2).round 0).ticked = true ∧ (s 2).roundFull 0 = false ∧ (s 2).entSection 0 ≠ 0xFF ∧
     (s 2).ent 0 BKT.TMO ORD.TMO ≤ ((s 2).round 0).edges ∧ ((s 1).round 0).edges < (s 1).ent 0 BKT.TMO ORD.TMO) ∧
    (let s := ((State.reset.setF (.ord 0 0) ORD.STATE 3).setF (.ord 0 0) ORD.BASE 0x020100000000).setRound 4096
       { staged := [(0, zeros 64, 0, .contrib 0)] }
     Canonical s ∧ s.entState (4096 + 0) = 3 ∧ (s.round 4096).staged = [] ++ (s.f (.ord 0 4) ORD.APPLIED, zeros 64, 0, .contrib 0) :: []) ∧
    (State.reset.red.retries = []) ∧
    (let m : RaddMsg := { trailer := true, tag := 0, epoch := 0, tick := 0, k16 := false, addr := 0, data := [], mask := 0, f := 0
                          count := 0, cksum := 0, dev := 0, unit := 0 }
     let r : RaddRetry := { contrib := 3, msg := m, due := 0, wait := 256 }
     let c : Contrib := { id := 3, pend := 0, left := 1, tag := 0, epoch := 0, k16 := false, tick := 0, f := 0, dst := 0, unit := 0 }
     let s : State := { State.reset with red := { State.reset.red with retries := [r], contribs := [c] } }
     s.red.retries = r :: [] ∧ r.due ≤ s.now ∧ (∀ x ∈ s.red.contribs, s.raddOver x = false) ∧
     (let y : Contrib := { c with firstBusy := some (0, 1) }
      let u : State := { s with refs := 1, red := { s.red with contribs := [y] } }
      u.red.contribs = y :: [] ∧ u.raddOver y = true)) ∧
    (let g : Grant := { key := entKey 0, st := .done }
     let s : State := { (bucket0 1).setF (.bkt 0 1) BKT.ARMCLEAT 5 with clt := { grants := [g] } }
     s.entState 0 = 1 ∧ s.entArm 0 ≠ 0xFFFF ∧ s.clt.grants = g :: [] ∧ g.key = entKey (0 : Fin 4104).val) := by
  unfold Canonical; decide +kernel

theorem witness_AbortFrames :
    ({ frm [] [] with good := false } : Frame).good = false ∧
    (let f := frm (zeros 32) [] (nc := true); f.good = true ∧ f.pay.length ≠ 16) ∧
    (let f := frm (zeros 32) (zeros 16) (nc := true)
     f.good = true ∧ frameBad f tAbort = false ∧ bitN f.verFlags.toNat 0 = true ∧ f.pay.length = 16 ∧
     leAt f.subhdr 0 1 = 0 ∧ leAt f.subhdr 1 1 ≤ 1 ∧
     State.reset.sec.abort.find? (fun e => e.1 == leAt f.subhdr 3 1) = none ∧
     ({ State.reset with sec := { State.reset.sec with abort := [(0, zeros 32)] } } : State).sec.abort.find?
       (fun e => e.1 == leAt f.subhdr 3 1) = some (0, zeros 32)) := by decide +kernel

theorem witness_AbortCourse :
    (State.reset.bit .abtStat ABT_STAT.ACTIVE = false ∧ State.reset.abortScope 0 0 = []) ∧
    ((sect1 2).bit .abtStat ABT_STAT.ACTIVE = false ∧
      (sect1 2).abortScope ((sect1 2).f .abtCtrl ABT_CTRL.SCOPE) ((sect1 2).f .abtCtrl ABT_CTRL.SECTION) ≠ []) ∧
    (let a : State := { (State.reset.setF .abtStat ABT_STAT.ACTIVE 1) with refs := 12500 }
     let w : TrackedWrite := { mast := 0, addr := 0x020100000000, data := [1], bad := [], unit := uSeq 0, dev := 0, waiting := false }
     let b : State := { sect1 2 a with abt := { scope := [1] }, chip := { a.chip with writes := [w] } }
     a.bit .abtStat ABT_STAT.ACTIVE = true ∧ a.abortQuiet = true ∧ b.bit .abtStat ABT_STAT.ACTIVE = true ∧
     b.abortQuiet = false ∧ b.abt.start + 80000 ≤ b.now) ∧
    (State.reset.mailbox 0).abortHead = none ∧
    (((rdy 0xF0 []).mailbox 0).abortHead = some (cmd 0xF0 []) ∧ (rdy 0xF0 []).mbxCheck (cmd 0xF0 []) = .done) ∧
    (let f := [(0x10, 1, 2)]
     ((rdy 0xF0 f).mailbox 0).abortHead = some (cmd 0xF0 f) ∧ (rdy 0xF0 f).mbxCheck (cmd 0xF0 f) ≠ .done) := by decide +kernel

theorem witness_WatchdogAndRestart :
    State.reset.f .cnStat CN_STAT.CORES_UP = 0 ∧
    (let s (n : Nat) (b : Bool) : State :=
       { State.reset.setF .cnStat CN_STAT.CORES_UP 1 with refs := n, cns := { wdFired := b } }
     (s 15625000 false).f .cnStat CN_STAT.CORES_UP ≠ 0 ∧ (s 15625000 false).cns.wdFired = false ∧
     (s 15625000 false).cns.wdAt + (s 15625000 false).wdPeriod ≤ (s 15625000 false).now ∧
     (s 15624999 true).now < (s 15624999 true).cns.wdAt + (s 15624999 true).wdPeriod ∧
     (s 15625000 true).cns.wdFired = true ∧ (s 15625000 true).cns.wdAt + (s 15625000 true).wdPeriod ≤ (s 15625000 true).now ∧
     (s 0 false).f .fltStat FLT_STAT.DUMP ≠ 1 ∧ Canonical (s 0 false)) := by unfold Canonical; decide +kernel
/-- Send slot 0 of the device level with trigger cleat 5, its descriptor at 64 in mast 0's activation memory, granted. -/
def sending (d : List Byte) (s : State := State.reset) : State :=
  let s := ((s.setF (.halSend 8 0 0) HAL_SEND.VALID 1).setF (.halSend 8 0 0) HAL_SEND.TRIG 5).setF (.halSend 8 0 1) HAL_SEND.DESC
    0x020100000040
  let s := s.store 0x020100000040 d false
  { s with clt := { s.clt with grants := [{ key := .send 8 0, st := .done }] } }

/-- A request of 16 B from activation memory to halyard 0 of mast 0 of this device, with replies to downhaul 64. -/
def request : List Byte := wordBytes [0x0000_0201_FFFF_0000, 0x020100000100, 0, 0, 0, 0, 0, 0]

/-- A send under way at slot 0 of the device level. -/
def job (ph : SendPhase) : SendJob :=
  { phase := ph, reply := false, cleat := 0xFFFF, addr := 0x020100000100, len := 16, maxReply := 1, chan := 0, dev := 0
    ep := 0, src := 1088, land := 0x020100000200, handle := 0, start := 0, tmo := 1000 }

/-- `s` with that send. -/
def withJob (ph : SendPhase) (s : State := State.reset) : State := s.setJob 8 0 (job ph)

theorem witness_HalyardSends :
    State.reset.bit (.halSend 8 0 0) HAL_SEND.VALID = false ∧
    (let s := sending request; let w : Wait := { cleat := 5, n := 1, consume := true, unit := uHal 8 0, start := 0, tmo := 0, who := .eng (.send 8 0) }
     let q : State := { s with clt := { s.clt with grants := [], waits := [w] } }
     s.halRuns 8 = true ∧ s.bit (.halSend 8 0 0) HAL_SEND.VALID = true ∧ s.f (.halSend 8 0 0) HAL_SEND.TRIG ≠ 0xFFFF ∧
     s.job 8 0 = none ∧ s.bit (.halSstat 8 0) HAL_SSTAT.PARKED = false ∧
     q.clt.grants.find? (fun g => g.key == .send 8 0) = none ∧ q.clt.waits.any (fun w => w.who == .eng (.send 8 0)) = true) ∧
    (let s := sending request
     s.clt.grants.find? (fun g => g.key == .send 8 0) = some { key := .send 8 0, st := .done } ∧
     (s.setF (.halSend 8 0 1) HAL_SEND.DESC 1).descCheck 8 1 ≠ .done) ∧
    (let s := (sending request).setF (.halCfg 8 64) HAL_CFG.VALID 1; let d := s.bytes 0x020100000040 64
     s.descCheck 8 0x020100000040 = .done ∧ s.poisonedAt 0x020100000040 64 = false ∧ s.sendCheck 8 d = (.done, 16) ∧
     fld (leAt d 0 8) 1 0 = 0 ∧ s.resvFree (128 * 8 + 64 + fld (leAt d 0 8) 55 50) (fld (leAt d 0 8) 49 41) = some 0 ∧
     fld (leAt d 16 8) 16 0 = s.dev ∧
     (s.setChan 1088 { queue := List.replicate 64 {} }).resvFree (128 * 8 + 64 + fld (leAt d 0 8) 55 50)
       (fld (leAt d 0 8) 49 41) = none) ∧
    (State.reset.job 8 0 = none) ∧
    ((withJob .resv).job 8 0 = some (job .resv) ∧ (job .resv).phase = .resv ∧ (withJob .resv).resvFree 1088 1 = some 0 ∧
      (job .resv).dev = (withJob .resv).dev) ∧
    ((withJob .retry).job 8 0 = some (job .retry) ∧ (job .retry).phase = .retry ∧ (job .retry).due ≤ (withJob .retry).now ∧
      (withJob .retry).now < (job .retry).start + (job .retry).tmo ∧
      (job .retry).start + (job .retry).tmo ≤ ({ withJob .retry with refs := 157 } : State).now) := by
  refine ⟨?_, ?_, ?_, ?_, ?_, ?_, ?_⟩ <;> decide +kernel

/-- Halyard 0 of mast 0 open for messages of device 0 into a window of mast 0's activation memory. -/
def landing0 : State :=
  let s := (withJob .travel (named.setF .devId DEV_ID.DEVICE 0)).setF (.halCfg 0 0) HAL_CFG.VALID 1
  let s := ((s.setF (.win 0 0) WIN.BASE 0x020100000200).setF (.win 0 1) WIN.LENGTH 16).setF (.win 0 0) WIN.OPEN 1
  s.setF (.win 0 0) WIN.PH 1

theorem witness_HalyardDelivery :
    (∀ x, State.reset.job 8 0 = some x → x.phase ≠ .travel) ∧
    (let m : HalMsg := { reply := false, dst := 0, src := 1088, dev := 0, slot := 0, gen := 0, land := 0x020100000200
                         handle := 0, total := 1 }
     (withJob .travel).job 8 0 = some (job .travel) ∧ (job .travel).phase = .travel ∧
     ((withJob .travel).halDecide m).2.1 = none ∧ landing0.job 8 0 = some (job .travel) ∧ landing0.dev = 0 ∧
     (landing0.halDecide m).2.1.isSome = true ∧ Calm landing0) ∧
    (let f : Frame := { frm (zeros 24) [] with typeCls := 6 }
     f.typeCls.toNat % 16 ≠ tDownhaul ∧ Arrives linked f tHalyard ∧ Fresh linked f ∧ (taken linked f).cn 0 CN.HOST = 0) ∧
    (let f : Frame := { frm (zeros 24) [] with typeCls := 7 }
     f.typeCls.toNat % 16 = tDownhaul ∧ Arrives linked f tDownhaul ∧ Fresh linked f ∧ (taken linked f).cn 0 CN.HOST = 0) ∧
    (State.reset.chan 0).landing.find? (fun l => l.ready) = none ∧
    (let l : HalLand := { note := { len := 1 }, src := .job 8 0, ready := true }
     let s := State.reset.setChan 0 { landing := [l] }
     (s.chan 0).landing.find? (fun l => l.ready) = some l ∧ s.job 8 0 = none ∧ s.hcfg 0 HAL_CFG.AUTOACK = 0) ∧
    (let l : HalLand := { note := { len := 1 }, src := .msg 0 7, ready := true }
     let s := State.reset.setChan 0 { landing := [l] }
     (s.chan 0).landing.find? (fun l => l.ready) = some l ∧ (∀ r ∈ s.net.reasm, r.cn ≠ 0 ∨ r.first ≠ 7)) ∧
    (let s (n : Nat) : State := (State.reset.setF (.halCfg 8 64) HAL_CFG.RLIMIT 2).setChan 1088 { resv := [(0, { held := true, edges := some n })] }
     (((s 1).chan 1088).slot 0).edges = some 1 ∧ (1 < (s 1).hcfg 1088 HAL_CFG.RLIMIT) ∧ (((s 2).chan 1088).slot 0).edges = some 2 ∧
     (s 2).hcfg 1088 HAL_CFG.RLIMIT ≠ 0 ∧ (s 2).hcfg 1088 HAL_CFG.RLIMIT ≤ 2 ∧ (((s 2).chan 1088).slot 0).held = true ∧
     ((s 2).chan 1088).replied 0 = false ∧
     (((s 2).setChan 1088 { (s 2).chan 1088 with landing := [{ note := { reply := true, slot := 0 }, src := .gone, ready := true }] }).chan
       1088).replied 0 = true) ∧
    (let l (g : Nat) : HalLand := { note := { len := 1, reply := true, slot := 0, gen := g }, src := .gone, ready := true }
     let s (g : Nat) := State.reset.setChan 1088 { landing := [l g], resv := [(0, { held := true, gen := 1 })] }
     (s 1).resvLive 1088 0 1 = true ∧ (s 2).resvLive 1088 0 2 = false ∧
     ((s 2).chan 1088).landing.find? (fun l => l.ready) = some (l 2)) ∧
    (let l : HalLand := { note := { len := 1, reply := true, slot := 0, gen := 1 }, src := .job 8 0, ready := true }
     let s := (withJob .landed).setChan 1088 { landing := [l], resv := [(0, { held := true, gen := 1 })] }
     let s := s.setJob 8 0 { job .landed with reply := true }
     (s.chan 1088).landing.find? (fun l => l.ready) = some l ∧ s.job 8 0 = some { job .landed with reply := true } ∧
     s.resvLive 1088 l.note.slot l.note.gen = true) ∧
    (let f : Frame := { frm (zeros 24) [] with typeCls := 6 }; let s := linked.setF (.cn 0 0) CN.HOST 1
     Arrives s f tHalyard ∧ Fresh s f ∧ (taken s f).cn (frameConn f) CN.HOST = 1) := by
  unfold Arrives Fresh Unseen Calm Canonical; refine ⟨?_, ?_, ?_, ?_, ?_, ?_, ?_, ?_, ?_, ?_, ?_⟩ <;> decide +kernel

theorem witness_NotificationRegisters :
    (State.reset.chan (1024 + 1)).queue = [] ∧
    (((State.reset.setChan 1025 { queue := [{}] }).chan (1024 + 1)).queue = {} :: []) ∧
    (State.reset.hcfg 1 HAL_CFG.RELMODE ≠ 1 ∧
      (let s := (State.reset.setF (.halCfg 0 1) HAL_CFG.RELMODE 1).setChan 1 { popped := [16, 48] }
       s.hcfg 1 HAL_CFG.RELMODE = 1 ∧ ((s.chan 1).popped.take 64).getLast? = some 48 ∧ 64 < (65#7).toNat ∧
       ((s.chan 1).popped.take (s.chan 1).popped.length).getLast? = some 48 ∧ ((s.chan 1).popped.take 1).getLast? = some 16)) ∧
    ((sect1 1).rwlDenied (.halSend 0 0 0) 1 true = true ∧ State.reset.rwlDenied (.halSend 0 0 0) 1 true = false ∧
      State.reset.rwlDenied (.halSend 0 0 1) 1 true = false) ∧
    ((sect1 1).rwlDenied .hbmMap 0 true = true ∧ State.reset.rwlDenied .hbmMap 0 true = false) ∧
    ((sect1 1).rwlDenied (.hbmKr 63 0) (2 ^ 63) true = true ∧ bitN (1#64).toNat 63 = false ∧
      (∀ v ∈ [1, (0x8000000000000001#64).toNat], State.reset.rwlDenied (.hbmKr 63 0) v true = false ∧
        State.reset.rwlDenied (.hbmKr 63 1) v true = false) ∧ bitN (0x8000000000000001#64).toNat 63 = true ∧
      fld (0x8000000000000001#64).toNat HBM_KR.BASE.hi HBM_KR.BASE.lo % 65536 ≠ 0) := by decide +kernel

/-- Device 7 with a GCM connection to device 9 over sub-port 0, a link secret, a handshake of its own, and a message of `n`
granules of device 9 on halyard 60. -/
def shaking (n : Nat) (sec : List (Nat × List Byte)) : State :=
  let s := (linked.setF (.cn 0 0) CN.STATE cnOpen).setF (.cn 0 0) CN.PROT 1
  ({ s with sec := { s.sec with link := sec, shake := [((0, 0), { nonce := zeros 32, key := [], msg := [] })] } } : State).setChan 1084
    { queue := [{ dev := 9, len := n, addr := 0x020100000000 }] }

theorem witness_NotificationRegisters_handshake :
    (∀ e ∈ [(19, []), (1, [(0, zeros 32)]), (19, [(0, zeros 32)])], let s := shaking e.1 e.2
     (s.chan (1024 + 60)).queue = { dev := 9, len := e.1, addr := 0x020100000000 } :: [] ∧ 9 ≠ s.dev ∧ e.1 ≠ 0 ∧
     s.shakeConn 9 0 = some 0 ∧ s.cn 0 CN.PORT = 0 ∧ s.cn 0 CN.SUB = 0 ∧
     s.sec.shake.find? (fun y => y.1 == (0, 0)) = some ((0, 0), { nonce := zeros 32, key := [], msg := [] })) ∧
    (shaking 19 []).linkSecret 0 0 = none ∧ ((shaking 1 [(0, zeros 32)]).bytes 0x020100000000 16).length < 297 ∧
    (shaking 19 [(0, zeros 32)]).linkSecret 0 0 = some (zeros 32) ∧
    297 ≤ ((shaking 19 [(0, zeros 32)]).bytes 0x020100000000 304).length := by decide +kernel

/-- Device with the host channel on port 0 and its mailboxes ready. -/
def hosted (s : State := State.reset) : State := (s.setF (.portCfg 0) PORT_CFG.HOSTCH 1).setF .bootStat BOOT_STAT.READY 1

theorem witness_MailboxMessages :
    (let f := frm (zeros 8) (zeros 16) (nc := true)
     let u := State.reset.setF (.portCfg 0) PORT_CFG.HOSTCH 0
     ArrivesNc u f ∧ ArrivesNc hosted f ∧ ArrivesNc State.reset f ∧ u.bit (.portCfg f.port) PORT_CFG.HOSTCH = false ∧
     (State.reset.setF (.portCfg 0) PORT_CFG.HOSTCH 1).bit (.portCfg f.port) PORT_CFG.HOSTCH = true ∧
     State.reset.mailboxReady = false ∧
     hosted.bit (.portCfg f.port) PORT_CFG.HOSTCH = true ∧ hosted.mailboxReady = true ∧ leAt f.pay 0 1 = 0 ∧ f.pay.length ≤ 1024) ∧
    (let f := frm (zeros 8) ([0, 1] ++ zeros 14) (nc := true)
     ArrivesNc hosted f ∧ f.pay.length = 16 + 128 * 0 ∧ leAt f.pay 1 1 ≠ (hosted.mailbox 0).epoch) ∧
    (let f := frm (zeros 8) ([0, 0, 1] ++ zeros 141) (nc := true)
     ArrivesNc hosted f ∧ leAt f.pay 2 1 = 1 ∧ f.pay.length = 144 ∧ leAt f.pay 1 1 = (hosted.mailbox 0).epoch ∧
     leAt f.pay 4 2 = (hosted.mailbox 0).n ∧ leAt f.pay 6 2 = (hosted.mailbox 0).a ∧ leAt f.pay 16 1 ≠ 0x30) ∧
    (let f := frm (zeros 8) (zeros 12 ++ leBytes 4 1 ++ [0xAB]) (nc := true)
     let c : MbxCmd := cmd 0x20 [(8, 4, 1)]
     let s := rdy 0x20 [(8, 4, 1)] hosted
     ArrivesNc s f ∧ f.pay.length = 16 + leAt f.pay 12 4 ∧ heldBytes [(0, 0, f.pay.drop 16)] = 1 ∧ (s.mailbox 0).ring.find? (fun c => c.seq == 0) = some c ∧
     c.op ≠ 0x30 ∧ c.start = none ∧ leAt f.pay 8 4 + (f.pay.length - 16) ≤ c.need ∧ 16 < f.pay.length ∧
     (hosted.mailbox 0).ring.find? (fun c => c.seq == 0) = none ∧ (hosted.mailbox 0).dataIn = [] ∧
     (leAt f.pay 4 2 + 65536 - (hosted.mailbox 0).n) % 65536 < 32768) ∧
    (let f := frm (zeros 8) []; let s := linked.setF (.cn 0 0) CN.HOST 1
     Arrives s f tControl ∧ Fresh s f ∧ (taken s f).cn (frameConn f) CN.HOST = 1) ∧
    (let f := frm ([5] ++ zeros 7) []
     leAt f.subhdr 0 1 = 5 ∧ Arrives linked f tControl ∧ Fresh linked f ∧
     ArrivesNc hosted (frm ([5] ++ zeros 7) [] (nc := true)) ∧ meshBad f.mesh = false ∧
     (let g : Frame := { f with mesh := [⟨0, 0, 0, true⟩] }; meshBad g.mesh = true ∧ Arrives linked g tControl ∧ Fresh linked g)) := by
  unfold Arrives Fresh Unseen ArrivesNc; refine ⟨?_, ?_, ?_, ?_, ?_, ?_⟩ <;> decide +kernel

/-- A sent frame of connection 0 with a sequence number. -/
def sent (q : Nat) : Unacked :=
  { frame := { port := 0, sub := 0, queue := 2, cn := 0, typ := 0, flags := 0, seq := q, dst := 9, srcUnit := 0, subhdr := [], pay := [] }
    sentAt := some 0 }

/-- `linked` with connection 0 in a state and with its frames and extra state. -/
def conn0 (st : Nat) (x : Conn := {}) : State := (linked.setF (.cn 0 0) CN.STATE st).setConn 0 x

theorem witness_Acknowledgements :
    (let f := frm [] []; Arrives linked f tHeartbeat) ∧
    (let f := frm (leBytes 4 1 ++ zeros 4) []; let s := conn0 cnOpen { unacked := [sent 0] }
     Arrives s f tAck ∧ mine s f = true ∧ bitN f.typeCls.toNat 5 = false ∧ s.cn 0 CN.STATE = cnOpen ∧ (∀ o ∈ s.net.ops, o.cn ≠ 0)) ∧
    (let f : Frame := { frm (zeros 8) [] with typeCls := 0x28 }; let s := (conn0 cnOpen).setF (.cn 0 0) CN.ECN 1
     Arrives s f tAck ∧ mine s f = true ∧ bitN f.typeCls.toNat 5 = true ∧ s.cn 0 CN.ECN = 1 ∧ (s.conn 0).unacked = [] ∧ (s.conn 0).lastCut = none) ∧
    (let f := frm ([1] ++ zeros 7 ++ leBytes 4 3 ++ zeros 4) []
     let o : RemOp := { id := 1, cn := 0, unit := 0, dst := 9, seqs := [3], cont := .none }
     let s : State := { conn0 cnOpen { unacked := [sent 3] } with net := { (conn0 cnOpen { unacked := [sent 3] }).net with ops := [o] } }
     mine linked f = true ∧ mine s f = true ∧ Arrives linked f tNak ∧ (linked.conn 0).unacked = [] ∧ Arrives s f tNak ∧ leAt f.subhdr 0 1 = 1 ∧ leAt f.subhdr 8 4 = 3 ∧
     (∃ u ∈ (s.conn 0).unacked, u.frame.seq = 3 ∧ u.sentAt.isSome = true) ∧ s.net.ops = [o] ∧ 3 ∈ o.seqs ∧ o.cn = 0 ∧ o.cont = .none) ∧
    (let f : Frame := { frm (zeros 8) [] with dstDev := 8 }; mine linked f = false ∧ Arrives linked f tAck) := by
  unfold Arrives; refine ⟨?_, ?_, ?_, ?_, ?_⟩ <;> decide +kernel

theorem witness_ConnectionFrames :
    (let f := frm ([1] ++ zeros 7) (zeros 16) (nc := true)
     ArrivesNc State.reset f ∧ (∀ st ∈ [cnOpening, cnOpen, cnClosing, cnIdle], ArrivesNc (conn0 st) f) ∧
     (∀ c ∈ State.reset.cnList, State.reset.ctlEntry f c = true → State.reset.cn c CN.STATE ≠ cnOpening) ∧
     (conn0 cnOpening).cnList.filter (fun c => (conn0 cnOpening).ctlEntry f c) = [0] ∧ (conn0 cnOpening).cn 0 CN.STATE = cnOpening ∧
     (conn0 cnOpening).cn 0 CN.PROT = 0 ∧ (conn0 cnOpening).cn 0 CN.HOST = 0 ∧ State.reset.ctlEntry f 0 = false ∧
     (conn0 cnOpening).ctlEntry f 0 = true ∧ leAt f.pay 2 2 / 4096 = (conn0 cnOpening).cn 0 CN.EPOCH ∧
     (conn0 cnOpen { unacked := [sent 0] }).cn 0 CN.STATE = cnOpen ∧ (conn0 cnClosing).cn 0 CN.STATE = cnClosing ∧
     (conn0 cnIdle).ctlEntry f 0 = true ∧ (conn0 cnIdle).cn 0 CN.STATE = cnIdle) ∧
    (let f := frm ([1] ++ zeros 7) ([0, 0, 0, 0xF0] ++ zeros 12) (nc := true)
     ArrivesNc (conn0 cnOpen) f ∧ ArrivesNc (conn0 cnIdle) f ∧ leAt f.pay 2 2 / 4096 ≠ (conn0 cnOpen).cn 0 CN.EPOCH ∧
     leAt f.pay 2 2 / 4096 = ((conn0 cnIdle).cn 0 CN.EPOCH + 15) % 16) ∧
    (let f := frm ([1] ++ zeros 7) (zeros 16) (nc := true)
     let g := (conn0 cnOpen).setF (.cn 0 0) CN.PROT 1
     let h := (conn0 cnOpen).setF (.cn 0 0) CN.HOST 1
     (conn0 cnOpen).cnList.filter (fun c => (conn0 cnOpen).ctlEntry f c) = [0] ∧
     (conn0 cnOpen).cn 0 CN.PEERCONN = leAt f.pay 0 2 ∧ (conn0 cnOpen).cn 0 CN.PROT = 0 ∧ (conn0 cnOpen).cn 0 CN.HOST = 0 ∧
     ArrivesNc g f ∧ g.cn 0 CN.STATE = cnOpen ∧ g.cn 0 CN.PROT = 1 ∧ g.cn 0 CN.HOST = 0 ∧ g.sls = none ∧
     ArrivesNc h f ∧ h.cn 0 CN.HOST = 1 ∧ h.sec.sessions = [] ∧ h.cnList.filter (fun c => h.ctlEntry f c) = [0]) := by
  unfold ArrivesNc; refine ⟨?_, ?_, ?_⟩ <;> decide +kernel

theorem witness_ConnectionTimers :
    (linked.conn 0).timer = none ∧
    (let s (r n : Nat) : State := { (conn0 cnOpen { unacked := [sent 0], timer := some 0 }).setF (.cn 0 4) CN.RETRIES r with refs := n }
     ((s 0 626).conn 0).timer = some 0 ∧ 0 + (s 0 626).cn 0 CN.RTO < (s 0 626).now ∧ (s 0 625).now ≤ 0 + (s 0 625).cn 0 CN.RTO ∧
     (s 0 626).cn 0 CN.STATE = cnOpen ∧ (∃ u ∈ ((s 0 626).conn 0).unacked, u.sentAt.isSome = true) ∧
     16 ≤ (s 16 626).cn 0 CN.RETRIES ∧ (s 15 626).cn 0 CN.RETRIES < 16 ∧ (∀ o ∈ (s 16 626).net.ops, o.cn ≠ 0)) ∧
    (let s (r : Nat) : State := { (conn0 cnClosing { unacked := [sent 0], timer := some 0, peerClose := true }).setF (.cn 0 4) CN.RETRIES r with refs := 626 }
     0 + (s 15).cn 0 CN.RTO < (s 15).now ∧ (s 15).cn 0 CN.STATE = cnClosing ∧ ((s 15).conn 0).peerClose = true ∧
     15 ≤ (s 15).cn 0 CN.RETRIES ∧ (s 14).cn 0 CN.RETRIES < 15) ∧
    (let h := (conn0 cnOpen).setF (.cn 0 0) CN.HOST 1; (∀ o ∈ h.net.ops, o.cn ≠ 0) ∧ h.cn 0 CN.HOST = 1) ∧
    (let s (st k : Nat) : State := { conn0 st { tries := k, closeSent := true } with refs := 626 }
     ∀ k ∈ [15, 16], ((s cnOpening k).conn 0).triedAt + (s cnOpening k).cn 0 CN.RTO < (s cnOpening k).now ∧
     (s cnOpening k).cn 0 CN.STATE = cnOpening ∧ ((s cnOpening k).conn 0).tries = k ∧ (s cnClosing k).cn 0 CN.STATE = cnClosing ∧
     ((s cnClosing k).conn 0).closeSent = true ∧ (s cnOpening k).devAssigned = true ∧
     (∀ o ∈ (s cnClosing k).net.ops, o.cn ≠ 0) ∧ (s cnOpening k).cn 0 CN.STATE ≠ cnOpen) ∧
    (let s : State := { conn0 cnOpen { ackSince := some 0 } with refs := 156250001 }
     (s.conn 0).ackSince = some 0 ∧ 0 + 10 * s.f .tpTimer TP_TIMER.ACKDLY < s.now ∧ (s.conn 0).lastTx + s.hbInt < s.now ∧
     (s.conn 0).lastRx + s.f .tpTimer TP_TIMER.HBMISS * s.hbInt < s.now ∧
     linked.now ≤ (linked.conn 0).lastTx + linked.hbInt) := by
  refine ⟨?_, ?_, ?_, ?_, ?_, ?_⟩ <;> decide +kernel
theorem witness_ConnectionAndLinkEvents :
    (let s := conn0 cnIdle; let p := s.setF (.cn 0 0) CN.PROT 1
     s.cn 0 CN.STATE = cnIdle ∧ s.cn 0 CN.VALID = 1 ∧ s.cn 0 CN.PROT = 0 ∧ s.cn 0 CN.HOST = 0 ∧ s.devAssigned = true ∧
     p.cn 0 CN.PROT = 1 ∧ p.sls = none ∧ (∀ o ∈ p.net.ops, o.cn ≠ 0) ∧ State.reset.cn 0 CN.VALID = 0) ∧
    (let s := conn0 cnOpen { unacked := [sent 0] }
     s.cn 0 CN.STATE = cnOpen ∧ s.net.ops = [] ∧ (∃ u ∈ (s.conn 0).unacked, u.sentAt.isSome = true)) ∧
    ((conn0 cnLost).cn 0 CN.STATE = cnLost ∧ (conn0 cnIdle).cn 0 CN.STATE ≠ cnLost ∧ (conn0 cnLost).net.ops = []) ∧
    (State.reset.boundTo 17 3 = [] ∧ (linked.setF (.cn 0 0) CN.HOST 1).boundTo 0 0 = [0] ∧
      (linked.setF (.cn 0 0) CN.HOST 1).cn 0 CN.HOST = 1) ∧
    (State.reset.subPorts 0 ≤ (3 : Fin 4).val ∧ (0 : Fin 4).val < State.reset.subPorts 0) ∧
    ((zeros 59).length < 60 ∧ 4252 < (zeros 4253).length) ∧
    (∀ e ∈ [([0x88, 0xF7], 1, false), ([0x88, 0xCC], 2, false), ([0x88, 0xB5], 0, true)], let d := zeros 12 ++ e.1 ++ zeros 46
     60 ≤ d.length ∧ d.length ≤ 4252 ∧ State.reset.macOk 0 0 (beAt d 0 6) none = true ∧ etherAt d ≠ 16 ∧
     etherKind (d.drop (etherAt d)) = e.2.1 ∧ State.reset.isGhenko (d.drop (etherAt d)) = e.2.2 ∧
     State.reset.macsecOn 0 0 = false) ∧
    (let s := (State.reset.setF (.portCfg 0) PORT_CFG.MACSEC 1).setF (.portStat 0 0) PORT_STAT.MACSEC_ACTIVE 1
     s.macsecOn 0 0 = true) ∧
    (let s : State := { State.reset with net := { State.reset.net with ptp := [((0, 0), (1, 2, 0))] } }
     (Tbl.get (0, 0, 0) s.net.ptp (0, 0)).2.1 = 2 ∧ (Tbl.get [] s.net.txts (0, 0)).length < 64) := by
  refine ⟨?_, ?_, ?_, ?_, ?_, ?_, ?_, ?_, ?_⟩ <;> decide +kernel

/-- Section 1 on mast 0 in a state, with a job of the loader, after device edge 1. -/
def jobbed (st : Nat) (j : SecJob) (stopped drain : Bool) (now : Nat := 0) : State :=
  let s := (sect1 st).setF (.fabStat 0) FAB_STAT.DRAIN_DONE (if drain then 1 else 0)
  { s with refs := now, tick := { s.tick with nextK := 2 }
           secs := [(1, { job := j, stopped := stopped, hdr := zeros 48 ++ leBytes 8 64 })] }

/-- `s` with mast 0 in SLEEP. -/
def moveTo2 (s : State) : State := s.wr .pwrStat 0x20

/-- A switch from section 1 to section 2 recorded. -/
def switch12 : SwitchJob := { mbx := 0, seq := 0, old := 1, new := 2, k := 1, image := 0, hdr := [], key := [] }

theorem witness_SectionEvents :
    ((State.reset.sect 1).job = .none ∧ State.reset.switchOf 1 = none) ∧
    (∀ r ∈ [false, true], let s := jobbed 1 (.start 0 0 1 r false) false false
     (s.sect 1).job = .start 0 0 1 r false ∧ 1 < s.tick.nextK ∧ (s.secState 1).isSome = true ∧ (s.sect 1).wins = [] ∧
     (∀ e ∈ s.entList, s.entSection e ≠ 1)) ∧
    (let s (b d : Bool) (n : Nat) := jobbed 3 (.suspend 0 0 0 1000) b d n
     ((s true true 0).sect 1).job = .suspend 0 0 0 1000 ∧ ((s true true 0).sect 1).stopped = true ∧
     (s true true 0).drained ((s true true 0).loadedMasts 1) = true ∧ (s true true 0).saveReady 1 = true ∧
     (s true false 157).saveReady 1 = false ∧ ((s true true 0).secState 1).isSome = true ∧
     (s true false 157).drained ((s true false 157).loadedMasts 1) = false ∧ 1000 ≤ (s true false 157).now ∧
     ((s false false 157).sect 1).stopped = false ∧ (s false false 156).now < 1000) ∧
    (let s : State := { ticking 1000000 [{ k := 1, missing := [uSeq 0] }] with
       loader := { switches := [switch12] }, secs := [(1, { cutoff := some 1000000 })] }
     let d : State := { s with tick := { s.tick with steps := [(1, { k := 1, nextEdge := 1 })] } }
     s.switchOf 1 = some switch12 ∧ (s.sect 1).cutoff = some 1000000 ∧ 1000000 * tbUnit ≤ s.tick.tb ∧ (s.stepOf 1).opens ≠ [] ∧
     s.oldDone 1 = false ∧ d.switchOf 1 = some switch12 ∧ d.oldDone 1 = true ∧ (d.stepOf 1).opens = []) ∧
    (let s (h : List Byte) : State := { sect1 1 with loader := { switches := [{ switch12 with hdr := h }] } }
     let one := zeros 8 ++ [1] ++ zeros 503
     (s one).switchOf 1 = some { switch12 with hdr := one } ∧ (s one).oldDone 1 = true ∧
     (s one).mastsBusy (imgMask one) (some 1) = false ∧ keyGone one [] = false ∧ keyGone (putAt one 6 [1]) [] = true ∧
     (moveTo2 (s one)).mastsBusy (imgMask one) (some 1) = true) := by
  refine ⟨?_, ?_, ?_, ?_, ?_⟩ <;> decide +kernel

/-- A device without power. -/
def unpowered : State := { State.reset with mod := { State.reset.mod with rails := false } }

theorem witness_DeviceResets :
    unpowered.mod.rails = false ∧ State.reset.mod.rails = true ∧ State.reset.mod.rstLow = false ∧ State.reset.mod.pgLow = false ∧
    (let l : State := { State.reset with mod := { State.reset.mod with rstLow := true } }
     l.mod.rstLow = true ∧ l.mod.rails = true ∧ l.mod.pgLow = false) ∧
    State.reset.boot.warmAt = none ∧
    (let s (n : Nat) : State := { State.reset with refs := n, boot := { State.reset.boot with warmAt := some (100000, true) } }
     (s 15624).now < 100000 ∧ (s 15625).boot.warmAt = some (100000, true) ∧ 100000 ≤ (s 15625).now) := by decide +kernel

theorem witness_UnitResetsAndBoot :
    (bitN (State.reset.f .rstStat RST_STAT.MAST) 0 = false ∧ bitN (State.reset.f .rstStat RST_STAT.PORT) 17 = false) ∧
    (bitN ((State.reset.setF .rstStat RST_STAT.MAST 0x80).f .rstStat RST_STAT.MAST) 7 = true) ∧
    (let s := State.reset.setF .rstStat RST_STAT.PORT 0x20000
     bitN (s.f .rstStat RST_STAT.PORT) 17 = true ∧ ∀ b, b < 4 → s.boundTo 17 b = []) ∧
    (∀ p, p < 8 → (State.reset.setF .bootStat BOOT_STAT.PHASE p).f .bootStat BOOT_STAT.PHASE = p) ∧
    (State.reset.mod.rails = true ∧ State.reset.mod.rstLow = false ∧ State.reset.mod.pgLow = false ∧
      State.reset.bit .cnStat CN_STAT.RECOVERY = false) := by decide +kernel

/-- `s` with mast 0 on its way to a state. -/
def moving (d : Nat) (s : State := State.reset) : State := { s with pwr := { s.pwr with moves := [(0, d)] } }

/-- `s` at an opportunity to change gear. -/
def opening (s : State) : State := { s with tick := { s.tick with opp := some s.refs } }

theorem witness_PowerStates :
    (State.reset.moveOf 0 = none ∧ (moving 2).moveOf 0 = some 2 ∧ (moving 2).bit .abtStat ABT_STAT.ACTIVE = false ∧
      (moving 2).bit .fltStat FLT_STAT.DEVICE_FATAL = false) ∧
    (∀ d ∈ [0, 1], (moving d (State.reset.wr .pwrStat 0x20)).moveOf 0 = some d ∧
      (moving d (State.reset.wr .pwrStat 0x20)).mastPower 0 = 2 ∧ (moving d).mastPower 0 < 2) ∧
    (∀ x ∈ State.reset.pwr.samples, x ≤ 65535) ∧
    State.reset.gearOpp = false ∧
    (let s (g a : Nat) : State := opening ((running (State.reset.setF .pwrStat PWR_STAT.GEAR g)).setF .pwrInput PWR_INPUT.AVG_W a)
     (s 0 0).gearOpp = true ∧ (s 1 4000).gearOpp = true ∧ (s 0 0).bit .pwrStat PWR_STAT.STOPPED = false ∧
     (s 1 4000).f .pwrCtrl PWR_CTRL.CAP < (s 1 4000).f .pwrInput PWR_INPUT.AVG_W ∧ (s 1 4000).f .pwrStat PWR_STAT.GEAR = 1 ∧
     10 * (s 1 0).f .pwrInput PWR_INPUT.AVG_W < 9 * (s 1 0).f .pwrCtrl PWR_CTRL.CAP ∧ (s 1 0).f .pwrStat PWR_STAT.FUSED < 1 ∧
     (s 1 0).pwr.tripAt = none ∧ (s 1 0).pwr.low = none ∧
     9 * (s 1 0).f .pwrCtrl PWR_CTRL.CAP ≤ 10 * (s 1 (State.reset.f .pwrCtrl PWR_CTRL.CAP)).f .pwrInput PWR_INPUT.AVG_W ∧
     (s 1 (State.reset.f .pwrCtrl PWR_CTRL.CAP)).f .pwrInput PWR_INPUT.AVG_W ≤ (s 1 0).f .pwrCtrl PWR_CTRL.CAP) ∧
    (let h : State := { (running (State.reset.setF .pwrStat PWR_STAT.GEAR 2)).setF .pwrInput PWR_INPUT.AVG_W 4000 with
       refs := 1562500, pwr := { State.reset.pwr with high := some 0 } }
     (opening h).gearOpp = true ∧ h.f .pwrStat PWR_STAT.GEAR = 2 ∧ h.pwr.high = some 0 ∧ 0 + 10000000 ≤ h.now) := by
  refine ⟨?_, ?_, ?_, ?_, ?_, ?_⟩ <;> decide +kernel

theorem witness_Temperatures :
    (State.reset.readTemps []).tripped 0 = false ∧
    (let x := State.reset.readTemps [(0, 105)]; x.bit .pwrStat PWR_STAT.STOPPED = false ∧ x.tripped 0 = true) ∧
    ((State.reset.readTemps [(0, 110)]).tripped 5 = true ∧ (State.reset.readTemps [(0, 110)]).pwr.shut = false) ∧
    (let x := (opening (running (State.reset.setF .pwrStat PWR_STAT.STOPPED 1))).readTemps []
     x.bit .pwrStat PWR_STAT.STOPPED = true ∧ x.cooled = true ∧ x.gearOpp = true) ∧
    ({ State.reset with fuses := { a12 := true } } : State).bit (.hbmStat 3) HBM_STAT.FITTED = false ∧
    (State.reset.bit (.hbmStat 0) HBM_STAT.FITTED = true ∧ State.reset.hbm.tempAt.find? (fun e => e.1 == 0) = none) ∧
    (let s : State := { State.reset with hbm := { State.reset.hbm with tempAt := [(0, 0)] } }
     s.hbm.tempAt.find? (fun e => e.1 == 0) = some (0, 0) ∧ s.now < 0 + 1000000) ∧
    (State.reset.hbmTrip 0 ≤ (100#8).toNat ∧ (99#8).toNat < State.reset.hbmTrip 0 ∧ State.reset.hbmTrip 0 ≤ (95#8).toNat + 5 ∧
      (94#8).toNat + 5 < State.reset.hbmTrip 0) := by
  refine ⟨?_, ?_, ?_, ?_, ?_, ?_, ?_, ?_⟩ <;> decide +kernel

theorem witness_ModulePins :
    State.reset.mod.enable = true ∧ State.reset.mod.rails = true ∧ State.reset.mod.upAt = none ∧ State.reset.mod.pgLow = false ∧
    (let m : ModSt := { State.reset.mod with enable := false, rails := false }
     m.enable = false ∧ m.rails = false) ∧
    ({ State.reset.mod with upAt := some 5 } : ModSt).upAt = some 5 ∧
    ({ State.reset.mod with down := true } : ModSt).down = true ∧ ({ State.reset.mod with ovr := true } : ModSt).ovr = true ∧
    ((47999#16).toNat < 48000 ∧ 48000 ≤ (48000#16).toNat ∧ 62000 < (62001#16).toNat ∧ (45999#16).toNat < 46000 ∧
      (59999#16).toNat < 60000) := by decide +kernel

/-- A device whose board management responds, at a debug level. -/
def managed (dbg : Nat := 0) : State := (State.reset.setF .bootStat BOOT_STAT.PHASE 4).setF .secStat SEC_STAT.DEBUG dbg

theorem witness_BoardManagement :
    State.reset.i3cOn = false ∧ managed.i3cOn = true ∧ managed.mod.dyn = none ∧
    ({ managed.mod with dyn := some 8 } : ModSt).dyn ≠ none ∧ unpowered.jtagOn = false ∧ managed.jtagOn = true ∧
    managed.f .secStat SEC_STAT.DEBUG < 1 ∧ 1 ≤ (managed 1).f .secStat SEC_STAT.DEBUG ∧
    (managed 1).f .secStat SEC_STAT.DEBUG < 2 ∧ 2 ≤ (managed 2).f .secStat SEC_STAT.DEBUG ∧
    (let v := BitVec.ofNat 64 (Reg.addr .devIdent)
     v.toNat % 8 = 0 ∧ zeroWord v.toNat = false ∧ Reg.ofAddr v.toNat = some .devIdent ∧ (managed 2).regAbsent .devIdent = false ∧
     ((managed 2).readEffect .devIdent).mod = (managed 2).mod) := by decide +kernel

/-- A device that owes a dump, with its crowsnest up. -/
def owing (d : Nat) (todo : List (Nat × Nat)) : State :=
  let s := (State.reset.setF .cnStat CN_STAT.CORES_UP 15).setF .fltStat FLT_STAT.DUMP d
  { s with flt := { s.flt with dumpDue := some 0, dumpTodo := todo } }

theorem witness_FaultEvents :
    State.reset.flt.dumpDue = none ∧
    ((owing 0 []).flt.dumpDue = some 0 ∧ (owing 0 []).bit .abtStat ABT_STAT.ACTIVE = false ∧
      (owing 0 []).f .cnStat CN_STAT.CORES_UP ≠ 0 ∧ (owing 0 []).f .fltStat FLT_STAT.DUMP ≠ 1) ∧
    ((owing 1 [(2, 0), (3, 0)]).f .fltStat FLT_STAT.DUMP = 1 ∧ (owing 1 [(2, 0), (3, 0)]).flt.dumpTodo = (2, 0) :: (3, 0) :: []) ∧
    ((owing 1 [(2, 0)]).flt.dumpTodo = [(2, 0)]) ∧
    (State.reset.flt.fatals = []) ∧
    (let s (n : Nat) (d : Option Nat) : State := { State.reset with refs := n, flt := { State.reset.flt with fatals := [(1, 0, 0)], dumpDue := d } }
     (s 0 none).flt.fatals.find? (fun e => e.2.1 == 0) = some (1, 0, 0) ∧ (s 0 none).dumpOver = true ∧
     (s 156249999 (some 0)).dumpOver = false ∧ (s 156249999 (some 0)).now < 0 + 1000000000 ∧
     0 + 1000000000 ≤ (s 156250000 (some 0)).now) ∧
    (State.reset.flt.ceCount = 0) ∧
    (let s : State := { State.reset with flt := { State.reset.flt with ceCount := 1 } }
     s.flt.ceCount ≠ 0 ∧ s.tbNs / 1000000000 + 1 ≠ s.flt.ceSecond ∧ s.flt.log.length < 4096) := by decide +kernel

/-! ### Tile sequencers, jibs, sheaves, the fabric -/

/-- Words with fields as word, lowest bit, value. -/
def words (n : Nat) (fs : List (Nat × Nat × Nat)) : List Word :=
  (List.range n).map (fun i => BitVec.ofNat 64 ((fs.filter (fun f => f.1 == i)).foldl (fun a f => a + f.2.2 * 2 ^ f.2.1) 0))

/-- Mast 0 bound to section 1 in a step that its engines have not ended, with a program of one macro-instruction and one
instruction for each other engine, at offset 0x100000 of activation memory. -/
def issuing (s : State := State.reset) : State :=
  let s := ((((bound1 s).setF (.seqProg 0) SEQ_PROG.LENGTH 1).setF (.jibProg 0 0) JIB_PROG.LENGTH 1).setF (.jibProg 0 1)
    JIB_PROG.LENGTH 1).setF (.tkProg 0) TK_PROG.LENGTH 1
  let s := ((s.setF (.seqProg 0) SEQ_PROG.BASE 0x100000).setF (.jibProg 0 0) JIB_PROG.BASE 0x100000).setF (.tkProg 0)
    TK_PROG.BASE 0x100000
  { s with tick := { s.tick with steps := [(1, {
      k := 1, nextEdge := 2, opens := [{ k := 1, missing := [uSeq 0, uJib 0, uTackle 0, uFairlead 0] }] })] } }

/-- The cells of bytes from an address on. -/
def cellsAt (a : Nat) (d : List Byte) : List (Nat × Byte) :=
  ((List.range d.length).map (fun i => (a + i, d.getD i 0))).filter (fun c => c.2 != 0)

/-- `s` with the words of a program of mast 0 behind what its memory holds, poisoned or not. -/
def prog (w : List Word) (s : State := issuing) (p : Bool := false) : State :=
  { s with mem := s.mem ++ cellsAt (actBase 0 + 0x100000) (w.flatMap (fun x => leBytes 8 x.toNat))
           poison := if p then [actBase 0 + 0x100000] else s.poison }

/-- A macro-instruction of mast 0 and sail 0 without cleats: 1 × 1 × 32 elements, A in weight memory, B and C in activation
memory. -/
def mmaW (op : Nat) (fs : List (Nat × Nat × Nat) := []) : List Word :=
  words 16 ([(0, 0, op), (0, 24, 1), (0, 32, 1), (0, 48, 0xFFFF), (1, 0, 1), (1, 18, 1), (1, 40, 32), (3, 0, 1), (3, 17, 1),
    (3, 38, 32), (5, 0, weightBase 0), (6, 0, weightBase 0 + 4096), (8, 0, actBase 0), (9, 0, actBase 0 + 4096),
    (11, 0, actBase 0 + 8192), (12, 0, actBase 0 + 12288)] ++ fs)

/-- The list of one entry that MMA_LIST reads, with the bases of `mmaW`. -/
def listed : State :=
  { issuing with mem := cellsAt (actBase 0 + 65536) ([weightBase 0, weightBase 0 + 4096, actBase 0, actBase 0 + 4096,
    actBase 0 + 8192, actBase 0 + 12288].flatMap (leBytes 8)) }

/-- A run of words with an A stream that has computed on every chunk. -/
def drained (w : List Word) : MmaRun :=
  { mast := 0, op := 0x10, w := w, fl := 0, stream := 0, plan := [], pend := 0, next := 0, chunks := [], uses := [] }

/-- A chunk of slot 1 for sails 3 and 4. -/
def tapped : TapSlot :=
  { mast := 0, slot := 1, no := 0, chunk := { walk := 0, j := 0, pass := 0, part := 0, b0 := 0, nb := 1, targets := [3, 4] }
    data := [], targets := [3, 4] }

/-- What a macro-instruction opens at `prog w`. -/
def opened (w : List Word) (s : State := prog w) : State × MmaRun :=
  let x := (s.seqTake 0).setF (.seqStat 0) SEQ_STAT.WAITING 0
  let p := x.mmaPlan 0 (wf w 0 7 0) w
  (x.mmaBegin 0 (wf w 0 7 0) w p.2).mmaOpen 0 (wf w 0 7 0) w p.1 p.2

theorem witness_TileSequencer :
    State.reset.f (.seqProg 0) SEQ_PROG.LENGTH ≤ State.reset.f (.seqStat 0) SEQ_STAT.PC ∧ State.reset.mmaRun 0 = none ∧
    (let w := mmaW 0x10 [(0, 24, 1)]
     let s := prog w
     s.mmaRun 0 = none ∧ s.mastRuns 0 = true ∧ s.bit (.fabCtrl 0) FAB_CTRL.DRAIN = false ∧ s.stepping (uSeq 0) = true ∧
     s.bit (.seqStat 0) SEQ_STAT.STEP_DONE = false ∧ s.engPending (.seq 0) = false ∧ s.seqFetch 0 = (w, false) ∧
     wf w 0 31 24 ≠ 0 ∧ s.f (.seqStat 0) SEQ_STAT.PC < s.f (.seqProg 0) SEQ_PROG.LENGTH ∧ bitN (wf w 0 31 24) 0 = false ∧
     Calm s) ∧
    (∀ e ∈ [(0, (0, 0, 0)), (0x10, (0, 0, 0)), (0x10, (0, 8, 3)), (0x11, (0, 8, 3)),
        (0x11, (15, 0, actBase 0 + 65536)), (0x12, (0, 0, 0))],
      let w := mmaW e.1 [e.2]; TileIssues (prog w) 0 w false ∧ TileIssues (prog w issuing true) 0 w true ∧ wf w 0 7 0 = e.1) ∧
    (let w := mmaW 0
     (((prog w).seqTake 0).setF (.seqStat 0) SEQ_STAT.WAITING 0).mmaCheck1 0 0 w = .done ∧ (opened w).2.uses = []) ∧
    (let s := { issuing with sail := { issuing.sail with runs := [drained (mmaW 0x10)] } }
     s.mmaRun 0 = some (drained (mmaW 0x10)) ∧ s.mastClocked 0 = true ∧ (s.drain 0).mmaRun 0 = none ∧
     wf (drained (mmaW 0x10)).w 0 7 0 = 0x10 ∧ (drained (mmaW 0x10)).w ≠ mmaW 0) ∧
    (let s := { State.reset with sail := { State.reset.sail with tap := [tapped] } }
     State.reset.sail.tap.find? (fun t => t.mast == 0 && t.slot == 1 && t.targets.contains 3) = none ∧
     s.sail.tap.find? (fun t => t.mast == 0 && t.slot == 1 && t.targets.contains 3) = some tapped ∧
     (s.bBufs 0 3).length < 2 ∧ (∀ b ∈ s.sail.tap, b.mast = 0 → b.no < tapped.no → b.targets.contains 3 = false) ∧
     (∃ k ∈ tapped.targets, k ≠ 3) ∧ s.mmaRun 0 = none ∧
     ({ s with sail := { s.sail with runs := [drained []] } } : State).mmaRun 0 = some (drained [])) := by
  unfold TileIssues Calm Canonical
  refine ⟨?_, ?_, ?_, ?_, ?_, ?_, ?_⟩ <;> decide +kernel

/-- An MMA of the program whose A and B are in memory, and its plan of one walk. -/
theorem witness_TileSequencer_walks :
    let w := mmaW 0x10
    let x := ((prog w).seqTake 0).setF (.seqStat 0) SEQ_STAT.WAITING 0
    let e : MmaEntry := { st := .done, walk := some (mmaBases w, { m := 1, n := 1, k := 32 }) }
    let b := (x.mmaBegin 0 0x10 w [e]).mmaOpen 0 0x10 w .done [e]
    let u := b.1.memDrain b.2 b.2.uses
    TileIssues (prog w) 0 w false ∧ x.mmaCheck1 0 0x10 w = .done ∧ aStream w = false ∧ x.mmaEntry 0 w (mmaBases w) = e ∧
    x.cLocal w (mmaBases w) = true ∧ x.mmaPlan 0 0x10 w = (.done, [e]) ∧ u.2.poison = false ∧
    u.2.flags &&& (fOvf ||| fUnf) = 0 := by
  unfold TileIssues Calm Canonical
  decide +kernel

/-- An MMA whose A comes from a stream has computations to wait for. -/
theorem witness_TileSequencer_stream :
    let w := mmaW 0x10 [(5, 49, 1)]
    TileIssues (prog w) 0 w false ∧ aStream w = true ∧ (opened w).2.uses ≠ [] := by
  unfold TileIssues Calm Canonical
  decide +kernel

/-- An MMA_LIST of one entry. -/
theorem witness_TileSequencer_list :
    let w := mmaW 0x11 [(15, 0, actBase 0 + 65536), (15, 47, 1)]
    let s := prog w listed
    let x := (s.seqTake 0).setF (.seqStat 0) SEQ_STAT.WAITING 0
    let c := listBases (s.bytes (wf w 15 46 0) 64)
    let e : MmaEntry := { st := .done, walk := some (c, { m := 1, n := 1, k := 32 }) }
    let b := (x.mmaBegin 0 0x11 w [e]).mmaOpen 0 0x11 w .done [e]
    let u := b.1.memDrain b.2 b.2.uses
    TileIssues s 0 w false ∧ wf w 0 7 0 = 0x11 ∧ aStream w = false ∧ x.mmaPlan 0 0x11 w = (.done, [e]) ∧
    x.cLocal w c = true ∧ u.2.poison = false ∧ u.2.flags &&& (fOvf ||| fUnf) = 0 := by
  unfold TileIssues Calm Canonical
  decide +kernel

/-- An instruction of 32 elements without cleats that writes its record: A in X1, B in X2, C in X3 and D in X4. -/
def jibW (op ty : Nat) (fs : List (Nat × Nat × Nat) := []) : List Word :=
  words 8 ([(0, 0, op), (0, 8, ty), (0, 11, ty), (0, 24, 1), (0, 27, 32), (0, 42, 0xFFFF), (2, 0, 1), (2, 4, 4), (3, 0, 1), (3, 4, 1),
    (4, 0, 1), (4, 4, 2), (5, 0, 1), (5, 4, 3), (6, 53, 1)] ++ fs)

/-- Words of each operation that pass the checks: integers where it takes them. -/
def jibWords : List (Nat × List Word) :=
  ((List.range 0x10).drop 1 ++ [0x13, 0x14, 0x40, 0x41, 0x42, 0x50, 0x51]).map (fun op => (op, jibW op 2)) ++
  [0x10, 0x11, 0x12].map (fun op => (op, jibW op 2 [(2, 4, 61)])) ++ [(0x43, jibW 0x43 2), (0x44, jibW 0x44 0)] ++
  ((List.range 15).map (0x20 + ·)).map (fun op => (op, jibW op 0)) ++
  [(0x52, jibW 0x52 2 [(7, 0, 4)]), (0x53, jibW 0x53 0), (0x54, jibW 0x54 2), (0x55, jibW 0x55 0),
   (0x56, jibW 0x56 0 [(0, 8, 6), (2, 0, 1), (2, 11, actBase 0), (6, 0, actBase 0 + 4096)]), (0x57, jibW 0x57 0)]
/-- Words for tile mode. -/
def jibTileWords : List (Nat × List Word) := [(0x60, jibW 0x60 0 [(0, 27, 1024 - 32)]), (0x61, jibW 0x61 2 [(0, 27, 1024 - 32)])]

/-- The views on which every operation of the wide-lane mode and of the tile mode passes. -/
theorem witness_JibInstructions_passes :
    (∀ e ∈ jibWords, let s := prog e.2
      JibIssues s 0 e.2 false e.1 ∧ JibIssues (prog e.2 issuing true) 0 e.2 true e.1 ∧ JibPasses s 0 e.2 e.1 ∧
      jw e.2 0 57 42 = 0xFFFF) ∧
    (∀ e ∈ jibTileWords, let s := prog e.2 (issuing.setF (.jibCtrl 0 0) JIB_CTRL.MODE 1)
      JibIssues s 0 e.2 false e.1 ∧ JibPasses s 0 e.2 e.1) ∧
    (let w := jibW 1 2; let v := jibView (prog w) 0 w; (v.run 1).bad = false ∧ jibPoisons v 1 = false) := by
  unfold JibIssues JibPasses Calm Canonical
  refine ⟨?_, ?_, ?_⟩ <;> decide +kernel

theorem witness_JibInstructions :
    (State.reset.f (.jibProg 0 0) JIB_PROG.LENGTH ≤ State.reset.f (.jibStat 0 0) JIB_STAT.PC) ∧
    (let w := jibW 1 7; let s := prog w
     JibIssues s 0 w false 1 ∧ jStep1 w (jibView s 0 w).tile (jibOp 1 w) = false) ∧
    (∀ f ∈ [((0, 25, 1) : Nat × Nat × Nat), (2, 0, 0)], let w := jibW 1 2 [f]; let s := prog w (issuing.setJib 0 { result := 33 })
     let v := jibView s 0 w
     JibIssues s 0 w false 1 ∧ jibOps.contains (jw w 0 7 0) = true ∧ jStep1 w v.tile 1 = true ∧
     (f.2.1 = 25 → (v.s.jibCount 0 w).2 = .shapeOverflow) ∧ (f.2.1 = 0 → (v.s.jibCount 0 w).2 = .done)) ∧
    (let w := jibW 1 2 [(0, 25, 1)]; let s := prog w; let v := jibView s 0 w
     JibIssues s 0 w false 1 ∧ jStep1 w v.tile 1 = true ∧ (v.s.jibCount 0 w).2 = .done ∧ v.n = 0 ∧ jw w 0 57 42 = 0xFFFF) ∧
    (let w := jibW 0x56 0 [(0, 27, 1), (0, 8, 6), (2, 0, 1), (2, 11, actBase 0), (6, 0, actBase 0)]; let s := prog w
     let v := jibView s 0 w
     JibIssues s 0 w false 0x56 ∧ jibOps.contains (jw w 0 7 0) = true ∧ jStep1 w v.tile 0x56 = true ∧
     (v.s.jibCount 0 w).2 = .done ∧ v.n ≠ 0 ∧ v.check 0x56 ≠ .done) ∧
    (let w := words 8 [(0, 42, 5)]; let s := prog w (cleat5 7 issuing); let v := jibView s 0 w
     JibIssues s 0 w false 0 ∧ jibOps.contains (jw w 0 7 0) = true ∧ jStep1 w v.tile 0 = true ∧
     (v.s.jibCount 0 w).2 = .done ∧ v.n % v.r = 0 ∧ jw w 0 57 42 = 5 ∧
     5 ≤ cleatMax ∧ s.isProxy 5 = false ∧ (s.cleat 5).value + 1 < 2 ^ 31 ∧ s.waitsOn 5 = [] ∧ Released s (uJib 0) ∧
     s.cltCheck { op := 2, index := 5, operand := 1 } (s.gid (uJib 0)) = .done) ∧
    (let w := words 8 [(0, 42, 0xFFFF)]; let s := prog w; let v := jibView s 0 w
     JibIssues s 0 w false 0 ∧ jibOps.contains (jw w 0 7 0) = true ∧ jStep1 w v.tile 0 = true ∧
     (v.s.jibCount 0 w).2 = .done ∧ v.n % v.r = 0 ∧ jw w 0 57 42 = 0xFFFF) := by
  unfold JibIssues Released Calm Canonical
  refine ⟨?_, ?_, ?_, ?_, ?_, ?_, ?_⟩ <;> decide +kernel

/-- A notification of two bytes, in the queue of channel 3 of mast 0. -/
def noted : State := issuing.setChan 3 { queue := [{ len := 2 }, {}] }

theorem witness_JibElements :
    (let x := jibView issuing 0 (jibW 2 2)
     (∀ k ∈ [3, 4, 5], ∃ a, x.src k 0 = { v := some a, p := false }) ∧ x.active 31 = true ∧ 31 < x.n) ∧
    (let x := jibView (issuing.setJib 0 { bad := [256] }) 0 (jibW 2 2); (x.src 3 0).p = true) ∧
    (let x := jibView (issuing.setJib 0 { store := [(1026, 0x80), (1027, 0x3F)] }) 0 (jibW 2 0); (x.src 3 0).v.isSome = true) ∧
    (let x := jibView (issuing.setJib 0 { store := (List.range 4).map (fun i => (1024 + i, 0xFF)) }) 0 (jibW 2 0)
     (x.src 3 0).v = none) ∧
    (let w := ((jibW 0x70 2 [(0, 43, 0)]).set 0 (BitVec.ofNat 64 (0x70 + 2 ^ 27 + 0xFFFF * 2 ^ 42))).set 7 3
     JibIssues (prog w issuing true) 0 w true 0x70) ∧
    (let w := ((jibW 0x70 2 [(0, 43, 0)]).set 0 (BitVec.ofNat 64 (0x70 + 2 ^ 27 + 0xFFFF * 2 ^ 42))).set 7 3
     let s := prog w
     JibIssues s 0 w false 0x70 ∧ JibPasses s 0 w 0x70 ∧ (s.chan (128 * 0 + (jibView s 0 w).aux 5 0)).queue = []) ∧
    (let w := ((jibW 0x70 2 [(0, 43, 0)]).set 0 (BitVec.ofNat 64 (0x70 + 2 ^ 27 + 0xFFFF * 2 ^ 42))).set 7 3
     let y := prog w noted; let v := jibView y 0 w
     JibIssues y 0 w false 0x70 ∧ JibPasses y 0 w 0x70 ∧ (y.chan (128 * 0 + v.aux 5 0)).queue = { len := 2 } :: [{}] ∧
     jw w 0 57 42 = 0xFFFF ∧ jw w 0 24 24 = 0 ∧ v.predBad = false) ∧
    (let w := (((jibW 0x70 2 [(0, 43, 0)]).set 0 (BitVec.ofNat 64 (0x70 + 2 ^ 16 + 2 ^ 27 + 0xFFFF * 2 ^ 42))).set 7 3)
     let y := prog w (noted.setJib 0 { predBad := 2 }); let v := jibView y 0 w
     JibIssues y 0 w false 0x70 ∧ JibPasses y 0 w 0x70 ∧ (y.chan (128 * 0 + v.aux 5 0)).queue = { len := 2 } :: [{}] ∧
     v.predBad = true) := by
  unfold JibIssues JibPasses Calm Canonical
  refine ⟨⟨?_, ?_⟩, ?_, ?_, ?_, ?_, ?_, ?_, ?_⟩
  · intro k hk
    have h : k = 3 ∨ k = 4 ∨ k = 5 := by simpa using hk
    rcases h with h | h | h <;> subst h <;> exact ⟨Q.ofInt 0, by decide +kernel⟩
  all_goals decide +kernel

/-- Slot 0 of sheave 0 of mast 0 in force with a kind and bound queues, entries in its input queues. -/
def slotted (kind inb outb : Nat) (iq : List (Nat × List FabEntry)) : State :=
  ((((((State.reset.setF (.fabCtrl 0) FAB_CTRL.ENABLE 1).setF (.slot 0 0 0 0) SLOT.VALID 1).setF (.slot 0 0 0 0) SLOT.KIND kind).setF
    (.slot 0 0 0 0) SLOT.INBIND inb).setF (.slot 0 0 0 0) SLOT.OUTBIND outb).setSheave 0 0 { iq := iq })

theorem witness_SheaveFirings :
    (∀ i < 8, State.reset.slotReady 0 0 i = false) ∧
    (let s := slotted 0 1 1 [(0, [{ v := 7 }])]
     s.fabClocked 0 = true ∧ (s.sheave 0 0).cur = none ∧ s.slotPick 0 0 = some 0 ∧ s.hdr 0 0 0 SLOT.KIND = 0 ∧
     s.hdr 0 0 0 SLOT.KIND ≠ 3 ∧ s.inBound 0 0 0 = [0]) ∧
    (let s := slotted 1 0x401 3 [(0, [{ v := 7 }]), (10, [{ v := 1 }])]; let r := s.roles 0 0 0
     s.slotPick 0 0 = some 0 ∧ s.hdr 0 0 0 SLOT.KIND = 1 ∧ r.t = some 10 ∧ ((s.sheave 0 0).inq 10).head? = some { v := 1 } ∧
     0 ∈ r.d ∧ r.d.head? = some 0 ∧ ((s.sheave 0 0).inq 0).head? = some { v := 7 } ∧ r.o = [0, 1]) ∧
    (let s := slotted 2 0x403 1 [(1, [{ v := 7 }]), (10, [{ v := 1 }])]; let r := s.roles 0 0 0
     s.slotPick 0 0 = some 0 ∧ s.hdr 0 0 0 SLOT.KIND = 2 ∧ r.t = some 10 ∧ ((s.sheave 0 0).inq 10).head? = some { v := 1 } ∧
     1 ∈ r.d ∧ r.d[tokenOf { v := 1 }]? = some 1 ∧ ((s.sheave 0 0).inq 1).head? = some { v := 7 }) ∧
    (let s := slotted 3 3 0x11 [(0, [{ v := 7, at_ := 5 }]), (1, [{ v := 8, at_ := 4 }])]; let r := s.roles 0 0 0
     s.slotPick 0 0 = some 0 ∧ s.hdr 0 0 0 SLOT.KIND = 3 ∧ r.d = [0, 1] ∧ r.o = [0] ∧ r.c = some 4) := by
  refine ⟨?_, ?_, ?_, ?_, ?_⟩ <;> decide +kernel

/-- Slot 0 of sheave 0 of mast 0 issues its first instruction, one of two, of a word. -/
def firing (w : Nat) (x : Sheave := {}) : State :=
  (((slotted 0 0 1 []).setF (.slot 0 0 0 0) SLOT.LENGTH 2).setF (.slot 0 0 0 4) SLOT.PROG0 w).setSheave 0 0
    { x with cur := some { slot := 0, next := 0 } }

/-- Instruction words: operation, scalar form, type, destination, A and B. -/
def shvW (op : Nat) (sc : Nat := 0) (ty : Nat := 2) (d : Nat := 3) (a : Nat := 1) (b : Nat := 2) : Nat :=
  sc * 2 ^ 31 + op * 2 ^ 26 + ty * 2 ^ 24 + d * 2 ^ 18 + a * 2 ^ 12 + b * 2 ^ 6

theorem witness_SheaveInstructions :
    (State.reset.sheave 0 0).cur = none ∧
    (let s := firing (shvW 2)
     ∃ c, (s.sheave 0 0).cur = some c ∧ fld (s.shvWord 0 0 c.slot c.next) 30 26 ≠ 3 ∧ c.slot < 8 ∧
       c.next + 1 < s.hdr 0 0 c.slot SLOT.LENGTH) ∧
    (∀ op ∈ List.range 26, ∀ d ∈ [3, 0x30, 0x31], ∀ sc ∈ [0, 1], let s := firing (shvW op sc 2 d); let w := s.shvWord 0 0 0 0
     s.fabClocked 0 = true ∧ fld w 30 26 = op ∧ bitN w 31 = (sc == 1) ∧ fld w 23 18 = d ∧ fld w 25 24 = 2 ∧
     s.hdr 0 0 0 SLOT.RND ≠ 2) ∧
    (let s := firing (shvW 2); let x := s.sheave 0 0; (bitN (x.pred (fld (s.shvWord 0 0 0 0) 5 2)).1 0 != bitN (s.shvWord 0 0 0 0) 1) = true) ∧
    (let s := firing (shvW 0x10 0 1); let x := s.sheave 0 0; let w := s.shvWord 0 0 0 0
     fld w 30 26 = 0x10 ∧ fld w 25 24 = 1 ∧ fld w 23 18 % 16 ≠ 0 ∧ bitN w 31 = false ∧
     ∀ i < 32, (bitN (x.pred (fld w 5 2)).1 i != bitN w 1) = true) ∧
    (let s := ((slotted 0 0 1 []).setF (.slot 0 0 0 0) SLOT.LENGTH 2).setSheave 0 0 { cur := some { slot := 0, next := 1 } }
     s.hdr 0 0 0 SLOT.LENGTH ≤ 1 + 1) := by
  refine ⟨?_, ⟨{ slot := 0, next := 0 }, ?_⟩, ?_, ?_, ?_, ?_⟩ <;> decide +kernel

/-- Edge port 0 of mast 0 of a kind at the north side, with coil 0 defined: 4 records of 64 B from offset 0. -/
def edged (k : Nat) (s : State := State.reset) : State :=
  ((((((s.setF (.fabEdge 0 0 0) FAB_EDGE.VALID 1).setF (.fabEdge 0 0 0) FAB_EDGE.KIND k).setCo 0 0 COIL.VALID 1).setCo 0 0
    COIL.RECSZ 3).setCo 0 0 COIL.CAP 4).setF (.fabEdge 0 0 0) FAB_EDGE.CLEAT 5)

/-- Entries in the lane of edge port 0 of mast 0 toward a sink. -/
def sunk (k : Nat) (es : List FabEntry) : State := (edged k).setLane 0 { node := 256, net := 0, side := 0, lane := 0 } es

/-- Coil 0 of mast 0 in the partial-sum memory of sail 0, whose tile slots a macro-instruction holds. -/
def heldCoil (s : State := edged 0) : State :=
  ((s.setCo 0 0 COIL.MEM 1).setF (.sailStat 0 0) SAIL_STAT.BUSY 1).setF (.sailStat 0 0) SAIL_STAT.RESIDENT 1

/-- A spill of queue 0 of sheave 0 of mast 0 to coil 0. -/
def spilled (s : State := edged 0) : State := s.setF (.fabSpill 0 0) FAB_SPILL.VALID 1

/-- Ports 0 and 1 of mast 0, both of the kind and at coil 0. -/
def edged2 (k : Nat) (s : State := edged k) : State :=
  (s.setF (.fabEdge 0 1 0) FAB_EDGE.VALID 1).setF (.fabEdge 0 1 0) FAB_EDGE.KIND k

theorem witness_FabricPorts :
    (let s := (edged 0).setF (.fabCtrl 0) FAB_CTRL.STOP_SRC 1; s.srcRuns 0 = false) ∧
    ((edged 1).edgeIs 0 0 0 = false ∧ (edged 0).coilEmpty 0 0 = true) ∧
    (let s := (edged 0).setCo 0 0 COIL.TAIL 1
     s.edgeIs 0 0 0 = true ∧ s.srcRuns 0 = true ∧ s.injectRoom 0 0 = true ∧ s.coilEmpty 0 0 = false ∧ s.claimBusy 0 0 = false ∧
     s.edge 0 0 FAB_EDGE.STEP_COUNT = 0 ∧ s.coilTurn 0 0 (uEdge 0 0) true = true ∧ Calm s) ∧
    (let s := (edged2 0).setCo 0 0 COIL.TAIL 1; s.coilEmpty 0 0 = false ∧ s.coilTurn 0 0 (uEdge 0 1) true = false) ∧
    (let s := ((edged2 4).setLane 0 { node := 256, net := 0, side := 0, lane := 0 } [{ v := 3 }]).setCo 0 0 COIL.RESV 3
     s.coilFull 0 0 = false ∧ s.coilTurn 0 0 (uEdge 0 1) false = false) ∧
    (let s := heldCoil ((edged 0).setCo 0 0 COIL.TAIL 1)
     s.edgeIs 0 0 0 = true ∧ s.srcRuns 0 = true ∧ s.injectRoom 0 0 = true ∧ s.coilEmpty 0 0 = false ∧ s.claimBusy 0 0 = true ∧
     s.edge 0 0 FAB_EDGE.STEP_COUNT = 0 ∧ s.coilTurn 0 0 (uEdge 0 0) true = true) ∧
    (let s := (edged 1).setEport 0 0 { ticks := [9] }
     s.edgeIs 0 0 1 = true ∧ s.srcRuns 0 = true ∧ s.injectRoom 0 0 = true ∧ (s.eport 0 0).ticks = [9] ∧ ((edged 1).eport 0 0).ticks = []) ∧
    (let s := edged 2; let q := s.setChan 0 { queue := [{}] }
     s.edgeIs 0 0 2 = true ∧ s.srcRuns 0 = true ∧ s.edge 0 0 FAB_EDGE.CHAN = 0 ∧ (s.eport 0 0).hal = [] ∧
     (s.chan 0).queue = [] ∧ (q.chan 0).queue = [{}] ∧ (q.eport 0 0).hal = [] ∧
     ((s.setEport 0 0 { hal := [{ v := 1 }] }).eport 0 0).hal ≠ []) ∧
    ((edged 4).laneBuf 0 { node := 256, net := 0, side := 0, lane := 0 } = [] ∧
      ((edged 4).setCo 0 0 COIL.RESV 4).coilFull 0 0 = true) ∧
    (let s := sunk 4 [{ v := 3 }]
     (heldCoil s).edgeIs 0 0 4 = true ∧ (heldCoil s).coilFull 0 0 = false ∧ (heldCoil s).resvBusy 0 0 = true ∧
     (heldCoil s).laneBuf 0 { node := 256, net := 0, side := 0, lane := 0 } = [{ v := 3 }] ∧
     Calm s ∧ s.coilTurn 0 0 (uEdge 0 0) false = true ∧ (heldCoil s).coilTurn 0 0 (uEdge 0 0) false = true ∧
     s.edgeIs 0 0 4 = true ∧ s.coilFull 0 0 = false ∧ s.resvBusy 0 0 = false ∧
     s.laneBuf 0 { node := 256, net := 0, side := 0, lane := 0 } = [{ v := 3 }]) ∧
    ((sunk 5 [{ v := 3 }]).edgeIs 0 0 5 = true ∧ (sunk 6 [{ v := 3 }]).edgeIs 0 0 6 = true) ∧
    (let s := sunk 6 [{ v := 3 }]
     s.stepPorts 0 = [0] ∧ s.bit (.fabStat 0) FAB_STAT.STEP_DONE = false ∧ s.edge 0 0 FAB_EDGE.STEP_COUNT ≤ (s.eport 0 0).cnt + 1 ∧
     (let s := s.setF (.fabEdge 0 0 1) FAB_EDGE.STEP_COUNT 2; (s.eport 0 0).cnt + 1 < s.edge 0 0 FAB_EDGE.STEP_COUNT)) ∧
    ((edged 0).bit (.fabSpill 0 0) FAB_SPILL.VALID = false ∧ spilled.fabClocked 0 = true ∧
      spilled.bit (.fabSpill 0 0) FAB_SPILL.VALID = true ∧ spilled.ready 0 = [] ∧ spilled.coilEmpty 0 0 = true) ∧
    (let s := (spilled.setLane 0 { node := 0, net := 0, side := 0, lane := 0 } [{ v := 3 }]).wr (.slot 0 0 0 1) 0x10
     ((s.ready 0).find? (fun y => y.node == 0 && y.queues.contains 0 &&
       y.links.all (fun l => s.linkPick 0 (s.ready 0) l == some y))).isSome = true) ∧
    (let s := spilled.setCo 0 0 COIL.TAIL 1
     (s.sheave 0 0).inFree 0 = true ∧ s.claimBusy 0 0 = false ∧ s.coilEmpty 0 0 = false ∧ Calm s ∧ s.coilTurn 0 0 (uSheave 0) true = true ∧
     (heldCoil s).coilTurn 0 0 (uSheave 0) true = true ∧
     ((heldCoil s).sheave 0 0).inFree 0 = true ∧ (heldCoil s).claimBusy 0 0 = true ∧ (heldCoil s).coilEmpty 0 0 = false ∧
     (heldCoil s).fabClocked 0 = true ∧ (heldCoil s).bit (.fabSpill 0 0) FAB_SPILL.VALID = true) ∧
    (State.reset.bit (.fabCtrl 0) FAB_CTRL.DRAIN = false ∧
     (let s := (State.reset.setF (.fabCtrl 0) FAB_CTRL.DRAIN 1).setFabric 0 { quiet := 256 }
      s.bit (.fabCtrl 0) FAB_CTRL.DRAIN = true ∧ s.bit (.fabStat 0) FAB_STAT.DRAIN_DONE = false ∧ 256 ≤ (s.fabric 0).quiet ∧
      (s.fabric 0).moved = false)) ∧
    ((State.reset.fabric 0).stall < 2 ^ State.reset.f (.fabWd 0) FAB_WD.EXP ∧
     (let s := State.reset.setFabric 0 { stall := 65536 }
      Calm s ∧ (s.fabric 0).snapped = false ∧ s.bit (.fabWd 0) FAB_WD.DISABLE = false ∧ 2 ^ s.f (.fabWd 0) FAB_WD.EXP ≤ (s.fabric 0).stall ∧
      s.access (.unit (uSheave 0)) true (actBase 0 + s.f (.fabSnap 0) FAB_SNAP.OFFSET) 4160 = .done)) := by
  unfold Calm Canonical
  refine ⟨?_, ?_, ?_, ?_, ?_, ?_, ?_, ?_, ?_, ?_, ?_, ?_, ?_, ?_, ?_, ?_, ?_⟩ <;> decide +kernel

/-- The states and requests that the clauses about coils and memory speak of. -/
theorem witness_CoilsAndMemory :
    (State.reset.co 0 0 COIL.VALID = 0) ∧
    (let s := edged 0; s.co 0 0 COIL.VALID ≠ 0 ∧ s.coilFull 0 0 = false ∧ s.coilEmpty 0 0 = true ∧ (s.coilSt 0 0).resWait = [] ∧
      s.coilTurn 0 0 0xB000 false = true) ∧
    (let s := (edged 5).setCo 0 0 COIL.TAIL 1
     s.coilEmpty 0 0 = false ∧ (s.coilSt 0 0).clmWait = [] ∧ s.coilTurn 0 0 0xB000 true = true) ∧
    (let s := (edged 0).setCoilSt 0 0 { resWait := [0xB001], clmWait := [0xB002] }
     s.co 0 0 COIL.VALID ≠ 0 ∧ (s.coilSt 0 0).resWait ≠ [] ∧ (s.coilSt 0 0).clmWait ≠ []) ∧
    (((edged2 0).setCo 0 0 COIL.TAIL 1).coilTurn 0 0 (uEdge 0 1) true = false) ∧
    (let s := (edged 0).setCo 0 0 COIL.RESV 4; s.coilFull 0 0 = true) ∧
    (let s := ((edged 0).setCo 0 0 COIL.RESV 2).setCo 0 0 COIL.TAIL 1
     s.coilEmpty 0 0 = false ∧ recDiff 1 (s.co 0 0 COIL.TAIL) < recDiff (s.co 0 0 COIL.RESV) (s.co 0 0 COIL.TAIL) ∧
     s.coilBusy 0 0 1 = false ∧ (s.coilSt 0 0).clmWait = [] ∧ (1 : BitVec 32).toNat = s.co 0 0 COIL.TAIL ∧ (s.coilSt 0 0).written = [] ∧
     recDiff (s.co 0 0 COIL.RESV) (s.co 0 0 COIL.TAIL) ≤ recDiff 2 (s.co 0 0 COIL.TAIL)) ∧
    (let s := (edged 0).setCo 0 0 COIL.RESV 2
     s.unsettled s.dev (uCoil 0) = false ∧ (heldCoil s).coilBusy 0 0 1 = true ∧
     recDiff 1 ((heldCoil s).co 0 0 COIL.TAIL) < recDiff ((heldCoil s).co 0 0 COIL.RESV) ((heldCoil s).co 0 0 COIL.TAIL) ∧
     1 ∉ ((heldCoil s).coilSt 0 0).written ∧
     recDiff 1 (s.co 0 0 COIL.TAIL) < recDiff (s.co 0 0 COIL.RESV) (s.co 0 0 COIL.TAIL) ∧ 1 ∉ (s.coilSt 0 0).written ∧
     s.co 0 0 COIL.TAIL ∉ (s.coilSt 0 0).written ∧ 1 ≠ s.co 0 0 COIL.TAIL) ∧
    (let s := ((edged 0).setCo 0 0 COIL.CLAIM 1).setCo 0 0 COIL.TAIL 1
     (heldCoil s).coilBusy 0 0 0 = true ∧ 0 ∉ ((heldCoil s).coilSt 0 0).read ∧
     recDiff 0 ((heldCoil s).co 0 0 COIL.HEAD) < recDiff ((heldCoil s).co 0 0 COIL.CLAIM) ((heldCoil s).co 0 0 COIL.HEAD) ∧
     (({ resBy := [(0, 7)] } : CoilSt).resBy.find? (fun e => e.1 == 0)) = some (0, 7) ∧
     recDiff 0 (s.co 0 0 COIL.HEAD) < recDiff (s.co 0 0 COIL.CLAIM) (s.co 0 0 COIL.HEAD) ∧ s.coilBusy 0 0 0 = false ∧
     0 = s.co 0 0 COIL.HEAD ∧ (s.coilSt 0 0).read = [] ∧ (s.coilSt 0 0).resWait = [] ∧
     recDiff (s.co 0 0 COIL.CLAIM) (s.co 0 0 COIL.HEAD) ≤ recDiff 1 (s.co 0 0 COIL.HEAD)) ∧
    (let q (m e : Nat) : MemRead := { unit := 0x1000, mode := m, addr := actBase 0, e := e, n := 2, stride := 128 }
     (q 0 4097).legal = false ∧ (q 0 0).legal = false ∧ (q 1 64).legal = true ∧ (q 2 128).legal = true ∧ (q 0 4096).legal = true ∧
     (∀ x ∈ [q 0 4096, q 1 64, q 2 128], 0 ≤ x.hull.1 ∧
       State.reset.access (.unit 0x1000) false x.hull.1.toNat x.hull.2 = .done ∧ State.reset.stalls x = false) ∧
     State.reset.fuses.region (actBase 0) 1 = some (.act 0) ∧ State.reset.chip.transpose = [] ∧
     State.reset.access (.unit 0x1000) false 0x7FFFFFFFFFFF 64 ≠ .done) ∧
    (let w : TrackedWrite := { mast := 0, addr := actBase 0, data := [1], bad := [], unit := 0x4000, dev := 0, waiting := false }
     let q : MemRead := { unit := 0x1000, mode := 0, addr := actBase 0 + 63, e := 1 }
     let s : State := { State.reset with chip := { State.reset.chip with writes := [w], stalled := [q] } }
     s.stalls q = true ∧ s.stalls { q with addr := actBase 0 + 64 } = false ∧
     s.chip.stalled.find? (fun q => q.unit == 0x1000) = some q ∧ q.errs = [] ∧ ({ q with bad := true }).bad = true ∧
     decide (s.ownReads 0x1000 (actBase 0 + 60) 8 = s) = false ∧ s.ownReads 0x1000 (actBase 0) 8 = s ∧
     (∀ y ∈ s.chip.stalled ++ s.chip.transWait, y.unit = 0x1000 →
       ∀ r ∈ y.runs, r.1.toNat + r.2 ≤ actBase 0 ∨ actBase 0 + 8 ≤ r.1.toNat) ∧ (∀ q ∈ State.reset.chip.stalled, q.unit ≠ 0x1000)) ∧
    (State.reset.abroad none = none ∧ named.abroad (some 9) = some 9 ∧ State.reset.fuses.region regBase 8 = some .regs ∧
      State.reset.fuses.region (cleatBase + 80) 16 = some .cleat ∧ (0xB000 : BitVec 16).toNat / 4096 = 11) ∧
    ((hbmUp).fuses.region 0 64 = some .hbm ∧ hbmUp.access (.unit 0x1000) false 0 64 = .done ∧
      hbmUp.access (.unit 0x1000) true 0 64 = .done) ∧
    (State.reset.fuses.region (actBase 0) 64 = some (.act 0) ∧ Region.mast (.act 0) = some 0 ∧
      State.reset.access (.unit 0x1000) false (actBase 0) 64 = .done ∧
      State.reset.stalls { unit := 0x1000, mode := 0, addr := actBase 0, e := 64 } = false ∧
      (actBase 0 + 64 - 1) / 64 = actBase 0 / 64) ∧
    (State.reset.access (.unit 0x1000) true (actBase 0) 4096 = .done ∧ trackedUnit (0 == State.reset.dev) 0x1000 = false ∧ Calm State.reset ∧
      trackedUnit (0 == State.reset.dev) 0x4000 = true ∧ (State.reset.fuses.region (actBase 0) 4096).bind Region.mast = some 0 ∧
      State.reset.access (.unit 0xB000) true (cleatBase + 80) 16 = .done ∧
      State.reset.access (.unit 0x1000) true 0x7FFFFFFFFFFF 64 ≠ .done) ∧
    (let s := State.reset.setF (.memScrub 7) MEM_SCRUB.ENABLE 1
     s.bit (.memScrub 7) MEM_SCRUB.ENABLE = true ∧ s.mastPower 7 ≠ 2 ∧
     ∀ i ∈ [0, 5046271], (s.fuses.region (64 * (scrubAddr 7 i / 64)) 64).bind Region.mast = some 7) ∧
    (State.reset.setF (.memScrub 7) MEM_SCRUB.ENABLE 0).bit (.memScrub 7) MEM_SCRUB.ENABLE = false := by
  unfold Calm Canonical
  refine ⟨?_, ?_, ?_, ?_, ?_, ?_, ?_, ?_, ?_, ?_, ?_, ?_, ?_, ?_, ?_, ?_, ?_⟩ <;> decide +kernel

/-- A device whose HBM stacks are trained. -/
def trained (s : State := issuing) : State := (List.range 16).foldl (fun s h => s.setF (.hbmStat h) HBM_STAT.TRAINED 1) s

/-- A descriptor of one row of 64 bytes from activation memory to activation memory, no cleats, in slot 0. -/
def flW (fs : List (Nat × Nat × Nat) := []) : List Nat :=
  (words 8 ([(0, 16, 0xFFFF), (1, 6, 0xFFFF), (2, 0, actBase 0), (3, 0, actBase 0 + 4096), (4, 0, 64), (4, 32, 1)] ++ fs)).map (·.toNat)

/-- A step list of one entry whose bytes 8 to 15 are `e`, with the batch at an address. -/
def listing (e : List Byte) (bad : List Nat := []) (at_ : Nat := actBase 0 + 64) : State :=
  let s := trained.setF (.flStep 0) FL_STEP.LENGTH 1
  { s with mem := memPuts s.mem (actBase 0) (leBytes 8 at_ ++ e), poison := bad }

/-- A batch of one descriptor. -/
def batched (w : List Nat) (p : Bool := false) (s : State := trained) : State := s.setFl 0 { batch := [(w.flatMap (leBytes 8), p, 0)] }

theorem witness_Fairleads_steps :
    ((trained.fl 0).batch = [] ∧ trained.f (.flStep 0) FL_STEP.LENGTH ≤ (trained.fl 0).entry) ∧
    (let s := listing [1]; let x := s.fl 0; let u := s.readPass (uFairlead 0) [(actBase 0, 16)]; let e := u.bytes (actBase 0) 16
     Calm s ∧ u.poisonedAt (actBase 0) 16 = false ∧
     s.flRuns 0 = true ∧ x.stopped = false ∧ x.ending = false ∧ x.batch = [] ∧ x.entry < s.f (.flStep 0) FL_STEP.LENGTH ∧
     s.stepping (uFairlead 0) = true ∧ State.reset.stepping (uFairlead 0) = false ∧ actBase (s.flMast 0) + s.f (.flStep 0) FL_STEP.OFFSET + 16 * x.entry = actBase 0 ∧
     s.access (.unit (uFairlead 0)) false (actBase 0) 16 = .done ∧ s.poisonedAt (actBase 0) 16 = false ∧ 0 < leAt e 8 1 ∧
     leAt e 8 1 ≤ 64 ∧ leAt e 9 1 < 2 ∧ leAt e 10 6 = 0 ∧ leAt e 0 8 < 2 ^ 47 ∧ leAt e 0 8 % 64 = 0 ∧
     s.actRange (leAt e 0 8) (64 * leAt e 8 1) = true) ∧
    (let s := listing [1] [actBase 0]
     (s.readPass (uFairlead 0) [(actBase 0, 16)]).poisonedAt (actBase 0) 16 = true ∧ leAt (s.bytes (actBase 0) 16) 9 1 % 2 = 0) ∧
    (∀ n ∈ [(0 : Byte), 65], leAt ((listing [n]).bytes (actBase 0) 16) 8 1 = 0 ∨ 64 < leAt ((listing [n]).bytes (actBase 0) 16) 8 1) ∧
    (∀ a ∈ [actBase 0 + 8, weightBase 0], let e := (listing [1] [] a).bytes (actBase 0) 16
     0 < leAt e 8 1 ∧ leAt e 8 1 ≤ 64 ∧ leAt e 9 1 < 2 ∧ leAt e 10 6 = 0 ∧ leAt e 0 8 < 2 ^ 47 ∧
     (leAt e 0 8 % 64 ≠ 0 ∨ (listing [1] [] a).actRange (leAt e 0 8) (64 * leAt e 8 1) = false)) ∧
    (let s := (listing [1]).setF (.flStep 0) FL_STEP.OFFSET 0x3FFFFF8
     s.access (.unit (uFairlead 0)) false (actBase (s.flMast 0) + s.f (.flStep 0) FL_STEP.OFFSET) 16 ≠ .done) := by
  unfold Calm Canonical
  refine ⟨?_, ?_, ?_, ?_, ?_, ?_⟩ <;> decide +kernel

theorem witness_Fairleads_install :
    (∀ w ∈ [flW, flW [(0, 0, 3)], flW [(4, 32, 2 ^ 32 - 1)]], ∀ p ∈ [false, true], let s := batched w p
     (s.fl 0).batch = (w.flatMap (leBytes 8), p, 0) :: [] ∧ s.flRuns 0 = true ∧ (s.fl 0).stopped = false ∧
     s.stepping (uFairlead 0) = true ∧ s.flSlot 0 (({ w := toWords (w.flatMap (leBytes 8)) } : FlDesc).g 0 15 10) = none ∧
     ¬ (s.fuses.a12 = true ∧ (0 : Fin 16).val % 4 = 3)) ∧
    (let d (w : List Nat) : FlDesc := { w := toWords (w.flatMap (leBytes 8)) }
     (d flW).w = flW ∧ trained.flBad (d flW) = false ∧ trained.flDenied (d flW) = false ∧ (d flW).srcKind = 0 ∧ (d flW).len ≠ 0 ∧
     (d flW).rows ≠ 0 ∧ trained.flBad (d (flW [(0, 0, 3)])) = true ∧
     trained.flBad (d (flW.set 3 regBase)) = false ∧ trained.flDenied (d (flW.set 3 regBase)) = true ∧
     trained.rangesCheck (uFairlead 0) false [rowsHull (d flW).src (d flW).sStride (d flW).rows (d flW).rowHull] = .done ∧ (d (flW [(4, 32, 2 ^ 32 - 1)])).rows = 0) ∧
    ((batched flW false (trained.setSlotD 0 0 { w := flW })).fl 0).slots = [] ∧
    (∃ s : State, (s.fl 0).batch ≠ [] ∧ s.flSlot 0 0 ≠ none) := by
  refine ⟨?_, ?_, ?_, ⟨trained.setFl 0 { batch := [(flW.flatMap (leBytes 8), false, 0)], slots := [(0, { w := flW })] }, ?_⟩⟩ <;>
    decide +kernel

/-- A descriptor in slot 0 of fairlead 0. -/
def slotD (d : FlDesc) : State := trained.setSlotD 0 0 d

theorem witness_Fairleads_delivery :
    trained.flSlot 0 0 = none ∧
    (let d : FlDesc := { w := flW, total := 64 }
     (slotD d).flSlot 0 0 = some d ∧ d.deliver = false ∧ d.fail = none ∧ (slotD d).flRuns 0 = true ∧ d.g 0 63 48 = 0) ∧
    (let d : FlDesc := { w := flW [(0, 48, 1)], total := 64 }
     let s := sect1 secSuspending { slotD d with clt := { (slotD d).clt with grants := [{ key := .desc 0 0, st := .done }] }, secs := [(1, { stopped := true })] }
     s.flSlot 0 0 = some d ∧ s.flRuns 0 = false ∧ s.flFinishes 0 = true ∧ s.flWaits 0 0 d = false ∧ d.g 0 63 48 ≠ 0 ∧
     (slotD d).flWaits 0 0 d = true ∧ d.g 0 47 32 ≠ 0xFFFF) ∧
    (let d : FlDesc := { w := flW [(0, 32, 0xFFFF), (0, 48, 1)], total := 64 }
     (slotD d).flSlot 0 0 = some d ∧ d.g 0 63 48 ≠ 0 ∧ d.g 0 47 32 = 0xFFFF ∧ (slotD d).flRuns 0 = true) ∧
    (let d : FlDesc := { w := flW [(0, 32, 5), (0, 48, 1)], total := 64 }
     let s : State := { slotD d with clt := { (slotD d).clt with grants := [{ key := .desc 0 0, st := .timeout }] } }
     s.flSlot 0 0 = some d ∧ d.g 0 63 48 ≠ 0 ∧ d.g 0 47 32 ≠ 0xFFFF ∧ s.flRuns 0 = true ∧
     (s.clt.grants.find? (fun g => g.key == .desc (0 : Fin 16) (0 : Fin 64))).isSome = true) ∧
    (let d : FlDesc := { w := (flW [(0, 8, 1), (1, 1, 1)]).set 2 0, total := 64 }; let s := slotD d; let q := s.ahead d
     d.pol ≠ 2 ∧ (s.slice (s.hbmLine (d.srcAt q)).1).find (s.hbmLine (d.srcAt q)).2 = none ∧
     s.flSlot 0 0 = some d ∧ s.flNext 0 = some (0 : Fin 64).val ∧ s.flDemand 0 (0 : Fin 64) = false) ∧
    (let d : FlDesc := { w := flW [(0, 9, 1)], deliver := true, total := 64, settled := 64 }; let s := slotD d
     s.flSlot 0 0 = some d ∧ Calm s ∧ d.isOver = true ∧ 49152 ≤ d.g 0 31 16 ∧ d.g 0 9 9 = 1 ∧
     s.access (.unit (uFairlead 0)) true (actBase (s.f (.flRec 0) FL_REC.MAST) + s.f (.flRec 0) FL_REC.OFFSET) 16 = .done ∧
     ({ d with settled := 63 } : FlDesc).settled ≠ d.total ∧ flErrField .timeout = some FL_ERR.TRANSPORT) ∧
    (let d : FlDesc := { w := flW, deliver := true, total := 64 }
     let s := (slotD d).setFl 0 { (slotD d).fl 0 with ending := true }
     (s.fl 0).ending = true ∧ (s.fl 0).batch = [] ∧ (∀ e ∈ (s.fl 0).slots, e.1 = 0) ∧ s.stepping (uFairlead 0) = true) ∧
    (∀ j < 64, trained.flDemand 0 j = false ∧ trained.flRoom 0 j = false) ∧
    (let d : FlDesc := { w := flW, deliver := true, total := 64 }; let s := slotD d; let n := s.pieceLen d d.pos
     s.flNext 0 = some 0 ∧ s.flDemand 0 0 = true ∧ Calm s ∧ s.flSlot 0 0 = some d ∧ d.srcKind = 0 ∧ d.mode = 0 ∧ d.dstKind = 0 ∧ s.fuses.hbmSize ≤ d.srcAt d.pos ∧
     s.fuses.hbmSize ≤ d.dstAt d.pos ∧ d.waits = [] ∧ d.g 1 37 22 = 0 ∧ n = 64 ∧
     s.access (.unit (uFairlead 0)) false (d.srcAt d.pos) n = .done ∧ s.access (.unit (uFairlead 0)) true (d.dstAt d.pos) n = .done) := by
  unfold Calm Canonical
  refine ⟨?_, ?_, ?_, ?_, ?_, ?_, ?_, ?_, ?_, ?_⟩ <;> decide +kernel

/-- A slice of stack 0 that holds line 5, with requests. -/
def sliced (w : ScLine) (miss fills : List MissReq := []) (s : State := trained State.reset) : State :=
  s.setSlice 0 { sets := [(5, { ways := [w] })], miss := miss, fills := fills }

theorem witness_HbmAndStreamCache_lines :
    (State.reset.hbmStatus ≠ .done ∧ (trained State.reset).hbmStatus = .done ∧
      (trained State.reset).fuses.stacks.contains 0 = true ∧ (2 ^ 29 - 1 : Nat) < 2 ^ 29) ∧
    ((402653183 : BitVec 29).toNat < 96 * 4194304 ∧ (trained State.reset).krDenied ((trained State.reset).lineAddr 0 402653183) 256 = false ∧
      ((trained State.reset).slice 0).find 402653183 = none) ∧
    (let s := sliced { way := 0, line := 5, dirty := true }
     (s.slice 0).find 5 = some { way := 0, line := 5, dirty := true } ∧ s.krDenied (s.lineAddr 0 5) 256 = false ∧
     s.bit (.scOp 0) SC_OP.BUSY = false) ∧
    (let s : State := trained { State.reset with fuses := { a12 := true } }
     s.fuses.stacks.contains 3 = false) ∧
    (let s := sliced { way := 0, line := 5 } [] [{ kind := .fill, line := 5 }]
     (s.slice 0).fills = { kind := .fill, line := 5 } :: [] ∧ ((sliced { way := 0, line := 5 }).slice 0).fills = [] ∧
     (∀ f < 16, (s.fl f).slots = []) ∧ (s.slice 0).find 5 = some { way := 0, line := 5 } ∧
     (∀ e ∈ s.hbm.sick, e.1 ≠ 0 ∨ e.2 / 8 ≠ 5) ∧
     (∃ e ∈ ({ s with hbm := { s.hbm with sick := [(0, 41)] } } : State).hbm.sick, e.1 = 0 ∧ e.2 / 8 = 5)) ∧
    ((State.reset.setF (.scOp 0) SC_OP.BUSY 1).bit (.scOp 0) SC_OP.BUSY = true) := by
  refine ⟨?_, ?_, ?_, ?_, ?_, ?_⟩ <;> decide +kernel

theorem witness_HbmAndStreamCache_stacks :
    (let s := sliced { way := 0, line := 5 } [{ kind := .fill, line := 5 }, { kind := .bypassWrite, line := 5 }, { kind := .bypassRead, line := 6 }]
     (s.slice 0).miss[(3 : Fin 256).val]? = none ∧ (s.slice 0).miss[(1 : Fin 256).val]? = some { kind := .bypassWrite, line := 5 } ∧
     (∃ q ∈ (s.slice 0).miss.take 1, q.line = 5) ∧
     (∀ e ∈ [(0, 5), (2, 6)], (∀ q ∈ (s.slice 0).miss.take e.1, q.line ≠ e.2) ∧ s.bankFree 0 e.2 = true) ∧ s.hbmStatus = .done) ∧
    (let s : State := { State.reset with refs := 1, hbm := { State.reset.hbm with blocked := [((0, bankOfLine 5), 7)] } }
     s.now < 7 ∧ s.bankFree 0 5 = false) ∧
    (let s : State := { State.reset with hbm := { State.reset.hbm with rewrite := [(1, 2), (0, 9)] } }
     s.hbm.rewrite = [(1, 2)] ++ (((0 : Fin 16).val, 9) :: []) ∧ ∀ e ∈ [((1, 2) : Nat × Nat)], e.1 ≠ 0) ∧
    (State.reset.bit (.hbmStat 0) HBM_STAT.FITTED = true ∧ State.reset.bit (.hbmStat 0) HBM_STAT.SELFREF = false ∧
      (State.reset.setF (.hbmStat 0) HBM_STAT.SELFREF 1).bit (.hbmStat 0) HBM_STAT.SELFREF = true) ∧
    (∀ e ∈ [(84, 0), (85, 1), (94, 1), (95, 2)], let s := State.reset.setF (.hbmTemp 0) HBM_TEMP.TEMP e.1
      (s.f (.hbmTemp 0) HBM_TEMP.TEMP < 85 → e.2 = 0) ∧ (95 ≤ s.f (.hbmTemp 0) HBM_TEMP.TEMP → e.2 = 2)) ∧
    (State.reset.bit (.hbmStat 0) HBM_STAT.TRAINED = false ∧
     (let s := (trained State.reset).setF (.hbmScrub 0) HBM_SCRUB.ENABLE 1
      s.bit (.hbmScrub 0) HBM_SCRUB.ENABLE = true ∧ s.bit (.hbmStat 0) HBM_STAT.TRAINED = true ∧
      s.bit (.hbmStat 0) HBM_STAT.SELFREF = false)) ∧
    (let r : MissReq := { kind := .fill, line := 5 }
     let b := (0, bankOfLine r.line); let row := (placeOfLine r.line).row
     let s (rows : List ((Nat × Nat) × Nat)) : State := { State.reset with hbm := { State.reset.hbm with rows := rows } }
     (b, row) ∈ (s [(b, 0)]).hbm.rows ∧ (b, row) ∉ (s []).hbm.rows ∧ (b, row) ∉ (s [(b, 7)]).hbm.rows) ∧
    (let s := State.reset.setF .hbmMap HBM_MAP.MAP_BUSY 1
     State.reset.bit .hbmMap HBM_MAP.MAP_BUSY = false ∧ s.bit .hbmMap HBM_MAP.MAP_BUSY = true ∧
     (s.scCleanAll 2 (fun _ => true)).scOwes 2 = false ∧ (∀ c ∈ s.mem, s.fuses.hbmSize ≤ c.1) ∧
     ((s.setSlice 0 { sets := [(5, { ways := [{ way := 0, line := 5, dirty := true }] })] }).scCleanAll 2 (fun _ => true)).scOwes 2 = true) ∧
    (let s : State := { State.reset.setF .hbmMap HBM_MAP.MAP_BUSY 1 with mem := [(512, 1)] }
     Canonical s ∧ ∀ c ∈ s.mem, c.1 < s.fuses.hbmSize ∧
       s.fuses.hbmAddr (s.f .hbmMap HBM_MAP.GRAN, s.f .hbmMap HBM_MAP.SPLITG) (s.fuses.hbmPlace s.hbm.map c.1).1
         (s.fuses.hbmPlace s.hbm.map c.1).2 < s.fuses.hbmSize) ∧
    (let s := (((State.reset.setF (.hbmKr 63 0) HBM_KR.BUSY 1).setF (.hbmKr 63 0) HBM_KR.VALID 1).setF (.hbmKr 63 1) HBM_KR.LENGTH (2 ^ 20))
     State.reset.bit (.hbmKr 63 0) HBM_KR.BUSY = false ∧ s.bit (.hbmKr 63 0) HBM_KR.BUSY = true ∧
     (s.scCleanAll (2 + (63 : Fin 64).val) (s.krRange 63)).scOwes (2 + (63 : Fin 64).val) = false ∧
     ((s.setSlice 0 { sets := [(5, { ways := [{ way := 0, line := 5, dirty := true }] })] }).scCleanAll (2 + (63 : Fin 64).val)
       (s.krRange 63)).scOwes (2 + (63 : Fin 64).val) = true ∧
     slotOf s.hbm.kr (2 ^ 30) = 0 ∧ s.sec.hbm = [] ∧ 2 ^ 30 < s.fuses.hbmSize) := by
  unfold Canonical
  refine ⟨?_, ?_, ?_, ?_, ?_, ?_, ?_, ?_, ?_, ?_⟩ <;> decide +kernel


/-- The activation count of a bank meets the threshold of its stack, or stays below it where the threshold allows an activation. -/
theorem witness_HbmAndStreamCache_activations :
    (∃ s : State, Config.rfmThreshold 0 ≤ Tbl.get 0 s.hbm.acts (0, bankOfLine 5) + 1) ∧
    (1 < Config.rfmThreshold 0 → Tbl.get 0 State.reset.hbm.acts (0, bankOfLine 5) + 1 < Config.rfmThreshold 0) := by
  refine ⟨⟨{ State.reset with hbm := { acts := [((0, bankOfLine 5), Config.rfmThreshold 0)] } }, ?_⟩, fun h => h⟩
  simp [Tbl.get]

/-- A descriptor of mast 0's tackle without cleats: 8 elements of int32 from offset 0 to offset 4096 of activation memory,
an index list at offset 8192. -/
def tkW (op : Nat) (fs : List (Nat × Nat × Nat) := []) : List Word :=
  words 24 ([(0, 0, op), (0, 11, 2), (0, 15, 2), (0, 32, 0xFFFF), (2, 0, actBase 0), (3, 0, actBase 0 + 4096), (6, 0, actBase 0 + 8192),
    (7, 0, 1), (8, 0, 4), (8, 40, 8), (9, 0, 4), (9, 40, 8)] ++
    [1, 2, 3].flatMap (fun k => [(8 + 3 * k, 0, 32), (8 + 3 * k, 40, 1), (9 + 3 * k, 0, 32), (9 + 3 * k, 40, 1)]) ++ fs)

/-- Coil 0 of mast 0 with `cap` records of 32 B at offset 16384 of activation memory. -/
def coiled (cap : Nat) : State :=
  ((((issuing.setCo 0 0 COIL.VALID 1).setCo 0 0 COIL.RECSZ 2).setCo 0 0 COIL.CAP cap).setCo 0 0 COIL.BASE 16384).setCo 0 0 COIL.RESV 0

theorem witness_TackleDescriptors_ends :
    (State.reset.tkMay 0 = false ∧ issuing.tkMay 0 = true ∧ issuing.tkFetch 0 ≠ (tkW 1, false) ∧
      (prog (tkW 1)).tkFetch 0 = (tkW 1, false) ∧ wf (tkW 1) 0 3 0 ≤ 5 ∧ wf (tkW 1) 0 3 0 ≠ 2) ∧
    (let w := tkW 0; let s := prog w; let x := (s.tkTake 0).setF (.tkStat 0) TK_STAT.WAITING 0
     TackleIssues s 0 w false 0 ∧ wf w 0 3 0 = 0 ∧ x.tkBad 0 w = false ∧ wf w 0 47 32 = 0xFFFF) ∧
    (∀ op ∈ [1, 2, 3, 4, 5], let w := tkW op; let s := prog w; let x := (s.tkTake 0).setF (.tkStat 0) TK_STAT.WAITING 0
     TackleIssues s 0 w false op ∧ TackleIssues (prog w issuing true) 0 w true op ∧ tkCoil w = false ∧ tkRnd w ≠ 2 ∧
     x.tkCheck 0 op 1 w = (.done, false) ∧ (if wb w 0 24 then s.num (wf w 7 63 17) 4 else wf w 7 16 0) = 1 ∧
     ((x.tkEnter 0 op w false .done).1.tkPasses 0 (x.tkEnter 0 op w false .done).2).bad = false) ∧
    (∀ op ∈ [1, 2, 3, 4, 5], let w := tkW op [(1, 48, 1)]; let s := prog w; let x := (s.tkTake 0).setF (.tkStat 0) TK_STAT.WAITING 0
     TackleIssues s 0 w false op ∧ (x.tkCheck 0 op 1 w).1 = .badDescriptor) ∧
    (let w := (tkW 2).set 7 0; let s := prog w; let x := (s.tkTake 0).setF (.tkStat 0) TK_STAT.WAITING 0
     TackleIssues s 0 w false 2 ∧ x.tkCheck 0 2 0 w = (.done, true)) ∧
    (let w := tkW 2 [(0, 24, 1), (7, 17, actBase 0)]
     let s := prog w { issuing with mem := memPuts [] (actBase 0) (leBytes 4 1) }
     let x := (s.tkTake 0).setF (.tkStat 0) TK_STAT.WAITING 0
     let v := x.readPass (uTackle 0) [(wf w 7 63 17, 4)]
     TackleIssues s 0 w false 2 ∧ x.tkCounts 2 w = true ∧ v.num (wf w 7 63 17) 4 = 1 ∧ v.tkCheck 0 2 1 w = (.done, false)) := by
  unfold TackleIssues Calm Canonical
  refine ⟨?_, ?_, ?_, ?_, ?_, ?_⟩ <;> decide +kernel

theorem witness_TackleDescriptors_moves :
    (∀ e ∈ [(1, none), (0, some 0)], let w := (tkW 1 [(0, 23, 1)]).set 3 0; let s := prog w (coiled e.1)
     let x := (s.tkTake 0).setF (.tkStat 0) TK_STAT.WAITING 0; let y := x.tkEnter 0 1 w false .done
     TackleIssues s 0 w false 1 ∧ tkCoil w = true ∧ x.tkCheck 0 1 1 w = (.done, false) ∧
     ((y.1.tkAcc y.2).coilRuns 0 1 w 0 (tkRuns 1 1 w)).2 = e.2) ∧
    (let w := tkW 1; let s := prog w; let x := (s.tkTake 0).setF (.tkStat 0) TK_STAT.WAITING 0
     TackleIssues s 0 w false 1 ∧ wf w 0 3 0 = 1 ∧
     x.tkCheck 0 1 1 w = (.done, false) ∧ PlainCopy w 2 8 ∧ wf w 2 46 0 = actBase 0 ∧ wf w 3 46 0 = actBase 0 + 4096 ∧
     49152 ≤ wf w 0 47 32 ∧ wb w 0 20 = false ∧ s.poisonedAt (wf w 2 46 0) (8 * tkBytes 2) = false ∧ s.hbm.sick = [] ∧ s.fuses.hbmSize ≤ wf w 2 46 0) ∧
    (let w := tkW 2; let s : State := { issuing with mem := memPuts [] (actBase 0 + 8192) (leBytes 4 1 ++ leBytes 4 (2 ^ 32 - 1)) }
     sext 32 (s.num (wf w 6 46 0 + 4 * 0) 4) = 1 ∧ sext 32 (s.num (wf w 6 46 0 + 4 * 1) 4) = -1 ∧ tkWin w 1 = 1 ∧
     sext 32 (s.num (wf w 6 46 0 + 4 * 2) 4) = 0 ∧ s.poisonedAt (wf w 6 46 0 + 4 * 0) 4 = false ∧ tkWindow w 0 (Int.ofNat 7) = some 7) := by
  unfold TackleIssues Calm Canonical PlainCopy
  refine ⟨?_, ?_, ?_⟩ <;> decide +kernel

theorem witness_FloatValues :
    (∀ c ∈ [0x0100, 0x7EFF, 0xBF80], (BitVec.ofNat 16 c).toNat / 2 ^ 8 % 2 ^ 7 ≠ 0 ∧ (BitVec.ofNat 16 c).toNat / 2 ^ 8 % 2 ^ 7 ≠ 127) ∧
    (∀ c ∈ [0x00800000, 0x7F7FFFFF, 0xBF800000], (BitVec.ofNat 32 c).toNat / 2 ^ 23 % 2 ^ 8 ≠ 0 ∧
      (BitVec.ofNat 32 c).toNat / 2 ^ 23 % 2 ^ 8 ≠ 255) := by decide +kernel

theorem witness_SignalsAccumulate :
    (∀ v ∈ [0, 2 ^ 31 - 2, 2 ^ 31 - 1], CleatTakes (cleat5 v) hdr5 ∧ ((cleat5 v).cleat hdr5.index.toNat).value = v) ∧
    (∀ g < 16, (cleat5 0).bit (.shrGrp g) SHR_GRP.VALID = false) ∧
    Unheld (cleat5 0) hdr5.issuer.toNat ∧ (cleat5 0).segHolds (cleatSeg hdr5.index.toNat) = false := by
  unfold CleatTakes Unheld
  refine ⟨?_, ?_, ?_, ?_⟩ <;> decide +kernel

/-! ### Ill-formed commands, which WellFormed refuses -/

theorem test_wf_frame :
    Instr.wf (.write (frm (zeros 72) (zeros 4096))) = true ∧ Instr.wf (.write (frm (zeros 73) [])) = false ∧
    Instr.wf (.readResp (frm [] (zeros 4097))) = false ∧ Instr.wf (.halMessageLand (.frame (frm (zeros 73) []))) = false := by
  decide +kernel

theorem test_wf_descriptors :
    Instr.wf (.mma 0 (words 16 []) false) = true ∧ Instr.wf (.mma 0 (words 15 []) false) = false ∧
    Instr.wf (.jibAdd 0 (words 8 []) false) = true ∧ Instr.wf (.jibAdd 0 (words 9 []) false) = false ∧
    Instr.wf (.gather 0 (words 24 []) false) = true ∧ Instr.wf (.gather 0 [] false) = false := by decide +kernel

theorem test_wf_accesses :
    Instr.wf (.memRead 0 ⟨none, 0⟩ 4096 ⟨[], []⟩) = true ∧ Instr.wf (.memRead 0 ⟨none, 0⟩ 4097 ⟨[], []⟩) = false ∧
    Instr.wf (.memRead 0 ⟨none, 0⟩ 0 ⟨[], []⟩) = false ∧ Instr.wf (.memWrite 0 0 ⟨none, 0⟩ [] ⟨false, []⟩) = false ∧
    Instr.wf (.memWrite 0 0 ⟨none, 0⟩ (zeros 4096) ⟨false, []⟩) = true ∧ Instr.wf (.memWrite 0 0 ⟨none, 0⟩ (zeros 4097) ⟨false, []⟩) = false := by
  decide +kernel

theorem test_wf_reports :
    Instr.wf (.pfcFrame 0 0 0xFF (List.replicate 8 0)) = true ∧ Instr.wf (.pfcFrame 0 0 0xFF [0]) = false ∧
    Instr.wf (.thermalTrip [(0, 90), (1, 91)]) = true ∧ Instr.wf (.thermalTrip [(0, 90), (0, 91)]) = false := by decide +kernel

/-- No row of the table has bits, so no word spells a command (log entry 49). -/
theorem test_decode : decodeTableWord 64 0 = none ∧ State.reset.withFetchWord 64 0 = State.reset := ⟨rfl, rfl⟩

/-! ### Results the spec gives -/

/-- The next state of an outcome; the state after reset where there is none. -/
def after (o : Host.Outcome State Fault Refusal) : State :=
  match o with
  | .next t => t
  | _ => State.reset

/-- 01_organization.md, one global address: offset 0x100 of mast 3's activation memory on device 9. -/
theorem test_global_address :
    actBase 3 + 0x100 = 0x02010C000100 ∧ gDev 0x0004820_10C000100 = 9 ∧ gLocal 0x0004820_10C000100 = 0x02010C000100 := by decide +kernel

/-- `n` bytes of a value at an address. -/
def put (s : State) (a n v : Nat) : State := { s with mem := memPuts s.mem a (List.replicate n (BitVec.ofNat 8 v)) }

/-- Bytes of C after the walk of `mmaW`. -/
def walked (s : State) : List Byte :=
  let w := mmaW 0x10
  let plan := [s.mmaEntry 0 w (mmaBases w)]
  let b := (s.mmaBegin 0 0x10 w plan).mmaOpen 0 0x10 w .done plan
  (b.1.memDrain b.2 b.2.uses).1.bytes (actBase 0 + 8192) 4

/-- The state after an instruction of jib 0. -/
def jibRan (c : Fin 32 → List Word → Bool → Instr) (w : List Word) (s : State) : State := after (exec (c 0 w false) (prog w s))

/-- R45, R46, R48: 16 products of 1.5 × 1.5 and 16 of −0 × −0 under scales 1.5 and 1.5 give 81, 0x42A20000 in K32. -/
theorem test_mma_k4 :
    walked (put (put (put (put issuing (weightBase 0) 16 0x38) (weightBase 0 + 4096) 1 0x7F) (actBase 0) 16 0x38)
      (actBase 0 + 4096) 1 0x7F) = [0x00, 0x00, 0xA2, 0x42] := by decide +kernel

/-- R48: under a scale of code 0 the block is zero. -/
theorem test_mma_zero_block :
    walked (put (put (put issuing (weightBase 0) 16 0x38) (actBase 0) 16 0x38) (actBase 0 + 4096) 1 0x7F) = [0, 0, 0, 0] := by
  decide +kernel

/-- Words at element offsets of X1 and X2 of jib 0. -/
def jibData (n : Nat) (a b : List Nat) : State :=
  issuing.setJib 0 { store := memPuts (memPuts [] 1024 (a.flatMap (leBytes n))) 2048 (b.flatMap (leBytes n)) }

/-- Element `i` of X4. -/
def jibGot (n : Nat) (t : State) (i : Nat) : Nat := leNat (memGets (t.jib 0).store (4096 + n * i) n)

/-- R337: in K16, 128 + 0.25 ties to 128 and 0.5 + 128 is exact. -/
theorem test_jib_add_k16 :
    (let t := jibRan .jibAdd (jibW 2 1) (jibData 2 [0x4600, 0x3E00] [0x3D00, 0x4600])
     (jibGot 2 t 0, jibGot 2 t 1)) = (0x4600, 0x4601) := by decide +kernel

/-- R52: a difference wraps. -/
theorem test_jib_sub_wraps :
    jibGot 4 (jibRan .jibSub (jibW 3 2) (jibData 4 [0] [1])) 0 = 0xFFFFFFFF := by decide +kernel

/-- R152: a shift by 33 shifts by 1, and ASR keeps the sign. -/
theorem test_jib_shifts :
    jibGot 4 (jibRan .jibShl (jibW 0x0D 2) (jibData 4 [0x80000003] [33])) 0 = 6 ∧
    jibGot 4 (jibRan .jibAsr (jibW 0x0F 2) (jibData 4 [0x80000000] [33])) 0 = 0xC0000000 := by decide +kernel

/-- A compare counts its elements: 32 zeros are equal but for two. -/
theorem test_jib_cmpeq :
    (let t := jibRan .jibCmpeq (jibW 0x10 2 [(2, 4, 61)]) (jibData 4 [7, 0, 9] [])
     (Tbl.get 0 (t.jib 0).preds 1, (t.jib 0).result)) = (0xFFFFFFFA, 30) := by decide +kernel

/-- 05_jibs.md, a tree mask: eight draft nodes with parents −1, 0, 0, 1, 1, 2, 3, 5. -/
theorem test_treemask :
    (let s := jibData 2 [0xFFFF, 0, 0, 1, 1, 2, 3, 5] []
     let w := (jibW 0x54 3).set 0 (BitVec.ofNat 64 (0x54 + 3 * 2 ^ 8 + 3 * 2 ^ 11 + 8 * 2 ^ 27 + 0xFFFF * 2 ^ 42))
     let t := jibRan .treemask w s
     ((List.range 9).map (jibGot 8 t), (List.range 9).map (fun i => leNat (memGets (t.jib 0).store (3072 + 2 * i) 2)), (t.jib 0).result)) =
    ([0x01, 0x03, 0x05, 0x0B, 0x13, 0x25, 0x4B, 0xA5, 0], [0, 1, 1, 2, 2, 2, 3, 3, 0], 3) := by decide +kernel

/-- The same with 7 as the parent of node 7: its row is 0x80 and the status BAD_DESCRIPTOR. -/
theorem test_treemask_bad_parent :
    (let s := jibData 2 [0xFFFF, 0, 0, 1, 1, 2, 3, 7] []
     let w := (jibW 0x54 3).set 0 (BitVec.ofNat 64 (0x54 + 3 * 2 ^ 8 + 3 * 2 ^ 11 + 8 * 2 ^ 27 + 0xFFFF * 2 ^ 42))
     let t := jibRan .treemask w s
     (jibGot 8 t 6, jibGot 8 t 7, t.f (.jibStat 0 0) JIB_STAT.LAST_STATUS)) = (0x4B, 0x80, Status.badDescriptor.code) := by decide +kernel

/-- R155: among equal values the lower index ranks first. -/
theorem test_argmax_tie :
    (let t := jibRan .argmax (jibW 0x43 2) (jibData 4 [3, 8, 8, 1] [])
     leNat (memGets (t.jib 0).store 4096 4)) = 1 := by decide +kernel

/-- R124: ADD on int32 lanes wraps lane by lane and leaves the register's other lanes alone. -/
theorem test_shv_add :
    (let x : Sheave := { v := [(1, (0x00000001FFFFFFFF, false)), (2, (0x0000000200000001, false))] }
     let t := after (exec (.shvAdd 0 0) (firing (shvW 2) x))
     Tbl.get (0, false) (t.sheave 0 0).v 3) = (0x0000000300000000, false) := by decide +kernel

/-- R131: SWITCH with token 1 sends the data entry to its second output. -/
theorem test_switch :
    (let t := after (exec (.switch 0 0) (slotted 1 0x401 3 [(0, [{ v := 7 }]), (10, [{ v := 1 }])]))
     ((t.sheave 0 0).outq 0, (t.sheave 0 0).outq 1)) = ([], [{ v := 7 }]) := by decide +kernel

/-- R130: MERGE takes the entry that entered first. -/
theorem test_merge :
    (let t := after (exec (.merge 0 0) (slotted 3 3 0x11 [(0, [{ v := 7, at_ := 5 }]), (1, [{ v := 8, at_ := 4 }])]))
     ((t.sheave 0 0).outq 0, (t.sheave 0 0).outq 4)) = ([{ v := 8, at_ := 4 }], [{ v := 1 }]) := by decide +kernel

/-- R281, a skip at the end of a ring: the reply lands at BASE, a skip record with count 512 stands at BASE + 3,584, and
TAIL becomes 5,120; a reply of 2,048 B then does not fit. -/
theorem test_ring_skip :
    (let e := 128 * 2 + 70
     let s := ((((State.reset.setF (.halRing 2 70 0) HAL_RING.BASE (actBase 2)).setF (.halRing 2 70 1) HAL_RING.SIZE 256).setHptr e
       HAL_PTR.HEAD 2560).setHptr e HAL_PTR.TAIL 3584)
     match s.ringPlace e 1024 0 with
     | some (a, p, t) => let t := t.setHptr e HAL_PTR.TAIL p; (a == actBase 2, p, t.num (actBase 2 + 3584 + 8) 4, (t.ringPlace e 2048 0).isNone,
         ((t.setHptr e HAL_PTR.HEAD 3584).ringPlace e 2048 0).map (·.1) == some (actBase 2 + 1024))
     | none => (false, 0, 0, false, false)) = (true, 5120, 512, true, true) := by decide +kernel

/-- R300: a signal to a cleat at 2^31 − 1 saturates. -/
theorem test_cleat_add_saturates :
    (let t := after (exec (.cleatAdd hdr5 1 0) (cleat5 (2 ^ 31 - 1))); ((t.cleat 5).value, (t.cleat 5).sat)) = (2 ^ 31 - 1, true) := by
  decide +kernel

/-- R299: a consuming WAIT_GE takes its value at once. -/
theorem test_cleat_wait :
    (let t := after (exec (.cleatWaitGe hdr5 2 true 0) (cleat5 3)); ((t.cleat 5).value, t.clt.waits.length)) = (1, 0) := by decide +kernel

/-- R182: records are reserved in order, and committing the second one first moves TAIL only with the first. -/
theorem test_coil_order :
    (let s := (edged 0).setCo 0 0 COIL.RESV 2
     let t := after (exec (.coilCommit 0 0 1) s)
     (t.co 0 0 COIL.TAIL, (after (exec (.coilCommit 0 0 0) t)).co 0 0 COIL.TAIL)) = (0, 2) := by decide +kernel

/-- R226: a copy of 32 bytes. -/
theorem test_copy :
    (let s : State := { issuing with mem := memPuts [] (actBase 0) ((List.range 32).map (fun i => BitVec.ofNat 8 (i + 1))) }
     (after (exec (.copy 0 (tkW 1) false) (prog (tkW 1) s))).bytes (actBase 0 + 4096) 33) =
      (List.range 32).map (fun i => BitVec.ofNat 8 (i + 1)) ++ [0] := by decide +kernel

/-- R213: CLEAN keeps the line without its dirty bit, CLEAN_INV drops it, and each writes it back. -/
theorem test_clean :
    (let s := sliced { way := 0, line := 5, dirty := true }
     let t := after (exec (.clean 0 true) s)
     let u := after (exec (.cleanInv 0 true) s)
     ((t.slice 0).find 5, (u.slice 0).find 5, (t.slice 0).miss == (u.slice 0).miss)) =
      (some { way := 0, line := 5, dirty := false }, none, true) := by decide +kernel

/-- The reference clock counts 6.4 ns a period (R311): 625 periods are 4,000 ns. -/
theorem test_clock : ({ State.reset with refs := 625 } : State).now = 4000 ∧
    (match step { State.reset with refs := 624 } with | .next t => t.now | _ => 0) = 4000 := by decide +kernel

/-- R346: a quantum is 512 bit times, so two at 1.6 Tb/s end in the first nanosecond. -/
theorem test_pfc :
    (let s := State.reset.setF (.portCfg 0) PORT_CFG.PFC 1
     let t := after (exec (.pfcFrame 0 0 3 (List.replicate 8 2)) s)
     (Tbl.get 0 t.net.pauses (0, 0, 0), Tbl.get 0 t.net.pauses (0, 0, 1))) = (1, 0) := by decide +kernel

/-- R476: 105 °C trips, 104 °C does not. -/
theorem test_thermal_trip :
    (after (exec (.thermalTrip [(3, 105)]) State.reset)).bit .pwrStat PWR_STAT.STOPPED = true ∧
    (after (exec (.thermalTrip [(3, 104)]) State.reset)).bit .pwrStat PWR_STAT.STOPPED = false := by decide +kernel

end Sys2Proof.Tests
end

/-! The device ID: what a write of DEV_ID does to its register and to the connection entries (R41, R529, R530). -/

namespace Sys2Proof.Machine

/-! ### Connection entries and the registers they do not depend on -/

/-- A fold over a sparse table that ignores a key gives the same after that key is written. -/
theorem Tbl.foldl_set_of_ignored {κ α β : Type} [DecidableEq κ] {f : β → κ × α → β} {x : κ}
    (hf : ∀ b v, f b (x, v) = b) (t : List (κ × α)) (v : α) (b : β) :
    (Tbl.set t x v).foldl f b = t.foldl f b := by
  induction t generalizing b with
  | nil => exact hf b v
  | cons e t ih =>
    obtain ⟨k, w⟩ := e
    by_cases h : k = x
    · subst h
      simp [Tbl.set, hf]
    · simp [Tbl.set, h, ih]

/-- Two changes of registers alone are one. -/
theorem State.regsOnly_trans {s t u : State} (h : { t with regs := s.regs } = s) (h' : { u with regs := t.regs } = t) :
    { u with regs := s.regs } = s := by
  rw [← h'] at h
  exact h

/-- A write of DEV_ID adds no connection entry. -/
@[simp] theorem State.cnList_setF_devId (s : State) (F : Field) (v : Nat) : (s.setF .devId F v).cnList = s.cnList :=
  Tbl.foldl_set_of_ignored (fun _ _ => rfl) s.regs _ _

/-- Whether a shroud group is in a round rests on the group's state and on two registers of it. -/
theorem State.shrBusy_congr {s t : State} {g : Nat} (hshr : t.shr = s.shr)
    (hgrp : t.rd (.shrGrp g) = s.rd (.shrGrp g)) (hstat : t.rd (.shrStat g) = s.rd (.shrStat g)) :
    t.shrBusy g = s.shrBusy g := by
  simp only [State.shrBusy, State.bit, State.f, State.shrStat, State.shrGrp, hshr, hgrp, hstat]

/-! ### DEV_ID takes a value (R529) -/

/-- DEVICE takes the low 17 bits of a number, and ASSIGNED is set. -/
def State.assignDev (s : State) (v : Nat) : State := (s.setF .devId DEV_ID.DEVICE v).setF .devId DEV_ID.ASSIGNED 1

theorem State.onlyRegs_assignDev (s : State) (v : Nat) : OnlyRegs [.devId] s (s.assignDev v) :=
  ((OnlyRegs.refl [.devId] s).setF _ _ (List.mem_singleton_self _)).setF _ _ (List.mem_singleton_self _)

@[simp] theorem State.rd_assignDev (s : State) (v : Nat) {r : Reg} (h : r ≠ .devId) : (s.assignDev v).rd r = s.rd r :=
  (s.onlyRegs_assignDev v).2 r (by simpa using h)

@[simp] theorem State.cn_assignDev (s : State) (v k : Nat) (F : Field) : (s.assignDev v).cn k F = s.cn k F := by
  simp [State.cn, State.f]

@[simp] theorem State.cnList_assignDev (s : State) (v : Nat) : (s.assignDev v).cnList = s.cnList := by
  simp [State.assignDev]

@[simp] theorem State.dev_assignDev (s : State) (v : Nat) : (s.assignDev v).dev = v % 2 ^ 17 := by
  have hfield := (s.setF .devId DEV_ID.DEVICE v).f_setF_field .devId DEV_ID.ASSIGNED DEV_ID.DEVICE 1
    (by decide) (by decide) (by decide)
  rw [State.dev, State.assignDev, hfield]
  exact s.f_setF_same .devId DEV_ID.DEVICE v (by decide) (by decide)

@[simp] theorem State.devAssigned_assignDev (s : State) (v : Nat) : (s.assignDev v).devAssigned = true := by
  have hset := (s.setF .devId DEV_ID.DEVICE v).f_setF_same .devId DEV_ID.ASSIGNED 1 (by decide) (by decide)
  rw [State.devAssigned, State.bit, State.assignDev, hset]
  rfl

@[simp] theorem State.shrBusy_assignDev (s : State) (v g : Nat) : (s.assignDev v).shrBusy g = s.shrBusy g :=
  State.shrBusy_congr rfl (s.rd_assignDev v (by simp)) (s.rd_assignDev v (by simp))

/-! ### A changed ID ends the connections with other devices (R530) -/

/-- The entries that a change of the device ID leaves as they are. -/
def State.keepsConn (s : State) (c : Nat) : Prop := s.cn c CN.HOST = 1 ∨ s.cn c CN.STATE = cnIdle

/-- What a change of the device ID does to connection entry `c`. -/
def State.renumber (s : State) (c : Nat) : State :=
  if s.cn c CN.HOST = 1 ∨ s.cn c CN.STATE = cnIdle then s
  else if s.cn c CN.STATE = cnLost then s.setCn c CN.CAUSE 5 else s.connLost c 5

theorem State.renumber_of_keepsConn {s : State} {c : Nat} (h : s.keepsConn c) : s.renumber c = s := if_pos h

theorem State.renumber_of_lost {s : State} {c : Nat} (h : ¬ s.keepsConn c) (hl : s.cn c CN.STATE = cnLost) :
    s.renumber c = s.setCn c CN.CAUSE 5 :=
  (if_neg h).trans (if_pos hl)

/-- The first assignment of an ID, and the assignment of the same one, write DEV_ID and nothing else. -/
theorem State.setDevId_of_unchanged {s : State} {v : Nat} (h : s.devAssigned = false ∨ s.dev = v % 2 ^ 17) :
    s.setDevId v = s.assignDev v := by
  rcases h with h | h <;> simp [State.setDevId, State.assignDev, h]

/-- No round of a shroud group ends where none is in a round. -/
theorem State.foldl_shrRelease_of_idle {t : State} {l : List Nat} (h : ∀ g ∈ l, t.shrBusy g = false) :
    l.foldl (fun t g => if t.shrBusy g then t.shrRelease g .peerLost true else t) t = t :=
  List.foldlRecOn l _ (motive := (· = t)) rfl fun u hu g hg => by simp [hu, h g hg]

/-- A changed ID ends connections alone where no shroud group is in a round then. -/
theorem State.setDevId_of_changed {s : State} {v : Nat} (ha : s.devAssigned = true) (hd : s.dev ≠ v % 2 ^ 17)
    (hg : ∀ g, g < 16 → (s.cnList.foldl State.renumber (s.assignDev v)).shrBusy g = false) :
    s.setDevId v = s.cnList.foldl State.renumber (s.assignDev v) := by
  refine Eq.trans ?_ (State.foldl_shrRelease_of_idle fun g hg' => hg g (List.mem_range.1 hg'))
  have hchanged : (s.devAssigned && s.dev != v % 2 ^ 17) = true := by simpa [ha] using hd
  rw [← s.cnList_assignDev v]
  simp only [State.setDevId, hchanged, Bool.not_true, Bool.false_eq_true, if_false]
  rfl

/-- `t` is `s` but for the cause of loss of entries that are neither HOST nor IDLE, and a cause 5 stays. -/
structure Recaused (s t : State) : Prop where
  rest : { t with regs := s.regs } = s
  rd_of_ne : ∀ r, (∀ k, r ≠ .cn k CN.CAUSE.w) → t.rd r = s.rd r
  rd_of_keepsConn : ∀ k, s.keepsConn k → t.rd (.cn k CN.CAUSE.w) = s.rd (.cn k CN.CAUSE.w)
  cause_stays : ∀ k, s.cn k CN.CAUSE = 5 → t.cn k CN.CAUSE = 5

namespace Recaused

variable {s t u : State}

theorem refl (s : State) : Recaused s s := ⟨rfl, fun _ _ => rfl, fun _ _ => rfl, fun _ => id⟩

/-- A field outside the cause's word keeps its value. -/
theorem cn_of_ne (h : Recaused s t) (k : Nat) {F : Field} (hF : F.w ≠ CN.CAUSE.w) : t.cn k F = s.cn k F := by
  have hrd := h.rd_of_ne (.cn k F.w) (by simp [hF])
  simp only [State.cn, State.f, hrd]

theorem keepsConn_iff (h : Recaused s t) (k : Nat) : t.keepsConn k ↔ s.keepsConn k := by
  rw [State.keepsConn, State.keepsConn, h.cn_of_ne k (by decide), h.cn_of_ne k (by decide)]

theorem trans (h : Recaused s t) (h' : Recaused t u) : Recaused s u where
  rest := State.regsOnly_trans h.rest h'.rest
  rd_of_ne r hr := (h'.rd_of_ne r hr).trans (h.rd_of_ne r hr)
  rd_of_keepsConn k hk := (h'.rd_of_keepsConn k ((h.keepsConn_iff k).2 hk)).trans (h.rd_of_keepsConn k hk)
  cause_stays k hk := h'.cause_stays k (h.cause_stays k hk)

/-- Every field of a kept entry keeps its value. -/
theorem cn_of_keepsConn (h : Recaused s t) {k : Nat} (hk : s.keepsConn k) (F : Field) : t.cn k F = s.cn k F := by
  by_cases hF : F.w = CN.CAUSE.w
  · simp only [State.cn, State.f, hF, h.rd_of_keepsConn k hk]
  · exact h.cn_of_ne k hF

theorem shrBusy_eq (h : Recaused s t) (g : Nat) : t.shrBusy g = s.shrBusy g :=
  State.shrBusy_congr (by rw [← h.rest]) (h.rd_of_ne _ (by simp)) (h.rd_of_ne _ (by simp))

theorem dev_eq (h : Recaused s t) : t.dev = s.dev := by
  rw [State.dev, State.f, h.rd_of_ne .devId (by simp), State.dev, State.f]

theorem devAssigned_eq (h : Recaused s t) : t.devAssigned = s.devAssigned := by
  rw [State.devAssigned, State.bit, State.f, h.rd_of_ne .devId (by simp), State.devAssigned, State.bit, State.f]

end Recaused

theorem State.cause_setCn_cause (s : State) (c : Nat) : (s.setCn c CN.CAUSE 5).cn c CN.CAUSE = 5 :=
  s.f_setF_same _ CN.CAUSE 5 (by decide) (by decide)

/-- Cause 5 written to an entry that is not kept. -/
theorem State.recaused_setCn_cause {s : State} {c : Nat} (hc : ¬ s.keepsConn c) :
    Recaused s (s.setCn c CN.CAUSE 5) where
  rest := rfl
  rd_of_ne _ hr := s.rd_setF_ne _ _ (hr c).symm
  rd_of_keepsConn k hk := s.rd_setF_ne _ _ fun h => hc <| by
    obtain rfl : c = k := by simpa using h
    exact hk
  cause_stays k hk := by
    by_cases h : c = k
    · subst h
      exact s.cause_setCn_cause c
    · exact (s.f_setF_ne _ _ _ (by simpa using h)).trans hk

/-- A kept entry is passed over, and one that is LOST already takes cause 5. -/
theorem State.recaused_renumber {s : State} {c : Nat} (hc : s.keepsConn c ∨ s.cn c CN.STATE = cnLost) :
    Recaused s (s.renumber c) ∧ (¬ s.keepsConn c → (s.renumber c).cn c CN.CAUSE = 5) := by
  by_cases hk : s.keepsConn c
  · rw [State.renumber_of_keepsConn hk]
    exact ⟨Recaused.refl s, fun h => absurd hk h⟩
  · rw [State.renumber_of_lost hk (hc.resolve_left hk)]
    exact ⟨State.recaused_setCn_cause hk, fun _ => s.cause_setCn_cause c⟩

/-- The same of a list of entries, each of them HOST, IDLE or LOST. -/
theorem State.recaused_foldl_renumber {l : List Nat} {s : State}
    (h : ∀ k ∈ l, s.keepsConn k ∨ s.cn k CN.STATE = cnLost) :
    Recaused s (l.foldl State.renumber s) ∧
      ∀ k ∈ l, ¬ s.keepsConn k → (l.foldl State.renumber s).cn k CN.CAUSE = 5 := by
  induction l generalizing s with
  | nil => exact ⟨Recaused.refl s, by simp⟩
  | cons c l ih =>
    obtain ⟨hstep, hcause⟩ := State.recaused_renumber (h c List.mem_cons_self)
    obtain ⟨hrest, hcauses⟩ := ih (s := s.renumber c) fun k hk => by
      rw [hstep.keepsConn_iff, hstep.cn_of_ne k (by decide)]
      exact h k (List.mem_cons_of_mem c hk)
    refine ⟨hstep.trans hrest, fun k hk hkept => ?_⟩
    rcases List.mem_cons.1 hk with rfl | hk
    · exact hrest.cause_stays k (hcause hkept)
    · exact hcauses k hk (by rwa [hstep.keepsConn_iff])

/-! ### The register write DEV_ID -/

/-- While a section is loaded the write is refused (R41). -/
theorem exec_devId_of_loaded {s : State} (v : Word) (h : s.anyLoaded = true) :
    exec (.devId v) s = .next (s.regAnswer .denied 0) := by
  have hexec : exec (.devId v) s = execDevId v s := rfl
  rw [hexec, execDevId, if_pos h]

theorem exec_devId_of_not_loaded {s : State} (v : Word) (h : s.anyLoaded = false) :
    exec (.devId v) s = .next ((s.setDevId v.toNat).regAnswer .done 0) := by
  have hexec : exec (.devId v) s = execDevId v s := rfl
  rw [hexec, execDevId, if_neg (by simp [h])]

end Sys2Proof.Machine

namespace Sys2Proof

open Machine

/-- Settles O12: the loop over the entries, each HOST, IDLE or LOST, writes causes of loss alone. -/
theorem deviceId : Obligations.DeviceId := by
  intro v s
  refine ⟨exec_devId_of_loaded v, fun hl hsame => ?_, fun hl ha hd hconns hshr => ?_⟩
  · refine ⟨s.setDevId v.toNat, exec_devId_of_not_loaded v hl, ?_⟩
    rw [State.setDevId_of_unchanged hsame]
    exact ⟨s.onlyRegs_assignDev _, s.dev_assignDev _, s.devAssigned_assignDev _⟩
  · obtain ⟨hre, hcause⟩ := State.recaused_foldl_renumber (l := s.cnList) (s := s.assignDev v.toNat) fun k hk => by
      simpa [State.keepsConn, or_assoc] using hconns k hk
    have hidle (g : Nat) (hg : g < 16) : (s.cnList.foldl State.renumber (s.assignDev v.toNat)).shrBusy g = false := by
      rw [hre.shrBusy_eq, s.shrBusy_assignDev, hshr g hg]
    rw [exec_devId_of_not_loaded v hl, State.setDevId_of_changed ha hd hidle]
    refine ⟨_, rfl, ?_, ?_, State.regsOnly_trans (s.onlyRegs_assignDev _).1 hre.rest,
      fun k hk hhost hlost => ?_, fun k F hk => ?_, fun r hr hcn => ?_⟩
    · rw [hre.dev_eq, s.dev_assignDev]
    · rw [hre.devAssigned_eq, s.devAssigned_assignDev]
    · exact hcause k hk (by simp [State.keepsConn, hhost, hlost, cnLost, cnIdle])
    · rw [hre.cn_of_keepsConn (by simpa [State.keepsConn] using hk), s.cn_assignDev]
    · rw [hre.rd_of_ne r (fun k => hcn k _), s.rd_assignDev _ hr]

end Sys2Proof
